-- ==== Sys2Proof/Word.lean ====
section
/-! DEFINITION. The word types of the part (03 Table 3.1, 05 R52, R55). -/
namespace Sys2Proof

/-- A 32-bit register, instruction word or lane mask. -/
abbrev Word := BitVec 32

/-- A byte of memory. -/
abbrev Byte := BitVec 8

/-- A 56-bit virtual address (13 R177) or program counter (05 R52). -/
abbrev VAddr := BitVec 56

end Sys2Proof
end

