-- ==== Sys2Proof/Syntax.lean ====
section
/-! DEFINITION. The syntax of the KV-88-A: one constructor per row of the table of operations and events.
A row that is an instruction word carries its operand fields (05 R54, R55); a row that is an event of an agent carries
what names the thing that moves (95_what_each_step_holds.md). -/
namespace Sys2Proof

/-- A split: the cohort's identifier, the group's position in the cohort, and the split index (11 R148). -/
structure Who where
  co : Nat
  gi : Nat
  si : Nat
  deriving DecidableEq, Repr

/-- A translation root (13 R190): the Headframe root or the root of a virtual device. -/
inductive Root where
  | hf
  | vd (n : Nat)
  deriving DecidableEq, Repr

/-- A register master (25 R337). -/
inductive Master where
  | headframe (core : Nat)
  | host (f : Nat)
  | adit
  deriving DecidableEq, Repr

/-- What a request asks of a location (13 R196 to R198): a plain write, or an operation of 15 Table 15.2. -/
inductive MemOp where
  | write (bytes : List (BitVec 8))
  | atom (op : Nat) (d x : BitVec 64)
  deriving DecidableEq, Repr

/-- A sequenced request to a home slice (13 R198): source, sequence, location (a byte key of memory), operation, and the number
under which its write is tracked, 0 for none (25 R343). -/
structure SliceReq where
  src : Nat
  seq : Nat
  key : Nat
  op : MemOp
  vd : Nat := 0
  deriving DecidableEq, Repr

/-- A request to a cluster atomic unit (13 R196, R197). -/
structure AtomReq where
  key : Nat
  op : Nat
  d : BitVec 64
  x : BitVec 64
  /-- The number under which the write is tracked, 0 for none (25 R343). -/
  vd : Nat := 0
  deriving DecidableEq, Repr

/-- What another member of a collective brings to it (17 R256): its command and its elements in TD's format. -/
structure Peer where
  rank : Nat
  fn : Nat
  opt : BitVec 32
  fmt : Nat
  exts : List Nat
  data : List (BitVec 32)
  deriving DecidableEq, Repr

/-- Three vector registers (format V3). -/
structure V3 where
  g : BitVec 3
  d : BitVec 7
  a : BitVec 7
  b : BitVec 7
  deriving DecidableEq, Repr

/-- Vector compare (format VC). -/
structure VC where
  g : BitVec 3
  pd : BitVec 3
  cc : BitVec 3
  a : BitVec 7
  b : BitVec 7
  cm : BitVec 2
  deriving DecidableEq, Repr

/-- Vector immediate (format VI). -/
structure VI where
  g : BitVec 3
  d : BitVec 7
  a : BitVec 7
  imm : BitVec 8
  deriving DecidableEq, Repr

/-- Vector shift or rotate by a constant (format VI, R137). -/
structure VN where
  g : BitVec 3
  d : BitVec 7
  a : BitVec 7
  n : BitVec 5
  deriving DecidableEq, Repr

/-- Two vector registers (format V2). -/
structure V2 where
  g : BitVec 3
  d : BitVec 7
  a : BitVec 7
  deriving DecidableEq, Repr

/-- Vector and scalar (format VS). -/
structure VS where
  g : BitVec 3
  d : BitVec 7
  a : BitVec 7
  s : BitVec 6
  deriving DecidableEq, Repr

/-- Lane operation with a validity predicate (format L). -/
structure LF where
  g : BitVec 3
  d : BitVec 7
  a : BitVec 7
  pv : BitVec 3
  deriving DecidableEq, Repr

/-- Lane movement with a segment code (format L, R171). -/
structure LM where
  g : BitVec 3
  d : BitVec 7
  a : BitVec 7
  pv : BitVec 3
  sub : BitVec 2
  deriving DecidableEq, Repr

/-- Census of a predicate (format L, R172). -/
structure LC where
  g : BitVec 3
  d : BitVec 7
  pa : BitVec 3
  pv : BitVec 3
  deriving DecidableEq, Repr

/-- Three scalar registers (format S3). -/
structure S3 where
  d : BitVec 6
  a : BitVec 6
  b : BitVec 6
  deriving DecidableEq, Repr

/-- Two scalar registers (format S3, unary). -/
structure S2 where
  d : BitVec 6
  a : BitVec 6
  deriving DecidableEq, Repr

/-- Scalar compare (format S3). -/
structure SC where
  d : BitVec 6
  a : BitVec 6
  b : BitVec 6
  cc : BitVec 3
  deriving DecidableEq, Repr

/-- Scalar immediate (format SI). -/
structure SI where
  d : BitVec 6
  a : BitVec 6
  imm : BitVec 10
  deriving DecidableEq, Repr

/-- Scalar shift by a constant (format SI). -/
structure SN where
  d : BitVec 6
  a : BitVec 6
  n : BitVec 5
  deriving DecidableEq, Repr

/-- Scalar halfword (format SW). -/
structure SW where
  d : BitVec 6
  imm : BitVec 16
  deriving DecidableEq, Repr

/-- Predicate branch (format B). -/
structure BR where
  p : BitVec 3
  o : BitVec 20
  deriving DecidableEq, Repr

/-- Memory load (format M). -/
structure ML where
  g : BitVec 3
  d : BitVec 7
  o : BitVec 7
  sz : BitVec 2
  bp : BitVec 2
  l : BitVec 4
  deriving DecidableEq, Repr

/-- Memory store (format M, L = 0). -/
structure MS where
  g : BitVec 3
  d : BitVec 7
  o : BitVec 7
  sz : BitVec 2
  bp : BitVec 2
  deriving DecidableEq, Repr

/-- Global atomic that returns a value (format A). -/
structure AL where
  scope : BitVec 3
  d : BitVec 7
  a : BitVec 7
  l : BitVec 4
  deriving DecidableEq, Repr

/-- Global atomic that returns nothing (format A, L = 0). -/
structure AS where
  scope : BitVec 3
  d : BitVec 7
  a : BitVec 7
  deriving DecidableEq, Repr

/-- Scratch atomic that returns a value (format A, scope 0). -/
structure ALs where
  d : BitVec 7
  a : BitVec 7
  l : BitVec 4
  deriving DecidableEq, Repr

/-- Scratch atomic that returns nothing (format A, scope and L 0). -/
structure ASs where
  d : BitVec 7
  a : BitVec 7
  deriving DecidableEq, Repr

/-- Accumulator read (format E, R244); the register is 64 h + d. -/
structure AG where
  h : BitVec 1
  sa : BitVec 6
  sb : BitVec 6
  l : BitVec 4
  deriving DecidableEq, Repr

/-- Matrix loop (format MX). -/
structure MX where
  ta : BitVec 6
  tb : BitVec 6
  acc : BitVec 5
  k : BitVec 5
  deriving DecidableEq, Repr

/-- The operations of the part: instruction words, then the events of its agents. -/
inductive Instr where
  | iadd (x : V3)
  | isub (x : V3)
  | imulLo (x : V3)
  | imulHiS (x : V3)
  | imac (x : V3)
  | iabd (x : V3)
  | iminS (x : V3)
  | imaxS (x : V3)
  | iminN (x : V3)
  | imaxN (x : V3)
  | and (x : V3)
  | or (x : V3)
  | xor (x : V3)
  | andn (x : V3)
  | shl (x : V3)
  | shr (x : V3)
  | sar (x : V3)
  | rot (x : V3)
  | fadd (x : V3)
  | fsub (x : V3)
  | fmul (x : V3)
  | ffma (x : V3)
  | fmin (x : V3)
  | fmax (x : V3)
  | haddBf16x2 (x : V3)
  | hmulBf16x2 (x : V3)
  | hfmaBf16x2 (x : V3)
  | hfmaF16x2 (x : V3)
  | sel (x : V3)
  | permB8 (x : V3)
  | dot4S8 (x : V3)
  | dot8S4 (x : V3)
  | icmpS32 (x : VC)
  | icmpN32 (x : VC)
  | fcmpF32 (x : VC)
  | plog (g : BitVec 3) (p : BitVec 3) (f : BitVec 3) (a : BitVec 3) (b : BitVec 3) (m : BitVec 2)
  | iaddi (x : VI)
  | shli (x : VN)
  | shri (x : VN)
  | sari (x : VN)
  | roti (x : VN)
  | movi (g : BitVec 3) (d : BitVec 7) (i : BitVec 8)
  | andi (x : VI)
  | cvt (g : BitVec 3) (d : BitVec 7) (a : BitVec 7) (t : BitVec 4) (s : BitVec 4)
  | movB32 (x : V2)
  | notB32 (x : V2)
  | inegS32 (x : V2)
  | iabsS32 (x : V2)
  | popcB32 (x : V2)
  | clzB32 (x : V2)
  | ctzB32 (x : V2)
  | brevB32 (x : V2)
  | fnegF32 (x : V2)
  | fabsF32 (x : V2)
  | fintF32 (x : V2)
  | exp2 (x : V2)
  | log2 (x : V2)
  | rcp (x : V2)
  | rsqrt (x : V2)
  | sqrt (x : V2)
  | sinpi (x : V2)
  | cospi (x : V2)
  | tanh (x : V2)
  | rngB32 (x : V2)
  | rnguF32 (x : V2)
  | packhBf16x2 (x : V2)
  | packhF16x2 (x : V2)
  | unpackhBf16x2 (x : V2)
  | unpackhF16x2 (x : V2)
  | iaddVs (x : VS)
  | imulLoVs (x : VS)
  | imulHiN32Vs (x : VS)
  | iaddwS64 (x : VS)
  | faddVs (x : VS)
  | fsubVs (x : VS)
  | fmulVs (x : VS)
  | ffmaVs (x : VS)
  | lpick (x : LM)
  | lrot (x : LM)
  | lslide (x : LM)
  | lflip (x : LM)
  | lrev (x : LM)
  | lfoldIaddS32 (x : LF)
  | lfoldIminS32 (x : LF)
  | lfoldImaxS32 (x : LF)
  | lfoldFaddF32 (x : LF)
  | lfoldIminN32 (x : LF)
  | lfoldImaxN32 (x : LF)
  | lfoldFminF32 (x : LF)
  | lfoldFmaxF32 (x : LF)
  | lfoldAndB32 (x : LF)
  | lfoldOrB32 (x : LF)
  | lfoldXorB32 (x : LF)
  | lpreIaddS32 (x : LF)
  | lpreIminS32 (x : LF)
  | lpreImaxS32 (x : LF)
  | lpreFaddF32 (x : LF)
  | lprexIaddS32 (x : LF)
  | lprexIminS32 (x : LF)
  | lprexImaxS32 (x : LF)
  | lprexFaddF32 (x : LF)
  | pmask (x : LC)
  | pcount (x : LC)
  | pfirst (x : LC)
  | pparity (x : LC)
  | lpeersB32 (x : LF)
  | lpeersB64 (x : LF)
  | lrankB32 (x : LF)
  | lrankB64 (x : LF)
  | lsameB32 (x : LF)
  | lsameB64 (x : LF)
  | movsRead (g : BitVec 3) (d : BitVec 7) (k : BitVec 1) (s : BitVec 14)
  | movsWrite (g : BitVec 3) (d : BitVec 7) (k : BitVec 1) (s : BitVec 12)
  | bcastB32 (g : BitVec 3) (d : BitVec 7) (k : BitVec 6)
  | rdlaneB32 (g : BitVec 3) (d : BitVec 7) (k : BitVec 6) (n : BitVec 5)
  | rdlaneFirstB32 (g : BitVec 3) (d : BitVec 7) (k : BitVec 6)
  | sIadd (x : S3)
  | sIsub (x : S3)
  | sImulLo (x : S3)
  | sImulHiS (x : S3)
  | sImulHiN (x : S3)
  | sIminS (x : S3)
  | sImaxS (x : S3)
  | sIminN (x : S3)
  | sImaxN (x : S3)
  | sAnd (x : S3)
  | sOr (x : S3)
  | sXor (x : S3)
  | sAndn (x : S3)
  | sShl (x : S3)
  | sShr (x : S3)
  | sSar (x : S3)
  | sRot (x : S3)
  | sPopc (x : S2)
  | sClz (x : S2)
  | sCtz (x : S2)
  | sBrev (x : S2)
  | sNot (x : S2)
  | sIaddS64 (x : S3)
  | sIsubS64 (x : S3)
  | sFadd (x : S3)
  | sFsub (x : S3)
  | sFmul (x : S3)
  | sFfma (x : S3)
  | sFmin (x : S3)
  | sFmax (x : S3)
  | sCvtF32S32 (x : S2)
  | sCvtF32N32 (x : S2)
  | sCvtS32F32 (x : S2)
  | sCvtN32F32 (x : S2)
  | sIcmpS32 (x : SC)
  | sIcmpN32 (x : SC)
  | sFcmpF32 (x : SC)
  | csel (x : S3)
  | sIaddi (x : SI)
  | sAndi (x : SI)
  | sOri (x : SI)
  | sXori (x : SI)
  | sShli (x : SN)
  | sShri (x : SN)
  | sSari (x : SN)
  | sMovi (d : BitVec 6) (i : BitVec 10)
  | movwZ (x : SW)
  | movwS (x : SW)
  | movwHi (x : SW)
  | movwLo (x : SW)
  | brAny (x : BR)
  | brAll (x : BR)
  | brNone (x : BR)
  | brUni (x : BR)
  | brs (c : BitVec 3) (s : BitVec 6) (o : BitVec 16)
  | jmp (o : BitVec 16)
  | brx (a : BitVec 7)
  | call (a : BitVec 6) (l : BitVec 6)
  | ret (l : BitVec 6)
  | join
  | waitj (p : BitVec 3) (n : BitVec 19)
  | push (o : BitVec 20)
  | pop
  | yield (n : BitVec 10)
  | exit
  | barc
  | barpArrive (a : BitVec 6) (q : BitVec 6)
  | barpSync (a : BitVec 6) (q : BitVec 6)
  | barpWait (a : BitVec 6) (q : BitVec 6)
  | spawn (e : BitVec 6) (a : BitVec 6)
  | spawnU (e : BitVec 6) (a : BitVec 6)
  | launch (a : BitVec 6) (c : BitVec 6)
  | xpand (k : BitVec 3) (s : BitVec 6) (o : BitVec 6)
  | xnext (p : BitVec 3)
  | sred (a : BitVec 6)
  | sredGet (d : BitVec 6) (l : BitVec 4)
  | recurse (o : BitVec 6)
  | wkids (c : BitVec 6) (d : BitVec 6) (l : BitVec 4)
  | wret
  | ldg (x : ML)
  | stg (x : MS)
  | lds (x : ML)
  | sts (x : MS)
  | ldc (g : BitVec 3) (d : BitVec 7) (o : BitVec 7) (z : BitVec 2) (l : BitVec 4)
  | prefClu (g : BitVec 3) (o : BitVec 7) (b : BitVec 2)
  | prefHome (g : BitVec 3) (o : BitVec 7) (b : BitVec 2)
  | atomAddS32 (x : AL)
  | atomFaddF32 (x : AL)
  | atomMinS32 (x : AL)
  | atomMaxS32 (x : AL)
  | atomAndB32 (x : AL)
  | atomOrB32 (x : AL)
  | atomXchgB32 (x : AL)
  | atomCasB32 (x : AL)
  | atomAddN64 (x : AL)
  | redAddS32 (x : AS)
  | redFaddF32 (x : AS)
  | redAddN64 (x : AS)
  | ldAcqB32 (x : AL)
  | stRelB32 (x : AS)
  | scAddS32 (x : AL)
  | scCasB32 (x : AL)
  | atomAddS32Scr (x : ALs)
  | atomFaddF32Scr (x : ALs)
  | atomMinS32Scr (x : ALs)
  | atomMaxS32Scr (x : ALs)
  | atomAndB32Scr (x : ALs)
  | atomOrB32Scr (x : ALs)
  | atomXchgB32Scr (x : ALs)
  | atomCasB32Scr (x : ALs)
  | atomAddN64Scr (x : ALs)
  | redAddS32Scr (x : ASs)
  | redFaddF32Scr (x : ASs)
  | redAddN64Scr (x : ASs)
  | ldAcqB32Scr (x : ALs)
  | stRelB32Scr (x : ASs)
  | fence (s : BitVec 3)
  | xfence (s : BitVec 3) (a : BitVec 6) (b : BitVec 6)
  | watchB32 (c : BitVec 3) (a : BitVec 6) (b : BitVec 6)
  | watchB64 (c : BitVec 3) (a : BitVec 6) (b : BitVec 6)
  | watchCancel
  | waitc (s : BitVec 3) (d : BitVec 6) (t : BitVec 6)
  | copy (b : BitVec 6)
  | copyZero (b : BitVec 6)
  | gather (b : BitVec 6)
  | scatter (b : BitVec 6)
  | scatterAdd (b : BitVec 6)
  | mloop (x : MX)
  | mloopSm (b : BitVec 6) (c : BitVec 5) (k : BitVec 5)
  | mloopPro (x : MX)
  | mloopGrp (x : MX)
  | tidset (a : BitVec 6) (n : BitVec 6)
  | tidget (j : BitVec 3) (d : BitVec 6) (n : BitVec 6)
  | aalloc (n : BitVec 6) (c : BitVec 6)
  | afree (n : BitVec 6) (c : BitVec 6)
  | agetAcc (x : AG)
  | agetM (x : AG)
  | agetL (x : AG)
  | fclaim (b : BitVec 6)
  | chain (c : BitVec 6) (e : BitVec 6)
  | chwait (s : BitVec 3) (c : BitVec 6) (n : BitVec 6)
  | collAllred (b : BitVec 6) (g : BitVec 6)
  | collRedsc (b : BitVec 6) (g : BitVec 6)
  | collAllgat (b : BitVec 6) (g : BitVec 6)
  | collBcast (b : BitVec 6) (g : BitVec 6)
  | svc (d : BitVec 6) (a : BitVec 6) (n : BitVec 10)
  | escal (n : BitVec 8)
  | brk (n : BitVec 16)
  | dfold (a : BitVec 7)
  | lmark (a : BitVec 6) (n : BitVec 16)
  | hintImm (h : BitVec 22)
  | hintMod (e : BitVec 1) (m : BitVec 2) (s : BitVec 1) (o : BitVec 1) (b : BitVec 1) (c : BitVec 3) (l : BitVec 4)
  | hintGuard (n : BitVec 3)
  | hintSched (y : BitVec 1) (u : BitVec 1)
  | hintRep (c : BitVec 6) (d : BitVec 4) (a : BitVec 4) (b : BitVec 4)
  | hintNop (t : BitVec 22)
  | dpair (i : BitVec 10) (r : BitVec 5) (j : BitVec 10) (s : BitVec 5)
  | dpairSingle (i : BitVec 10) (r : BitVec 5)
  | instructionFetchFault (w : Who)
  | resultWriteback (w : Who) (ord : Nat)
  | winzeGroupStart (co : Nat)
  | chainEntryRead (k : Nat)
  | walkerHandover (k : Nat)
  | nodeStart (n : Nat)
  | deviceLaunchAccept (n : Nat)
  | nodeComplete (n : Nat)
  | nodePublish (n : Nat)
  | cohortDispatch (l die : Nat)
  | windowEnd (l die : Nat)
  | taskGroupDispatch (die l e : Nat)
  | cradleAgeExpiry (die l e : Nat)
  | matrixEngineRun (cell : Nat)
  | copyEngineRun (id : Nat)
  | gatherUnitRun (id : Nat)
  | collectiveEngineRun (id : Nat) (peers : List Peer)
  | commandComplete (id : Nat)
  | homeSliceRequest (r : SliceReq)
  | clusterAtomicApply (k : Nat) (r : AtomReq)
  | monitorPoll (w : Who)
  | waitcWake (w : Who)
  | waitcTimeout (w : Who)
  | waitjTimeout (w : Who)
  | fenceComplete (w : Who)
  | scTicketGrant (sys : Bool)
  | epochEnd (co : Nat)
  | orderedApply (l : Nat)
  | orderStall (l : Nat)
  | replayScStall (l : Nat)
  | orderedCellWaitStall (l die : Nat)
  | dirtyWritebackDeadline (k line : Nat)
  | llsUpdate (cell : Nat)
  | splitBoost (w : Who)
  | yieldPauseEnd (w : Who)
  | quantumEnd (cell : Nat)
  | temperatureCheck (die : Nat) (temps : List Nat)
  | thermalMove (die hot : Nat)
  | accumulatorGrant (cell : Nat)
  | pageWalk (k : Nat) (root : Root) (va : Nat)
  | agentFaultService (n : Nat) (discard : Bool)
  | svcReply (w : Who) (v : BitVec 32)
  | handlerBudgetSpent (co gi : Nat)
  | preemptRequest (die : Nat) (v : BitVec 64)
  | cohortSave (co : Nat)
  | cohortRestore (co : Nat)
  | eccUncorrectedCell (co : Nat) (lost : List Nat)
  | csmodeWrite (k : Nat) (hi : Bool) (v : BitVec 64)
  | bankModeChangeDone (k bank : Nat)
  | rrcWrite (die n : Nat) (v : BitVec 64)
  | qcfgWrite (cell q : Nat) (v : BitVec 64)
  | translationInvalidate (v : BitVec 64)
  | invalidationComplete
  | ctxpoolPush (die c : Nat) (v : BitVec 64)
  | extpoolPush (die : Nat) (v : BitVec 64)
  | hostAppend (f j : Nat) (v : BitVec 64)
  | hostWindowRead (f off n : Nat)
  | hostWindowWrite (f off : Nat) (bytes : List (BitVec 8))
  | watchpointWrite (k n : Nat) (ctl : Bool) (v : BitVec 64)
  | clusterStop (k : Nat)
  | loupeGo (k : Nat)
  | loupeSave (k : Nat)
  | loupeStep (k : Nat) (v : BitVec 64)
  | assayLogConfig (die off : Nat) (v : BitVec 64)
  | faceterLogResume (die : Nat)
  | vdStop (n : Nat)
  | vdStopDone
  | vdResume (n : Nat)
  | linkLaneForce (p : Nat)
  | linkLaneFailure (p lane : Nat)
  | linkPortDown (p : Nat)
  | linkRequestTimeout (w : Who)
  | attestationRequest (v : BitVec 64)
  | cellFence (c : Nat)
  | sliceSpare (n : Nat)
  | hbmChannelSpare (n : Nat)
  | cellFenceLift (c : Nat)
  | linkLaneRepair (n : Nat)
  | repairComplete
  | powerLimitReached (block : Nat)
  | registerWrite (m : Master) (off : Nat) (v : BitVec 64)
  | moduleReset
  | mainPowerChange (on : Bool)
  | mctpControl (msg : List (BitVec 8))
  | pldmPlatformMonitor (msg : List (BitVec 8))
  | pldmFirmwareUpdate (image : List (BitVec 8)) (whole : Bool)
  | aditRegisterRead (off : Nat)
  | aditRegisterWrite (off : Nat) (v : BitVec 64)
  | getVersion
  | getCapabilities
  | negotiateAlgorithms
  | getMeasurements (index : Nat)
  | vendorDefinedRequest (nonce : BitVec 64) (xfer : Nat)
  | chunkGet
  | encodingNotAnInstruction (w : BitVec 32)
  | linkPortUp (p : Nat)
  | requestRetry (src seq : Nat)
  deriving DecidableEq, Repr

end Sys2Proof
end

