-- ==== Sys2Proof/WellFormed.lean ====
section
/-! DEFINITION. Which words are instructions: the checks of 05 R55, R59 and of the family chapters that a word's own
fields decide. A word that breaks one traps ILLEGAL_INSTRUCTION (R61). -/
namespace Sys2Proof

/-- A register field that names an even-odd pair (09 R128). -/
def even {n : Nat} (r : BitVec n) : Bool := r.toNat % 2 == 0

/-- The registers of an access of format M (15 R218): a pair is even, a quad a multiple of 4. -/
def regAlign (sz : BitVec 2) (d : BitVec 7) : Bool :=
  if sz == 1 then d.toNat % 2 == 0 else if sz == 2 then d.toNat % 4 == 0 else true

/-- Type codes of 09 Table 9.4 in `cvt`: 15 traps, 12 traps as a source, 64-bit types name pairs (R128, R138). -/
def cvtWf (d a : BitVec 7) (t s : BitVec 4) : Bool :=
  t != 15 && s != 15 && s != 12 && (!(t == 6 || t == 7) || even d) && (!(s == 6 || s == 7) || even a)

/-- The kind of a special register (07 R124): uniform over the group, or per lane. -/
inductive SelKind where
  | uniform
  | lane
  deriving DecidableEq, Repr

/-- The allocated selectors and their kinds (07 Table 7.7, 19 Table 19.8, 21 Table 21.2, 23 Table 23.12). -/
def selKind (n : Nat) : Option SelKind :=
  if n = 0x00 then some .lane
  else if n ≤ 0x07 then some .uniform
  else if n ≤ 0x09 then some .lane
  else if 0x10 ≤ n ∧ n ≤ 0x15 then some .lane
  else if 0x18 ≤ n ∧ n ≤ 0x1D then some .lane
  else if 0x20 ≤ n ∧ n ≤ 0x25 then some .uniform
  else if 0x28 ≤ n ∧ n ≤ 0x2D then some .uniform
  else if 0x30 ≤ n ∧ n ≤ 0x35 then some .uniform
  else if 0x38 ≤ n ∧ n ≤ 0x3B then some .uniform
  else if n = 0x40 then some .lane
  else if 0x41 ≤ n ∧ n ≤ 0x46 then some .uniform
  else if 0x50 ≤ n ∧ n ≤ 0x54 then some .lane
  else if n = 0x55 ∨ n = 0x56 then some .uniform
  else if 0x58 ≤ n ∧ n ≤ 0x5A then some .lane
  else if 0x60 ≤ n ∧ n ≤ 0x69 then some .lane
  else if 0x80 ≤ n ∧ n ≤ 0x8D then some .uniform
  else if 0x90 ≤ n ∧ n ≤ 0x92 then some .uniform
  else if 0x98 ≤ n ∧ n ≤ 0x9A then some .uniform
  else if n = 0xA0 ∨ n = 0xA1 then some .uniform
  else if 0x100 ≤ n ∧ n ≤ 0x102 then some .lane
  else if 0x103 ≤ n ∧ n ≤ 0x105 then some .uniform
  else none

/-- The selectors that `movs` may write (21 Table 21.2): `%trap.rpc`, `%trap.rpch`, `%trap.rpos` and `%tvec`. -/
def selWritable (n : Nat) : Bool := n == 0x90 || n == 0x91 || n == 0x92 || n == 0x98

/-- 11 R174: a scalar destination is unguarded, below `s64`, and reads a uniform register only. -/
def movsReadWf (g : BitVec 3) (d : BitVec 7) (k : BitVec 1) (s : BitVec 14) : Bool :=
  match selKind s.toNat with
  | none => false
  | some kd => k == 0 || (g == 7 && d.toNat < 64 && kd == .uniform)

/-- 11 R176: the selector is writable; a scalar source is unguarded and below `s64`. -/
def movsWriteWf (g : BitVec 3) (d : BitVec 7) (k : BitVec 1) (s : BitVec 12) : Bool :=
  selWritable s.toNat && (k == 0 || (g == 7 && d.toNat < 64))

/-- The checks a word's own fields decide. An event is not a word and has none. -/
def Instr.wf : Instr → Bool
  | .iadd _ => true
  | .isub _ => true
  | .imulLo _ => true
  | .imulHiS _ => true
  | .imac _ => true
  | .iabd _ => true
  | .iminS _ => true
  | .imaxS _ => true
  | .iminN _ => true
  | .imaxN _ => true
  | .and _ => true
  | .or _ => true
  | .xor _ => true
  | .andn _ => true
  | .shl _ => true
  | .shr _ => true
  | .sar _ => true
  | .rot _ => true
  | .fadd _ => true
  | .fsub _ => true
  | .fmul _ => true
  | .ffma _ => true
  | .fmin _ => true
  | .fmax _ => true
  | .haddBf16x2 _ => true
  | .hmulBf16x2 _ => true
  | .hfmaBf16x2 _ => true
  | .hfmaF16x2 _ => true
  | .sel _ => true
  | .permB8 _ => true
  | .dot4S8 _ => true
  | .dot8S4 _ => true
  | .icmpS32 x => x.pd != 7 && x.cc.toNat ≤ 5
  | .icmpN32 x => x.pd != 7 && x.cc.toNat ≤ 5
  | .fcmpF32 x => x.pd != 7
  | .plog _ p _ _ _ _ => p != 7
  | .iaddi _ => true
  | .shli _ => true
  | .shri _ => true
  | .sari _ => true
  | .roti _ => true
  | .movi _ _ _ => true
  | .andi _ => true
  | .cvt _ d a t s => cvtWf d a t s
  | .movB32 _ => true
  | .notB32 _ => true
  | .inegS32 _ => true
  | .iabsS32 _ => true
  | .popcB32 _ => true
  | .clzB32 _ => true
  | .ctzB32 _ => true
  | .brevB32 _ => true
  | .fnegF32 _ => true
  | .fabsF32 _ => true
  | .fintF32 _ => true
  | .exp2 _ => true
  | .log2 _ => true
  | .rcp _ => true
  | .rsqrt _ => true
  | .sqrt _ => true
  | .sinpi _ => true
  | .cospi _ => true
  | .tanh _ => true
  | .rngB32 _ => true
  | .rnguF32 _ => true
  | .packhBf16x2 x => even x.a
  | .packhF16x2 x => even x.a
  | .unpackhBf16x2 x => even x.d
  | .unpackhF16x2 x => even x.d
  | .iaddVs _ => true
  | .imulLoVs _ => true
  | .imulHiN32Vs _ => true
  | .iaddwS64 x => even x.d && even x.a
  | .faddVs _ => true
  | .fsubVs _ => true
  | .fmulVs _ => true
  | .ffmaVs _ => true
  | .lpick _ => true
  | .lrot _ => true
  | .lslide _ => true
  | .lflip _ => true
  | .lrev _ => true
  | .lfoldIaddS32 _ => true
  | .lfoldIminS32 _ => true
  | .lfoldImaxS32 _ => true
  | .lfoldFaddF32 _ => true
  | .lfoldIminN32 _ => true
  | .lfoldImaxN32 _ => true
  | .lfoldFminF32 _ => true
  | .lfoldFmaxF32 _ => true
  | .lfoldAndB32 _ => true
  | .lfoldOrB32 _ => true
  | .lfoldXorB32 _ => true
  | .lpreIaddS32 _ => true
  | .lpreIminS32 _ => true
  | .lpreImaxS32 _ => true
  | .lpreFaddF32 _ => true
  | .lprexIaddS32 _ => true
  | .lprexIminS32 _ => true
  | .lprexImaxS32 _ => true
  | .lprexFaddF32 _ => true
  | .pmask _ => true
  | .pcount _ => true
  | .pfirst _ => true
  | .pparity _ => true
  | .lpeersB32 _ => true
  | .lpeersB64 x => even x.a
  | .lrankB32 _ => true
  | .lrankB64 x => even x.a
  | .lsameB32 _ => true
  | .lsameB64 x => even x.a
  | .movsRead g d k s => movsReadWf g d k s
  | .movsWrite g d k s => movsWriteWf g d k s
  | .bcastB32 _ _ _ => true
  | .rdlaneB32 _ _ _ _ => true
  | .rdlaneFirstB32 _ _ _ => true
  | .sIadd _ => true
  | .sIsub _ => true
  | .sImulLo _ => true
  | .sImulHiS _ => true
  | .sImulHiN _ => true
  | .sIminS _ => true
  | .sImaxS _ => true
  | .sIminN _ => true
  | .sImaxN _ => true
  | .sAnd _ => true
  | .sOr _ => true
  | .sXor _ => true
  | .sAndn _ => true
  | .sShl _ => true
  | .sShr _ => true
  | .sSar _ => true
  | .sRot _ => true
  | .sPopc _ => true
  | .sClz _ => true
  | .sCtz _ => true
  | .sBrev _ => true
  | .sNot _ => true
  | .sIaddS64 x => even x.d && even x.a && even x.b
  | .sIsubS64 x => even x.d && even x.a && even x.b
  | .sFadd _ => true
  | .sFsub _ => true
  | .sFmul _ => true
  | .sFfma _ => true
  | .sFmin _ => true
  | .sFmax _ => true
  | .sCvtF32S32 _ => true
  | .sCvtF32N32 _ => true
  | .sCvtS32F32 _ => true
  | .sCvtN32F32 _ => true
  | .sIcmpS32 x => x.cc.toNat ≤ 5
  | .sIcmpN32 x => x.cc.toNat ≤ 5
  | .sFcmpF32 _ => true
  | .csel _ => true
  | .sIaddi _ => true
  | .sAndi _ => true
  | .sOri _ => true
  | .sXori _ => true
  | .sShli _ => true
  | .sShri _ => true
  | .sSari _ => true
  | .sMovi _ _ => true
  | .movwZ _ => true
  | .movwS _ => true
  | .movwHi _ => true
  | .movwLo _ => true
  | .brAny _ => true
  | .brAll _ => true
  | .brNone _ => true
  | .brUni _ => true
  | .brs c _ _ => c.toNat ≤ 5
  | .jmp _ => true
  | .brx _ => true
  | .call _ _ => true
  | .ret _ => true
  | .join => true
  | .waitj _ _ => true
  | .push _ => true
  | .pop => true
  | .yield _ => true
  | .exit => true
  | .barc => true
  | .barpArrive _ _ => true
  | .barpSync _ _ => true
  | .barpWait _ _ => true
  | .spawn _ a => even a
  | .spawnU _ a => even a
  | .launch a c => even a && even c
  | .xpand k s o => k.toNat ≤ 2 && even s && o.toNat ≤ 5
  | .xnext p => p != 7
  | .sred _ => true
  | .sredGet _ _ => true
  | .recurse o => even o
  | .wkids _ _ _ => true
  | .wret => true
  | .ldg x => regAlign x.sz x.d
  | .stg x => regAlign x.sz x.d
  | .lds x => regAlign x.sz x.d
  | .sts x => regAlign x.sz x.d
  | .ldc _ d _ z _ => z != 3 && regAlign z d
  | .prefClu _ _ _ => true
  | .prefHome _ _ _ => true
  | .atomAddS32 x => x.scope.toNat ≤ 3 && even x.a
  | .atomFaddF32 x => x.scope.toNat ≤ 3 && even x.a
  | .atomMinS32 x => x.scope.toNat ≤ 3 && even x.a
  | .atomMaxS32 x => x.scope.toNat ≤ 3 && even x.a
  | .atomAndB32 x => x.scope.toNat ≤ 3 && even x.a
  | .atomOrB32 x => x.scope.toNat ≤ 3 && even x.a
  | .atomXchgB32 x => x.scope.toNat ≤ 3 && even x.a
  | .atomCasB32 x => x.scope.toNat ≤ 3 && even x.a && even x.d
  | .atomAddN64 x => x.scope.toNat ≤ 3 && even x.a && even x.d
  | .redAddS32 x => x.scope.toNat ≤ 3 && even x.a
  | .redFaddF32 x => x.scope.toNat ≤ 3 && even x.a
  | .redAddN64 x => x.scope.toNat ≤ 3 && even x.a && even x.d
  | .ldAcqB32 x => x.scope.toNat ≤ 3 && even x.a
  | .stRelB32 x => x.scope.toNat ≤ 3 && even x.a
  | .scAddS32 x => 2 ≤ x.scope.toNat && x.scope.toNat ≤ 3 && even x.a
  | .scCasB32 x => 2 ≤ x.scope.toNat && x.scope.toNat ≤ 3 && even x.a && even x.d
  | .atomAddS32Scr x => even x.a
  | .atomFaddF32Scr x => even x.a
  | .atomMinS32Scr x => even x.a
  | .atomMaxS32Scr x => even x.a
  | .atomAndB32Scr x => even x.a
  | .atomOrB32Scr x => even x.a
  | .atomXchgB32Scr x => even x.a
  | .atomCasB32Scr x => even x.a && even x.d
  | .atomAddN64Scr x => even x.a && even x.d
  | .redAddS32Scr x => even x.a
  | .redFaddF32Scr x => even x.a
  | .redAddN64Scr x => even x.a && even x.d
  | .ldAcqB32Scr x => even x.a
  | .stRelB32Scr x => even x.a
  | .fence s => s.toNat ≤ 3
  | .xfence s a b => s.toNat ≤ 3 && a != 0 && b != 0 && a.toNat < 32 && b.toNat < 32
  | .watchB32 c a _ => c != 7 && even a
  | .watchB64 c a b => c != 7 && even a && even b
  | .watchCancel => true
  | .waitc s _ _ => s.toNat ≤ 3
  | .copy b => b.toNat % 4 == 0
  | .copyZero b => b.toNat % 4 == 0
  | .gather b => b.toNat % 4 == 0
  | .scatter b => b.toNat % 4 == 0
  | .scatterAdd b => b.toNat % 4 == 0
  | .mloop _ => true
  | .mloopSm _ _ _ => true
  | .mloopPro _ => true
  | .mloopGrp _ => true
  | .tidset a _ => even a
  | .tidget _ d _ => even d
  | .aalloc n c => n.toNat < 32 && c != 0 && n.toNat + c.toNat ≤ 32
  | .afree n c => n.toNat < 32 && c != 0 && n.toNat + c.toNat ≤ 32
  | .agetAcc _ => true
  | .agetM _ => true
  | .agetL _ => true
  | .fclaim _ => true
  | .chain c e => even c && even e
  | .chwait s c n => (s == 2 || s == 3) && even c && even n
  | .collAllred b g => b.toNat % 4 == 0 && even g
  | .collRedsc b g => b.toNat % 4 == 0 && even g
  | .collAllgat b g => b.toNat % 4 == 0 && even g
  | .collBcast b g => b.toNat % 4 == 0 && even g
  | .svc _ a _ => even a
  | .escal _ => true
  | .brk _ => true
  | .dfold _ => true
  | .lmark a _ => even a
  | .hintImm _ => true
  | .hintMod e m _ _ _ c _ => (e == 1 || m == 0) && c.toNat ≤ 3
  | .hintGuard n => n != 7
  | .hintSched y u => y == 1 || u == 1
  | .hintRep _ _ _ _ => true
  | .hintNop _ => true
  | .dpair _ _ _ _ => true
  | .dpairSingle _ _ => true
  | .instructionFetchFault _ => true
  | .resultWriteback _ _ => true
  | .winzeGroupStart _ => true
  | .chainEntryRead _ => true
  | .walkerHandover _ => true
  | .nodeStart _ => true
  | .deviceLaunchAccept _ => true
  | .nodeComplete _ => true
  | .nodePublish _ => true
  | .cohortDispatch _ _ => true
  | .windowEnd _ _ => true
  | .taskGroupDispatch _ _ _ => true
  | .cradleAgeExpiry _ _ _ => true
  | .matrixEngineRun _ => true
  | .copyEngineRun _ => true
  | .gatherUnitRun _ => true
  | .collectiveEngineRun _ _ => true
  | .commandComplete _ => true
  | .homeSliceRequest _ => true
  | .clusterAtomicApply _ _ => true
  | .monitorPoll _ => true
  | .waitcWake _ => true
  | .waitcTimeout _ => true
  | .waitjTimeout _ => true
  | .fenceComplete _ => true
  | .scTicketGrant _ => true
  | .epochEnd _ => true
  | .orderedApply _ => true
  | .orderStall _ => true
  | .replayScStall _ => true
  | .orderedCellWaitStall _ _ => true
  | .dirtyWritebackDeadline _ _ => true
  | .llsUpdate _ => true
  | .splitBoost _ => true
  | .yieldPauseEnd _ => true
  | .quantumEnd _ => true
  | .temperatureCheck _ _ => true
  | .thermalMove _ _ => true
  | .accumulatorGrant _ => true
  | .pageWalk _ _ _ => true
  | .agentFaultService _ _ => true
  | .svcReply _ _ => true
  | .handlerBudgetSpent _ _ => true
  | .preemptRequest _ _ => true
  | .cohortSave _ => true
  | .cohortRestore _ => true
  | .eccUncorrectedCell _ _ => true
  | .csmodeWrite _ _ _ => true
  | .bankModeChangeDone _ _ => true
  | .rrcWrite _ _ _ => true
  | .qcfgWrite _ _ _ => true
  | .translationInvalidate _ => true
  | .invalidationComplete => true
  | .ctxpoolPush _ _ _ => true
  | .extpoolPush _ _ => true
  | .hostAppend _ _ _ => true
  | .hostWindowRead _ _ _ => true
  | .hostWindowWrite _ _ _ => true
  | .watchpointWrite _ _ _ _ => true
  | .clusterStop _ => true
  | .loupeGo _ => true
  | .loupeSave _ => true
  | .loupeStep _ _ => true
  | .assayLogConfig _ _ _ => true
  | .faceterLogResume _ => true
  | .vdStop _ => true
  | .vdStopDone => true
  | .vdResume _ => true
  | .linkLaneForce _ => true
  | .linkLaneFailure _ _ => true
  | .linkPortDown _ => true
  | .linkRequestTimeout _ => true
  | .attestationRequest _ => true
  | .cellFence _ => true
  | .sliceSpare _ => true
  | .hbmChannelSpare _ => true
  | .cellFenceLift _ => true
  | .linkLaneRepair _ => true
  | .repairComplete => true
  | .powerLimitReached _ => true
  | .registerWrite _ _ _ => true
  | .moduleReset => true
  | .mainPowerChange _ => true
  | .mctpControl _ => true
  | .pldmPlatformMonitor _ => true
  | .pldmFirmwareUpdate _ _ => true
  | .aditRegisterRead _ => true
  | .aditRegisterWrite _ _ => true
  | .getVersion => true
  | .getCapabilities => true
  | .negotiateAlgorithms => true
  | .getMeasurements _ => true
  | .vendorDefinedRequest _ _ => true
  | .chunkGet => true
  | .encodingNotAnInstruction _ => true
  | .linkPortUp _ => true
  | .requestRetry _ _ => true

/-- An instruction word, as opposed to an event of an agent. -/
def Instr.isWord : Instr → Bool
  | .iadd _ => true
  | .isub _ => true
  | .imulLo _ => true
  | .imulHiS _ => true
  | .imac _ => true
  | .iabd _ => true
  | .iminS _ => true
  | .imaxS _ => true
  | .iminN _ => true
  | .imaxN _ => true
  | .and _ => true
  | .or _ => true
  | .xor _ => true
  | .andn _ => true
  | .shl _ => true
  | .shr _ => true
  | .sar _ => true
  | .rot _ => true
  | .fadd _ => true
  | .fsub _ => true
  | .fmul _ => true
  | .ffma _ => true
  | .fmin _ => true
  | .fmax _ => true
  | .haddBf16x2 _ => true
  | .hmulBf16x2 _ => true
  | .hfmaBf16x2 _ => true
  | .hfmaF16x2 _ => true
  | .sel _ => true
  | .permB8 _ => true
  | .dot4S8 _ => true
  | .dot8S4 _ => true
  | .icmpS32 _ => true
  | .icmpN32 _ => true
  | .fcmpF32 _ => true
  | .plog _ _ _ _ _ _ => true
  | .iaddi _ => true
  | .shli _ => true
  | .shri _ => true
  | .sari _ => true
  | .roti _ => true
  | .movi _ _ _ => true
  | .andi _ => true
  | .cvt _ _ _ _ _ => true
  | .movB32 _ => true
  | .notB32 _ => true
  | .inegS32 _ => true
  | .iabsS32 _ => true
  | .popcB32 _ => true
  | .clzB32 _ => true
  | .ctzB32 _ => true
  | .brevB32 _ => true
  | .fnegF32 _ => true
  | .fabsF32 _ => true
  | .fintF32 _ => true
  | .exp2 _ => true
  | .log2 _ => true
  | .rcp _ => true
  | .rsqrt _ => true
  | .sqrt _ => true
  | .sinpi _ => true
  | .cospi _ => true
  | .tanh _ => true
  | .rngB32 _ => true
  | .rnguF32 _ => true
  | .packhBf16x2 _ => true
  | .packhF16x2 _ => true
  | .unpackhBf16x2 _ => true
  | .unpackhF16x2 _ => true
  | .iaddVs _ => true
  | .imulLoVs _ => true
  | .imulHiN32Vs _ => true
  | .iaddwS64 _ => true
  | .faddVs _ => true
  | .fsubVs _ => true
  | .fmulVs _ => true
  | .ffmaVs _ => true
  | .lpick _ => true
  | .lrot _ => true
  | .lslide _ => true
  | .lflip _ => true
  | .lrev _ => true
  | .lfoldIaddS32 _ => true
  | .lfoldIminS32 _ => true
  | .lfoldImaxS32 _ => true
  | .lfoldFaddF32 _ => true
  | .lfoldIminN32 _ => true
  | .lfoldImaxN32 _ => true
  | .lfoldFminF32 _ => true
  | .lfoldFmaxF32 _ => true
  | .lfoldAndB32 _ => true
  | .lfoldOrB32 _ => true
  | .lfoldXorB32 _ => true
  | .lpreIaddS32 _ => true
  | .lpreIminS32 _ => true
  | .lpreImaxS32 _ => true
  | .lpreFaddF32 _ => true
  | .lprexIaddS32 _ => true
  | .lprexIminS32 _ => true
  | .lprexImaxS32 _ => true
  | .lprexFaddF32 _ => true
  | .pmask _ => true
  | .pcount _ => true
  | .pfirst _ => true
  | .pparity _ => true
  | .lpeersB32 _ => true
  | .lpeersB64 _ => true
  | .lrankB32 _ => true
  | .lrankB64 _ => true
  | .lsameB32 _ => true
  | .lsameB64 _ => true
  | .movsRead _ _ _ _ => true
  | .movsWrite _ _ _ _ => true
  | .bcastB32 _ _ _ => true
  | .rdlaneB32 _ _ _ _ => true
  | .rdlaneFirstB32 _ _ _ => true
  | .sIadd _ => true
  | .sIsub _ => true
  | .sImulLo _ => true
  | .sImulHiS _ => true
  | .sImulHiN _ => true
  | .sIminS _ => true
  | .sImaxS _ => true
  | .sIminN _ => true
  | .sImaxN _ => true
  | .sAnd _ => true
  | .sOr _ => true
  | .sXor _ => true
  | .sAndn _ => true
  | .sShl _ => true
  | .sShr _ => true
  | .sSar _ => true
  | .sRot _ => true
  | .sPopc _ => true
  | .sClz _ => true
  | .sCtz _ => true
  | .sBrev _ => true
  | .sNot _ => true
  | .sIaddS64 _ => true
  | .sIsubS64 _ => true
  | .sFadd _ => true
  | .sFsub _ => true
  | .sFmul _ => true
  | .sFfma _ => true
  | .sFmin _ => true
  | .sFmax _ => true
  | .sCvtF32S32 _ => true
  | .sCvtF32N32 _ => true
  | .sCvtS32F32 _ => true
  | .sCvtN32F32 _ => true
  | .sIcmpS32 _ => true
  | .sIcmpN32 _ => true
  | .sFcmpF32 _ => true
  | .csel _ => true
  | .sIaddi _ => true
  | .sAndi _ => true
  | .sOri _ => true
  | .sXori _ => true
  | .sShli _ => true
  | .sShri _ => true
  | .sSari _ => true
  | .sMovi _ _ => true
  | .movwZ _ => true
  | .movwS _ => true
  | .movwHi _ => true
  | .movwLo _ => true
  | .brAny _ => true
  | .brAll _ => true
  | .brNone _ => true
  | .brUni _ => true
  | .brs _ _ _ => true
  | .jmp _ => true
  | .brx _ => true
  | .call _ _ => true
  | .ret _ => true
  | .join => true
  | .waitj _ _ => true
  | .push _ => true
  | .pop => true
  | .yield _ => true
  | .exit => true
  | .barc => true
  | .barpArrive _ _ => true
  | .barpSync _ _ => true
  | .barpWait _ _ => true
  | .spawn _ _ => true
  | .spawnU _ _ => true
  | .launch _ _ => true
  | .xpand _ _ _ => true
  | .xnext _ => true
  | .sred _ => true
  | .sredGet _ _ => true
  | .recurse _ => true
  | .wkids _ _ _ => true
  | .wret => true
  | .ldg _ => true
  | .stg _ => true
  | .lds _ => true
  | .sts _ => true
  | .ldc _ _ _ _ _ => true
  | .prefClu _ _ _ => true
  | .prefHome _ _ _ => true
  | .atomAddS32 _ => true
  | .atomFaddF32 _ => true
  | .atomMinS32 _ => true
  | .atomMaxS32 _ => true
  | .atomAndB32 _ => true
  | .atomOrB32 _ => true
  | .atomXchgB32 _ => true
  | .atomCasB32 _ => true
  | .atomAddN64 _ => true
  | .redAddS32 _ => true
  | .redFaddF32 _ => true
  | .redAddN64 _ => true
  | .ldAcqB32 _ => true
  | .stRelB32 _ => true
  | .scAddS32 _ => true
  | .scCasB32 _ => true
  | .atomAddS32Scr _ => true
  | .atomFaddF32Scr _ => true
  | .atomMinS32Scr _ => true
  | .atomMaxS32Scr _ => true
  | .atomAndB32Scr _ => true
  | .atomOrB32Scr _ => true
  | .atomXchgB32Scr _ => true
  | .atomCasB32Scr _ => true
  | .atomAddN64Scr _ => true
  | .redAddS32Scr _ => true
  | .redFaddF32Scr _ => true
  | .redAddN64Scr _ => true
  | .ldAcqB32Scr _ => true
  | .stRelB32Scr _ => true
  | .fence _ => true
  | .xfence _ _ _ => true
  | .watchB32 _ _ _ => true
  | .watchB64 _ _ _ => true
  | .watchCancel => true
  | .waitc _ _ _ => true
  | .copy _ => true
  | .copyZero _ => true
  | .gather _ => true
  | .scatter _ => true
  | .scatterAdd _ => true
  | .mloop _ => true
  | .mloopSm _ _ _ => true
  | .mloopPro _ => true
  | .mloopGrp _ => true
  | .tidset _ _ => true
  | .tidget _ _ _ => true
  | .aalloc _ _ => true
  | .afree _ _ => true
  | .agetAcc _ => true
  | .agetM _ => true
  | .agetL _ => true
  | .fclaim _ => true
  | .chain _ _ => true
  | .chwait _ _ _ => true
  | .collAllred _ _ => true
  | .collRedsc _ _ => true
  | .collAllgat _ _ => true
  | .collBcast _ _ => true
  | .svc _ _ _ => true
  | .escal _ => true
  | .brk _ => true
  | .dfold _ => true
  | .lmark _ _ => true
  | .hintImm _ => true
  | .hintMod _ _ _ _ _ _ _ => true
  | .hintGuard _ => true
  | .hintSched _ _ => true
  | .hintRep _ _ _ _ => true
  | .hintNop _ => true
  | .dpair _ _ _ _ => true
  | .dpairSingle _ _ => true
  | .instructionFetchFault _ => false
  | .resultWriteback _ _ => false
  | .winzeGroupStart _ => false
  | .chainEntryRead _ => false
  | .walkerHandover _ => false
  | .nodeStart _ => false
  | .deviceLaunchAccept _ => false
  | .nodeComplete _ => false
  | .nodePublish _ => false
  | .cohortDispatch _ _ => false
  | .windowEnd _ _ => false
  | .taskGroupDispatch _ _ _ => false
  | .cradleAgeExpiry _ _ _ => false
  | .matrixEngineRun _ => false
  | .copyEngineRun _ => false
  | .gatherUnitRun _ => false
  | .collectiveEngineRun _ _ => false
  | .commandComplete _ => false
  | .homeSliceRequest _ => false
  | .clusterAtomicApply _ _ => false
  | .monitorPoll _ => false
  | .waitcWake _ => false
  | .waitcTimeout _ => false
  | .waitjTimeout _ => false
  | .fenceComplete _ => false
  | .scTicketGrant _ => false
  | .epochEnd _ => false
  | .orderedApply _ => false
  | .orderStall _ => false
  | .replayScStall _ => false
  | .orderedCellWaitStall _ _ => false
  | .dirtyWritebackDeadline _ _ => false
  | .llsUpdate _ => false
  | .splitBoost _ => false
  | .yieldPauseEnd _ => false
  | .quantumEnd _ => false
  | .temperatureCheck _ _ => false
  | .thermalMove _ _ => false
  | .accumulatorGrant _ => false
  | .pageWalk _ _ _ => false
  | .agentFaultService _ _ => false
  | .svcReply _ _ => false
  | .handlerBudgetSpent _ _ => false
  | .preemptRequest _ _ => false
  | .cohortSave _ => false
  | .cohortRestore _ => false
  | .eccUncorrectedCell _ _ => false
  | .csmodeWrite _ _ _ => false
  | .bankModeChangeDone _ _ => false
  | .rrcWrite _ _ _ => false
  | .qcfgWrite _ _ _ => false
  | .translationInvalidate _ => false
  | .invalidationComplete => false
  | .ctxpoolPush _ _ _ => false
  | .extpoolPush _ _ => false
  | .hostAppend _ _ _ => false
  | .hostWindowRead _ _ _ => false
  | .hostWindowWrite _ _ _ => false
  | .watchpointWrite _ _ _ _ => false
  | .clusterStop _ => false
  | .loupeGo _ => false
  | .loupeSave _ => false
  | .loupeStep _ _ => false
  | .assayLogConfig _ _ _ => false
  | .faceterLogResume _ => false
  | .vdStop _ => false
  | .vdStopDone => false
  | .vdResume _ => false
  | .linkLaneForce _ => false
  | .linkLaneFailure _ _ => false
  | .linkPortDown _ => false
  | .linkRequestTimeout _ => false
  | .attestationRequest _ => false
  | .cellFence _ => false
  | .sliceSpare _ => false
  | .hbmChannelSpare _ => false
  | .cellFenceLift _ => false
  | .linkLaneRepair _ => false
  | .repairComplete => false
  | .powerLimitReached _ => false
  | .registerWrite _ _ _ => false
  | .moduleReset => false
  | .mainPowerChange _ => false
  | .mctpControl _ => false
  | .pldmPlatformMonitor _ => false
  | .pldmFirmwareUpdate _ _ => false
  | .aditRegisterRead _ => false
  | .aditRegisterWrite _ _ => false
  | .getVersion => false
  | .getCapabilities => false
  | .negotiateAlgorithms => false
  | .getMeasurements _ => false
  | .vendorDefinedRequest _ _ => false
  | .chunkGet => false
  | .encodingNotAnInstruction _ => false
  | .linkPortUp _ => false
  | .requestRetry _ _ => false

end Sys2Proof
end

