-- ==== Sys2Proof/Decode.lean ====
section
/-! DEFINITION. Words to instructions and back, from the encoding tables of 05, 09, 11, 15, 17, 19, 21 and 23. -/
namespace Sys2Proof

/-- Bits `[lo + len - 1 : lo]` of `w` (00 R2). -/
def fld (w lo len : Nat) : Nat := w / 2 ^ lo % 2 ^ len

/-- Bits `[lo + n - 1 : lo]` as a field of width `n`. -/
def bf (w lo n : Nat) : BitVec n := BitVec.ofNat n (fld w lo n)

/-- Why bits are not an instruction. -/
inductive DecodeError where
  /-- No row of the opcode map has these bits (05 R59). -/
  | noRow
  /-- A field holds a value that traps (05 R55, R59). -/
  | badField
  deriving DecidableEq, Repr

/-- Major 0x00 (05 Table 5.4). -/
noncomputable def decode00 (w : Nat) : Option Instr :=
  if fld w 0 1 = 0 then some (.iadd ⟨bf w 22 3, bf w 15 7, bf w 8 7, bf w 1 7⟩)
  else if fld w 0 1 = 1 then some (.isub ⟨bf w 22 3, bf w 15 7, bf w 8 7, bf w 1 7⟩)
  else none

/-- Major 0x01 (05 Table 5.4). -/
noncomputable def decode01 (w : Nat) : Option Instr :=
  if fld w 0 1 = 0 then some (.imulLo ⟨bf w 22 3, bf w 15 7, bf w 8 7, bf w 1 7⟩)
  else if fld w 0 1 = 1 then some (.imulHiS ⟨bf w 22 3, bf w 15 7, bf w 8 7, bf w 1 7⟩)
  else none

/-- Major 0x02 (05 Table 5.4). -/
noncomputable def decode02 (w : Nat) : Option Instr :=
  if fld w 0 1 = 0 then some (.imac ⟨bf w 22 3, bf w 15 7, bf w 8 7, bf w 1 7⟩)
  else if fld w 0 1 = 1 then some (.iabd ⟨bf w 22 3, bf w 15 7, bf w 8 7, bf w 1 7⟩)
  else none

/-- Major 0x03 (05 Table 5.4). -/
noncomputable def decode03 (w : Nat) : Option Instr :=
  if fld w 0 1 = 0 then some (.iminS ⟨bf w 22 3, bf w 15 7, bf w 8 7, bf w 1 7⟩)
  else if fld w 0 1 = 1 then some (.imaxS ⟨bf w 22 3, bf w 15 7, bf w 8 7, bf w 1 7⟩)
  else none

/-- Major 0x04 (05 Table 5.4). -/
noncomputable def decode04 (w : Nat) : Option Instr :=
  if fld w 0 1 = 0 then some (.iminN ⟨bf w 22 3, bf w 15 7, bf w 8 7, bf w 1 7⟩)
  else if fld w 0 1 = 1 then some (.imaxN ⟨bf w 22 3, bf w 15 7, bf w 8 7, bf w 1 7⟩)
  else none

/-- Major 0x05 (05 Table 5.4). -/
noncomputable def decode05 (w : Nat) : Option Instr :=
  if fld w 0 1 = 0 then some (.and ⟨bf w 22 3, bf w 15 7, bf w 8 7, bf w 1 7⟩)
  else if fld w 0 1 = 1 then some (.or ⟨bf w 22 3, bf w 15 7, bf w 8 7, bf w 1 7⟩)
  else none

/-- Major 0x06 (05 Table 5.4). -/
noncomputable def decode06 (w : Nat) : Option Instr :=
  if fld w 0 1 = 0 then some (.xor ⟨bf w 22 3, bf w 15 7, bf w 8 7, bf w 1 7⟩)
  else if fld w 0 1 = 1 then some (.andn ⟨bf w 22 3, bf w 15 7, bf w 8 7, bf w 1 7⟩)
  else none

/-- Major 0x07 (05 Table 5.4). -/
noncomputable def decode07 (w : Nat) : Option Instr :=
  if fld w 0 1 = 0 then some (.shl ⟨bf w 22 3, bf w 15 7, bf w 8 7, bf w 1 7⟩)
  else if fld w 0 1 = 1 then some (.shr ⟨bf w 22 3, bf w 15 7, bf w 8 7, bf w 1 7⟩)
  else none

/-- Major 0x08 (05 Table 5.4). -/
noncomputable def decode08 (w : Nat) : Option Instr :=
  if fld w 0 1 = 0 then some (.sar ⟨bf w 22 3, bf w 15 7, bf w 8 7, bf w 1 7⟩)
  else if fld w 0 1 = 1 then some (.rot ⟨bf w 22 3, bf w 15 7, bf w 8 7, bf w 1 7⟩)
  else none

/-- Major 0x09 (05 Table 5.4). -/
noncomputable def decode09 (w : Nat) : Option Instr :=
  if fld w 0 1 = 0 then some (.fadd ⟨bf w 22 3, bf w 15 7, bf w 8 7, bf w 1 7⟩)
  else if fld w 0 1 = 1 then some (.fsub ⟨bf w 22 3, bf w 15 7, bf w 8 7, bf w 1 7⟩)
  else none

/-- Major 0x0A (05 Table 5.4). -/
noncomputable def decode0A (w : Nat) : Option Instr :=
  if fld w 0 1 = 0 then some (.fmul ⟨bf w 22 3, bf w 15 7, bf w 8 7, bf w 1 7⟩)
  else if fld w 0 1 = 1 then some (.ffma ⟨bf w 22 3, bf w 15 7, bf w 8 7, bf w 1 7⟩)
  else none

/-- Major 0x0B (05 Table 5.4). -/
noncomputable def decode0B (w : Nat) : Option Instr :=
  if fld w 0 1 = 0 then some (.fmin ⟨bf w 22 3, bf w 15 7, bf w 8 7, bf w 1 7⟩)
  else if fld w 0 1 = 1 then some (.fmax ⟨bf w 22 3, bf w 15 7, bf w 8 7, bf w 1 7⟩)
  else none

/-- Major 0x0C (05 Table 5.4). -/
noncomputable def decode0C (w : Nat) : Option Instr :=
  if fld w 0 1 = 0 then some (.haddBf16x2 ⟨bf w 22 3, bf w 15 7, bf w 8 7, bf w 1 7⟩)
  else if fld w 0 1 = 1 then some (.hmulBf16x2 ⟨bf w 22 3, bf w 15 7, bf w 8 7, bf w 1 7⟩)
  else none

/-- Major 0x0D (05 Table 5.4). -/
noncomputable def decode0D (w : Nat) : Option Instr :=
  if fld w 0 1 = 0 then some (.hfmaBf16x2 ⟨bf w 22 3, bf w 15 7, bf w 8 7, bf w 1 7⟩)
  else if fld w 0 1 = 1 then some (.hfmaF16x2 ⟨bf w 22 3, bf w 15 7, bf w 8 7, bf w 1 7⟩)
  else none

/-- Major 0x0E (05 Table 5.4). -/
noncomputable def decode0E (w : Nat) : Option Instr :=
  if fld w 0 1 = 0 then some (.sel ⟨bf w 22 3, bf w 15 7, bf w 8 7, bf w 1 7⟩)
  else if fld w 0 1 = 1 then some (.permB8 ⟨bf w 22 3, bf w 15 7, bf w 8 7, bf w 1 7⟩)
  else none

/-- Major 0x0F (05 Table 5.4). -/
noncomputable def decode0F (w : Nat) : Option Instr :=
  if fld w 0 1 = 0 then some (.dot4S8 ⟨bf w 22 3, bf w 15 7, bf w 8 7, bf w 1 7⟩)
  else if fld w 0 1 = 1 then some (.dot8S4 ⟨bf w 22 3, bf w 15 7, bf w 8 7, bf w 1 7⟩)
  else none

/-- Major 0x10 (05 Table 5.4). -/
noncomputable def decode10 (w : Nat) : Option Instr :=
  some (.icmpS32 ⟨bf w 22 3, bf w 19 3, bf w 16 3, bf w 9 7, bf w 2 7, bf w 0 2⟩)

/-- Major 0x11 (05 Table 5.4). -/
noncomputable def decode11 (w : Nat) : Option Instr :=
  some (.icmpN32 ⟨bf w 22 3, bf w 19 3, bf w 16 3, bf w 9 7, bf w 2 7, bf w 0 2⟩)

/-- Major 0x12 (05 Table 5.4). -/
noncomputable def decode12 (w : Nat) : Option Instr :=
  some (.fcmpF32 ⟨bf w 22 3, bf w 19 3, bf w 16 3, bf w 9 7, bf w 2 7, bf w 0 2⟩)

/-- Major 0x13 (05 Table 5.4). -/
noncomputable def decode13 (w : Nat) : Option Instr :=
  if fld w 5 4 = 0 ∧ fld w 12 4 = 0 then some (.plog (bf w 22 3) (bf w 19 3) (bf w 16 3) (bf w 9 3) (bf w 2 3) (bf w 0 2))
  else none

/-- Major 0x14 (05 Table 5.4). -/
noncomputable def decode14 (w : Nat) : Option Instr :=
  some (.iaddi ⟨bf w 22 3, bf w 15 7, bf w 8 7, bf w 0 8⟩)

/-- Major 0x15 (05 Table 5.4). -/
noncomputable def decode15 (w : Nat) : Option Instr :=
  if fld w 5 3 = 0 then some (.shli ⟨bf w 22 3, bf w 15 7, bf w 8 7, bf w 0 5⟩)
  else if fld w 5 3 = 2 then some (.shri ⟨bf w 22 3, bf w 15 7, bf w 8 7, bf w 0 5⟩)
  else if fld w 5 3 = 4 then some (.sari ⟨bf w 22 3, bf w 15 7, bf w 8 7, bf w 0 5⟩)
  else if fld w 5 3 = 6 then some (.roti ⟨bf w 22 3, bf w 15 7, bf w 8 7, bf w 0 5⟩)
  else none

/-- Major 0x16 (05 Table 5.4). -/
noncomputable def decode16 (w : Nat) : Option Instr :=
  if fld w 8 7 = 0 then some (.movi (bf w 22 3) (bf w 15 7) (bf w 0 8))
  else none

/-- Major 0x17 (05 Table 5.4). -/
noncomputable def decode17 (w : Nat) : Option Instr :=
  some (.andi ⟨bf w 22 3, bf w 15 7, bf w 8 7, bf w 0 8⟩)

/-- Major 0x18 (05 Table 5.4). -/
noncomputable def decode18 (w : Nat) : Option Instr :=
  some (.cvt (bf w 22 3) (bf w 15 7) (bf w 8 7) (bf w 4 4) (bf w 0 4))

/-- Major 0x19 (05 Table 5.4). -/
noncomputable def decode19 (w : Nat) : Option Instr :=
  if fld w 0 8 = 0 then some (.movB32 ⟨bf w 22 3, bf w 15 7, bf w 8 7⟩)
  else if fld w 0 8 = 1 then some (.notB32 ⟨bf w 22 3, bf w 15 7, bf w 8 7⟩)
  else if fld w 0 8 = 2 then some (.inegS32 ⟨bf w 22 3, bf w 15 7, bf w 8 7⟩)
  else if fld w 0 8 = 3 then some (.iabsS32 ⟨bf w 22 3, bf w 15 7, bf w 8 7⟩)
  else if fld w 0 8 = 4 then some (.popcB32 ⟨bf w 22 3, bf w 15 7, bf w 8 7⟩)
  else if fld w 0 8 = 5 then some (.clzB32 ⟨bf w 22 3, bf w 15 7, bf w 8 7⟩)
  else if fld w 0 8 = 6 then some (.ctzB32 ⟨bf w 22 3, bf w 15 7, bf w 8 7⟩)
  else if fld w 0 8 = 7 then some (.brevB32 ⟨bf w 22 3, bf w 15 7, bf w 8 7⟩)
  else if fld w 0 8 = 8 then some (.fnegF32 ⟨bf w 22 3, bf w 15 7, bf w 8 7⟩)
  else if fld w 0 8 = 9 then some (.fabsF32 ⟨bf w 22 3, bf w 15 7, bf w 8 7⟩)
  else if fld w 0 8 = 10 then some (.fintF32 ⟨bf w 22 3, bf w 15 7, bf w 8 7⟩)
  else if fld w 0 8 = 16 then some (.exp2 ⟨bf w 22 3, bf w 15 7, bf w 8 7⟩)
  else if fld w 0 8 = 17 then some (.log2 ⟨bf w 22 3, bf w 15 7, bf w 8 7⟩)
  else if fld w 0 8 = 18 then some (.rcp ⟨bf w 22 3, bf w 15 7, bf w 8 7⟩)
  else if fld w 0 8 = 19 then some (.rsqrt ⟨bf w 22 3, bf w 15 7, bf w 8 7⟩)
  else if fld w 0 8 = 20 then some (.sqrt ⟨bf w 22 3, bf w 15 7, bf w 8 7⟩)
  else if fld w 0 8 = 21 then some (.sinpi ⟨bf w 22 3, bf w 15 7, bf w 8 7⟩)
  else if fld w 0 8 = 22 then some (.cospi ⟨bf w 22 3, bf w 15 7, bf w 8 7⟩)
  else if fld w 0 8 = 23 then some (.tanh ⟨bf w 22 3, bf w 15 7, bf w 8 7⟩)
  else if fld w 0 8 = 32 then some (.rngB32 ⟨bf w 22 3, bf w 15 7, bf w 8 7⟩)
  else if fld w 0 8 = 33 then some (.rnguF32 ⟨bf w 22 3, bf w 15 7, bf w 8 7⟩)
  else if fld w 0 8 = 48 then some (.packhBf16x2 ⟨bf w 22 3, bf w 15 7, bf w 8 7⟩)
  else if fld w 0 8 = 49 then some (.packhF16x2 ⟨bf w 22 3, bf w 15 7, bf w 8 7⟩)
  else if fld w 0 8 = 50 then some (.unpackhBf16x2 ⟨bf w 22 3, bf w 15 7, bf w 8 7⟩)
  else if fld w 0 8 = 51 then some (.unpackhF16x2 ⟨bf w 22 3, bf w 15 7, bf w 8 7⟩)
  else none

/-- Major 0x1A (05 Table 5.4). -/
noncomputable def decode1A (w : Nat) : Option Instr :=
  if fld w 0 2 = 0 then some (.iaddVs ⟨bf w 22 3, bf w 15 7, bf w 8 7, bf w 2 6⟩)
  else if fld w 0 2 = 1 then some (.imulLoVs ⟨bf w 22 3, bf w 15 7, bf w 8 7, bf w 2 6⟩)
  else if fld w 0 2 = 2 then some (.imulHiN32Vs ⟨bf w 22 3, bf w 15 7, bf w 8 7, bf w 2 6⟩)
  else if fld w 0 2 = 3 then some (.iaddwS64 ⟨bf w 22 3, bf w 15 7, bf w 8 7, bf w 2 6⟩)
  else none

/-- Major 0x1B (05 Table 5.4). -/
noncomputable def decode1B (w : Nat) : Option Instr :=
  if fld w 0 2 = 0 then some (.faddVs ⟨bf w 22 3, bf w 15 7, bf w 8 7, bf w 2 6⟩)
  else if fld w 0 2 = 1 then some (.fsubVs ⟨bf w 22 3, bf w 15 7, bf w 8 7, bf w 2 6⟩)
  else if fld w 0 2 = 2 then some (.fmulVs ⟨bf w 22 3, bf w 15 7, bf w 8 7, bf w 2 6⟩)
  else if fld w 0 2 = 3 then some (.ffmaVs ⟨bf w 22 3, bf w 15 7, bf w 8 7, bf w 2 6⟩)
  else none

/-- Major 0x1C (05 Table 5.4). -/
noncomputable def decode1C (w : Nat) : Option Instr :=
  if fld w 2 3 = 0 then some (.lpick ⟨bf w 22 3, bf w 15 7, bf w 8 7, bf w 5 3, bf w 0 2⟩)
  else if fld w 2 3 = 1 then some (.lrot ⟨bf w 22 3, bf w 15 7, bf w 8 7, bf w 5 3, bf w 0 2⟩)
  else if fld w 2 3 = 2 then some (.lslide ⟨bf w 22 3, bf w 15 7, bf w 8 7, bf w 5 3, bf w 0 2⟩)
  else if fld w 2 3 = 3 then some (.lflip ⟨bf w 22 3, bf w 15 7, bf w 8 7, bf w 5 3, bf w 0 2⟩)
  else if fld w 2 3 = 4 then some (.lrev ⟨bf w 22 3, bf w 15 7, bf w 8 7, bf w 5 3, bf w 0 2⟩)
  else none

/-- Major 0x1D (05 Table 5.4). -/
noncomputable def decode1D (w : Nat) : Option Instr :=
  if fld w 0 5 = 0 then some (.lfoldIaddS32 ⟨bf w 22 3, bf w 15 7, bf w 8 7, bf w 5 3⟩)
  else if fld w 0 5 = 1 then some (.lfoldIminS32 ⟨bf w 22 3, bf w 15 7, bf w 8 7, bf w 5 3⟩)
  else if fld w 0 5 = 2 then some (.lfoldImaxS32 ⟨bf w 22 3, bf w 15 7, bf w 8 7, bf w 5 3⟩)
  else if fld w 0 5 = 3 then some (.lfoldFaddF32 ⟨bf w 22 3, bf w 15 7, bf w 8 7, bf w 5 3⟩)
  else if fld w 0 5 = 4 then some (.lfoldIminN32 ⟨bf w 22 3, bf w 15 7, bf w 8 7, bf w 5 3⟩)
  else if fld w 0 5 = 5 then some (.lfoldImaxN32 ⟨bf w 22 3, bf w 15 7, bf w 8 7, bf w 5 3⟩)
  else if fld w 0 5 = 6 then some (.lfoldFminF32 ⟨bf w 22 3, bf w 15 7, bf w 8 7, bf w 5 3⟩)
  else if fld w 0 5 = 7 then some (.lfoldFmaxF32 ⟨bf w 22 3, bf w 15 7, bf w 8 7, bf w 5 3⟩)
  else if fld w 0 5 = 8 then some (.lfoldAndB32 ⟨bf w 22 3, bf w 15 7, bf w 8 7, bf w 5 3⟩)
  else if fld w 0 5 = 9 then some (.lfoldOrB32 ⟨bf w 22 3, bf w 15 7, bf w 8 7, bf w 5 3⟩)
  else if fld w 0 5 = 10 then some (.lfoldXorB32 ⟨bf w 22 3, bf w 15 7, bf w 8 7, bf w 5 3⟩)
  else if fld w 0 5 = 12 then some (.lpreIaddS32 ⟨bf w 22 3, bf w 15 7, bf w 8 7, bf w 5 3⟩)
  else if fld w 0 5 = 13 then some (.lpreIminS32 ⟨bf w 22 3, bf w 15 7, bf w 8 7, bf w 5 3⟩)
  else if fld w 0 5 = 14 then some (.lpreImaxS32 ⟨bf w 22 3, bf w 15 7, bf w 8 7, bf w 5 3⟩)
  else if fld w 0 5 = 15 then some (.lpreFaddF32 ⟨bf w 22 3, bf w 15 7, bf w 8 7, bf w 5 3⟩)
  else if fld w 0 5 = 16 then some (.lprexIaddS32 ⟨bf w 22 3, bf w 15 7, bf w 8 7, bf w 5 3⟩)
  else if fld w 0 5 = 17 then some (.lprexIminS32 ⟨bf w 22 3, bf w 15 7, bf w 8 7, bf w 5 3⟩)
  else if fld w 0 5 = 18 then some (.lprexImaxS32 ⟨bf w 22 3, bf w 15 7, bf w 8 7, bf w 5 3⟩)
  else if fld w 0 5 = 19 then some (.lprexFaddF32 ⟨bf w 22 3, bf w 15 7, bf w 8 7, bf w 5 3⟩)
  else if fld w 0 5 = 20 ∧ fld w 11 4 = 0 then some (.pmask ⟨bf w 22 3, bf w 15 7, bf w 8 3, bf w 5 3⟩)
  else if fld w 0 5 = 21 ∧ fld w 11 4 = 0 then some (.pcount ⟨bf w 22 3, bf w 15 7, bf w 8 3, bf w 5 3⟩)
  else if fld w 0 5 = 22 ∧ fld w 11 4 = 0 then some (.pfirst ⟨bf w 22 3, bf w 15 7, bf w 8 3, bf w 5 3⟩)
  else if fld w 0 5 = 23 ∧ fld w 11 4 = 0 then some (.pparity ⟨bf w 22 3, bf w 15 7, bf w 8 3, bf w 5 3⟩)
  else if fld w 0 5 = 24 then some (.lpeersB32 ⟨bf w 22 3, bf w 15 7, bf w 8 7, bf w 5 3⟩)
  else if fld w 0 5 = 25 then some (.lpeersB64 ⟨bf w 22 3, bf w 15 7, bf w 8 7, bf w 5 3⟩)
  else if fld w 0 5 = 26 then some (.lrankB32 ⟨bf w 22 3, bf w 15 7, bf w 8 7, bf w 5 3⟩)
  else if fld w 0 5 = 27 then some (.lrankB64 ⟨bf w 22 3, bf w 15 7, bf w 8 7, bf w 5 3⟩)
  else if fld w 0 5 = 28 then some (.lsameB32 ⟨bf w 22 3, bf w 15 7, bf w 8 7, bf w 5 3⟩)
  else if fld w 0 5 = 29 then some (.lsameB64 ⟨bf w 22 3, bf w 15 7, bf w 8 7, bf w 5 3⟩)
  else none

/-- Major 0x1E (05 Table 5.4). -/
noncomputable def decode1E (w : Nat) : Option Instr :=
  some (.movsRead (bf w 22 3) (bf w 15 7) (bf w 14 1) (bf w 0 14))

/-- Major 0x1F (05 Table 5.4). -/
noncomputable def decode1F (w : Nat) : Option Instr :=
  if fld w 12 2 = 0 then some (.movsWrite (bf w 22 3) (bf w 15 7) (bf w 14 1) (bf w 0 12))
  else if fld w 6 9 = 64 then some (.bcastB32 (bf w 22 3) (bf w 15 7) (bf w 0 6))
  else if fld w 11 4 = 4 then some (.rdlaneB32 (bf w 22 3) (bf w 15 7) (bf w 5 6) (bf w 0 5))
  else if fld w 0 5 = 0 ∧ fld w 11 4 = 5 then some (.rdlaneFirstB32 (bf w 22 3) (bf w 15 7) (bf w 5 6))
  else none

/-- Major 0x20 (05 Table 5.4). -/
noncomputable def decode20 (w : Nat) : Option Instr :=
  if fld w 0 4 = 0 ∧ fld w 22 3 = 0 then some (.sIadd ⟨bf w 16 6, bf w 10 6, bf w 4 6⟩)
  else if fld w 0 4 = 1 ∧ fld w 22 3 = 0 then some (.sIsub ⟨bf w 16 6, bf w 10 6, bf w 4 6⟩)
  else if fld w 0 4 = 2 ∧ fld w 22 3 = 0 then some (.sImulLo ⟨bf w 16 6, bf w 10 6, bf w 4 6⟩)
  else if fld w 0 4 = 3 ∧ fld w 22 3 = 0 then some (.sImulHiS ⟨bf w 16 6, bf w 10 6, bf w 4 6⟩)
  else if fld w 0 4 = 4 ∧ fld w 22 3 = 0 then some (.sImulHiN ⟨bf w 16 6, bf w 10 6, bf w 4 6⟩)
  else if fld w 0 4 = 5 ∧ fld w 22 3 = 0 then some (.sIminS ⟨bf w 16 6, bf w 10 6, bf w 4 6⟩)
  else if fld w 0 4 = 6 ∧ fld w 22 3 = 0 then some (.sImaxS ⟨bf w 16 6, bf w 10 6, bf w 4 6⟩)
  else if fld w 0 4 = 7 ∧ fld w 22 3 = 0 then some (.sIminN ⟨bf w 16 6, bf w 10 6, bf w 4 6⟩)
  else if fld w 0 4 = 8 ∧ fld w 22 3 = 0 then some (.sImaxN ⟨bf w 16 6, bf w 10 6, bf w 4 6⟩)
  else if fld w 0 4 = 9 ∧ fld w 22 3 = 0 then some (.sAnd ⟨bf w 16 6, bf w 10 6, bf w 4 6⟩)
  else if fld w 0 4 = 10 ∧ fld w 22 3 = 0 then some (.sOr ⟨bf w 16 6, bf w 10 6, bf w 4 6⟩)
  else if fld w 0 4 = 11 ∧ fld w 22 3 = 0 then some (.sXor ⟨bf w 16 6, bf w 10 6, bf w 4 6⟩)
  else if fld w 0 4 = 12 ∧ fld w 22 3 = 0 then some (.sAndn ⟨bf w 16 6, bf w 10 6, bf w 4 6⟩)
  else if fld w 0 4 = 13 ∧ fld w 22 3 = 0 then some (.sShl ⟨bf w 16 6, bf w 10 6, bf w 4 6⟩)
  else if fld w 0 4 = 14 ∧ fld w 22 3 = 0 then some (.sShr ⟨bf w 16 6, bf w 10 6, bf w 4 6⟩)
  else if fld w 0 4 = 15 ∧ fld w 22 3 = 0 then some (.sSar ⟨bf w 16 6, bf w 10 6, bf w 4 6⟩)
  else if fld w 0 4 = 0 ∧ fld w 22 3 = 1 then some (.sRot ⟨bf w 16 6, bf w 10 6, bf w 4 6⟩)
  else if fld w 0 10 = 1 ∧ fld w 22 3 = 1 then some (.sPopc ⟨bf w 16 6, bf w 10 6⟩)
  else if fld w 0 10 = 2 ∧ fld w 22 3 = 1 then some (.sClz ⟨bf w 16 6, bf w 10 6⟩)
  else if fld w 0 10 = 3 ∧ fld w 22 3 = 1 then some (.sCtz ⟨bf w 16 6, bf w 10 6⟩)
  else if fld w 0 10 = 4 ∧ fld w 22 3 = 1 then some (.sBrev ⟨bf w 16 6, bf w 10 6⟩)
  else if fld w 0 10 = 5 ∧ fld w 22 3 = 1 then some (.sNot ⟨bf w 16 6, bf w 10 6⟩)
  else if fld w 0 4 = 8 ∧ fld w 22 3 = 1 then some (.sIaddS64 ⟨bf w 16 6, bf w 10 6, bf w 4 6⟩)
  else if fld w 0 4 = 9 ∧ fld w 22 3 = 1 then some (.sIsubS64 ⟨bf w 16 6, bf w 10 6, bf w 4 6⟩)
  else if fld w 0 4 = 0 ∧ fld w 22 3 = 2 then some (.sFadd ⟨bf w 16 6, bf w 10 6, bf w 4 6⟩)
  else if fld w 0 4 = 1 ∧ fld w 22 3 = 2 then some (.sFsub ⟨bf w 16 6, bf w 10 6, bf w 4 6⟩)
  else if fld w 0 4 = 2 ∧ fld w 22 3 = 2 then some (.sFmul ⟨bf w 16 6, bf w 10 6, bf w 4 6⟩)
  else if fld w 0 4 = 3 ∧ fld w 22 3 = 2 then some (.sFfma ⟨bf w 16 6, bf w 10 6, bf w 4 6⟩)
  else if fld w 0 4 = 4 ∧ fld w 22 3 = 2 then some (.sFmin ⟨bf w 16 6, bf w 10 6, bf w 4 6⟩)
  else if fld w 0 4 = 5 ∧ fld w 22 3 = 2 then some (.sFmax ⟨bf w 16 6, bf w 10 6, bf w 4 6⟩)
  else if fld w 0 10 = 8 ∧ fld w 22 3 = 2 then some (.sCvtF32S32 ⟨bf w 16 6, bf w 10 6⟩)
  else if fld w 0 10 = 9 ∧ fld w 22 3 = 2 then some (.sCvtF32N32 ⟨bf w 16 6, bf w 10 6⟩)
  else if fld w 0 10 = 10 ∧ fld w 22 3 = 2 then some (.sCvtS32F32 ⟨bf w 16 6, bf w 10 6⟩)
  else if fld w 0 10 = 11 ∧ fld w 22 3 = 2 then some (.sCvtN32F32 ⟨bf w 16 6, bf w 10 6⟩)
  else none

/-- Major 0x21 (05 Table 5.4). -/
noncomputable def decode21 (w : Nat) : Option Instr :=
  if fld w 22 3 = 0 then some (.sIaddi ⟨bf w 16 6, bf w 10 6, bf w 0 10⟩)
  else if fld w 22 3 = 1 then some (.sAndi ⟨bf w 16 6, bf w 10 6, bf w 0 10⟩)
  else if fld w 22 3 = 2 then some (.sOri ⟨bf w 16 6, bf w 10 6, bf w 0 10⟩)
  else if fld w 22 3 = 3 then some (.sXori ⟨bf w 16 6, bf w 10 6, bf w 0 10⟩)
  else if fld w 5 5 = 0 ∧ fld w 22 3 = 4 then some (.sShli ⟨bf w 16 6, bf w 10 6, bf w 0 5⟩)
  else if fld w 5 5 = 0 ∧ fld w 22 3 = 5 then some (.sShri ⟨bf w 16 6, bf w 10 6, bf w 0 5⟩)
  else if fld w 5 5 = 0 ∧ fld w 22 3 = 6 then some (.sSari ⟨bf w 16 6, bf w 10 6, bf w 0 5⟩)
  else if fld w 10 6 = 0 ∧ fld w 22 3 = 7 then some (.sMovi (bf w 16 6) (bf w 0 10))
  else none

/-- Major 0x22 (05 Table 5.4). -/
noncomputable def decode22 (w : Nat) : Option Instr :=
  if fld w 22 3 = 0 then some (.movwZ ⟨bf w 16 6, bf w 0 16⟩)
  else if fld w 22 3 = 1 then some (.movwS ⟨bf w 16 6, bf w 0 16⟩)
  else if fld w 22 3 = 2 then some (.movwHi ⟨bf w 16 6, bf w 0 16⟩)
  else if fld w 22 3 = 3 then some (.movwLo ⟨bf w 16 6, bf w 0 16⟩)
  else none

/-- Major 0x23 (05 Table 5.4). -/
noncomputable def decode23 (w : Nat) : Option Instr :=
  if fld w 3 1 = 0 ∧ fld w 22 3 = 0 then some (.sIcmpS32 ⟨bf w 16 6, bf w 10 6, bf w 4 6, bf w 0 3⟩)
  else if fld w 3 1 = 1 ∧ fld w 22 3 = 0 then some (.sIcmpN32 ⟨bf w 16 6, bf w 10 6, bf w 4 6, bf w 0 3⟩)
  else if fld w 3 1 = 0 ∧ fld w 22 3 = 1 then some (.sFcmpF32 ⟨bf w 16 6, bf w 10 6, bf w 4 6, bf w 0 3⟩)
  else if fld w 0 4 = 0 ∧ fld w 22 3 = 2 then some (.csel ⟨bf w 16 6, bf w 10 6, bf w 4 6⟩)
  else none

/-- Major 0x28 (05 Table 5.4). -/
noncomputable def decode28 (w : Nat) : Option Instr :=
  if fld w 20 2 = 0 then some (.brAny ⟨bf w 22 3, bf w 0 20⟩)
  else if fld w 20 2 = 1 then some (.brAll ⟨bf w 22 3, bf w 0 20⟩)
  else if fld w 20 2 = 2 then some (.brNone ⟨bf w 22 3, bf w 0 20⟩)
  else if fld w 20 2 = 3 then some (.brUni ⟨bf w 22 3, bf w 0 20⟩)
  else none

/-- Major 0x29 (05 Table 5.4). -/
noncomputable def decode29 (w : Nat) : Option Instr :=
  if fld w 16 9 = 448 then some (.jmp (bf w 0 16))
  else some (.brs (bf w 22 3) (bf w 16 6) (bf w 0 16))

/-- Major 0x2A (05 Table 5.4). -/
noncomputable def decode2A (w : Nat) : Option Instr :=
  if fld w 0 15 = 0 ∧ fld w 22 3 = 0 then some (.brx (bf w 15 7))
  else if fld w 0 9 = 0 ∧ fld w 21 4 = 2 then some (.call (bf w 15 6) (bf w 9 6))
  else if fld w 0 9 = 0 ∧ fld w 15 10 = 256 then some (.ret (bf w 9 6))
  else none

/-- Major 0x2B (05 Table 5.4). -/
noncomputable def decode2B (w : Nat) : Option Instr :=
  if fld w 0 25 = 0 then some (.join)
  else if fld w 22 3 = 1 then some (.waitj (bf w 19 3) (bf w 0 19))
  else if fld w 20 5 = 8 then some (.push (bf w 0 20))
  else if fld w 0 25 = 12582912 then some (.pop)
  else if fld w 10 15 = 16384 then some (.yield (bf w 0 10))
  else if fld w 0 25 = 20971520 then some (.exit)
  else none

/-- Major 0x2C (05 Table 5.4). -/
noncomputable def decode2C (w : Nat) : Option Instr :=
  if fld w 0 25 = 0 then some (.barc)
  else if fld w 0 10 = 0 ∧ fld w 22 3 = 1 then some (.barpArrive (bf w 16 6) (bf w 10 6))
  else if fld w 0 10 = 256 ∧ fld w 22 3 = 1 then some (.barpSync (bf w 16 6) (bf w 10 6))
  else if fld w 0 10 = 512 ∧ fld w 22 3 = 1 then some (.barpWait (bf w 16 6) (bf w 10 6))
  else none

/-- Major 0x2D (05 Table 5.4). -/
noncomputable def decode2D (w : Nat) : Option Instr :=
  if fld w 0 10 = 0 ∧ fld w 22 3 = 0 then some (.spawn (bf w 16 6) (bf w 10 6))
  else if fld w 0 10 = 16 ∧ fld w 22 3 = 0 then some (.spawnU (bf w 16 6) (bf w 10 6))
  else if fld w 0 10 = 32 ∧ fld w 22 3 = 0 then some (.launch (bf w 16 6) (bf w 10 6))
  else none

/-- Major 0x2E (05 Table 5.4). -/
noncomputable def decode2E (w : Nat) : Option Instr :=
  if fld w 0 10 = 0 then some (.xpand (bf w 22 3) (bf w 16 6) (bf w 10 6))
  else if fld w 0 22 = 16 then some (.xnext (bf w 22 3))
  else if fld w 0 16 = 32 ∧ fld w 22 3 = 0 then some (.sred (bf w 16 6))
  else if fld w 4 12 = 3 ∧ fld w 22 3 = 0 then some (.sredGet (bf w 16 6) (bf w 0 4))
  else none

/-- Major 0x2F (05 Table 5.4). -/
noncomputable def decode2F (w : Nat) : Option Instr :=
  if fld w 0 16 = 0 ∧ fld w 22 3 = 0 then some (.recurse (bf w 16 6))
  else if fld w 4 6 = 1 ∧ fld w 22 3 = 0 then some (.wkids (bf w 16 6) (bf w 10 6) (bf w 0 4))
  else if fld w 0 25 = 32 then some (.wret)
  else none

/-- Major 0x30 (05 Table 5.4). -/
noncomputable def decode30 (w : Nat) : Option Instr :=
  some (.ldg ⟨bf w 22 3, bf w 15 7, bf w 8 7, bf w 6 2, bf w 4 2, bf w 0 4⟩)

/-- Major 0x31 (05 Table 5.4). -/
noncomputable def decode31 (w : Nat) : Option Instr :=
  if fld w 0 4 = 0 then some (.stg ⟨bf w 22 3, bf w 15 7, bf w 8 7, bf w 6 2, bf w 4 2⟩)
  else none

/-- Major 0x32 (05 Table 5.4). -/
noncomputable def decode32 (w : Nat) : Option Instr :=
  some (.lds ⟨bf w 22 3, bf w 15 7, bf w 8 7, bf w 6 2, bf w 4 2, bf w 0 4⟩)

/-- Major 0x33 (05 Table 5.4). -/
noncomputable def decode33 (w : Nat) : Option Instr :=
  if fld w 0 4 = 0 then some (.sts ⟨bf w 22 3, bf w 15 7, bf w 8 7, bf w 6 2, bf w 4 2⟩)
  else none

/-- Major 0x34 (05 Table 5.4). -/
noncomputable def decode34 (w : Nat) : Option Instr :=
  if fld w 0 4 = 0 ∧ fld w 6 2 = 3 ∧ fld w 15 7 = 0 then some (.prefClu (bf w 22 3) (bf w 8 7) (bf w 4 2))
  else if fld w 0 4 = 0 ∧ fld w 6 2 = 3 ∧ fld w 15 7 = 1 then some (.prefHome (bf w 22 3) (bf w 8 7) (bf w 4 2))
  else if fld w 4 2 = 0 then some (.ldc (bf w 22 3) (bf w 15 7) (bf w 8 7) (bf w 6 2) (bf w 0 4))
  else none

/-- Major 0x35 (05 Table 5.4). -/
noncomputable def decode35 (w : Nat) : Option Instr :=
  if fld w 4 4 = 0 then some (.atomAddS32 ⟨bf w 22 3, bf w 15 7, bf w 8 7, bf w 0 4⟩)
  else if fld w 4 4 = 1 then some (.atomFaddF32 ⟨bf w 22 3, bf w 15 7, bf w 8 7, bf w 0 4⟩)
  else if fld w 4 4 = 2 then some (.atomMinS32 ⟨bf w 22 3, bf w 15 7, bf w 8 7, bf w 0 4⟩)
  else if fld w 4 4 = 3 then some (.atomMaxS32 ⟨bf w 22 3, bf w 15 7, bf w 8 7, bf w 0 4⟩)
  else if fld w 4 4 = 4 then some (.atomAndB32 ⟨bf w 22 3, bf w 15 7, bf w 8 7, bf w 0 4⟩)
  else if fld w 4 4 = 5 then some (.atomOrB32 ⟨bf w 22 3, bf w 15 7, bf w 8 7, bf w 0 4⟩)
  else if fld w 4 4 = 6 then some (.atomXchgB32 ⟨bf w 22 3, bf w 15 7, bf w 8 7, bf w 0 4⟩)
  else if fld w 4 4 = 7 then some (.atomCasB32 ⟨bf w 22 3, bf w 15 7, bf w 8 7, bf w 0 4⟩)
  else if fld w 4 4 = 8 then some (.atomAddN64 ⟨bf w 22 3, bf w 15 7, bf w 8 7, bf w 0 4⟩)
  else if fld w 0 8 = 144 then some (.redAddS32 ⟨bf w 22 3, bf w 15 7, bf w 8 7⟩)
  else if fld w 0 8 = 160 then some (.redFaddF32 ⟨bf w 22 3, bf w 15 7, bf w 8 7⟩)
  else if fld w 0 8 = 176 then some (.redAddN64 ⟨bf w 22 3, bf w 15 7, bf w 8 7⟩)
  else if fld w 4 4 = 12 then some (.ldAcqB32 ⟨bf w 22 3, bf w 15 7, bf w 8 7, bf w 0 4⟩)
  else if fld w 0 8 = 208 then some (.stRelB32 ⟨bf w 22 3, bf w 15 7, bf w 8 7⟩)
  else if fld w 4 4 = 14 then some (.scAddS32 ⟨bf w 22 3, bf w 15 7, bf w 8 7, bf w 0 4⟩)
  else if fld w 4 4 = 15 then some (.scCasB32 ⟨bf w 22 3, bf w 15 7, bf w 8 7, bf w 0 4⟩)
  else none

/-- Major 0x36 (05 Table 5.4). -/
noncomputable def decode36 (w : Nat) : Option Instr :=
  if fld w 4 4 = 0 ∧ fld w 22 3 = 0 then some (.atomAddS32Scr ⟨bf w 15 7, bf w 8 7, bf w 0 4⟩)
  else if fld w 4 4 = 1 ∧ fld w 22 3 = 0 then some (.atomFaddF32Scr ⟨bf w 15 7, bf w 8 7, bf w 0 4⟩)
  else if fld w 4 4 = 2 ∧ fld w 22 3 = 0 then some (.atomMinS32Scr ⟨bf w 15 7, bf w 8 7, bf w 0 4⟩)
  else if fld w 4 4 = 3 ∧ fld w 22 3 = 0 then some (.atomMaxS32Scr ⟨bf w 15 7, bf w 8 7, bf w 0 4⟩)
  else if fld w 4 4 = 4 ∧ fld w 22 3 = 0 then some (.atomAndB32Scr ⟨bf w 15 7, bf w 8 7, bf w 0 4⟩)
  else if fld w 4 4 = 5 ∧ fld w 22 3 = 0 then some (.atomOrB32Scr ⟨bf w 15 7, bf w 8 7, bf w 0 4⟩)
  else if fld w 4 4 = 6 ∧ fld w 22 3 = 0 then some (.atomXchgB32Scr ⟨bf w 15 7, bf w 8 7, bf w 0 4⟩)
  else if fld w 4 4 = 7 ∧ fld w 22 3 = 0 then some (.atomCasB32Scr ⟨bf w 15 7, bf w 8 7, bf w 0 4⟩)
  else if fld w 4 4 = 8 ∧ fld w 22 3 = 0 then some (.atomAddN64Scr ⟨bf w 15 7, bf w 8 7, bf w 0 4⟩)
  else if fld w 0 8 = 144 ∧ fld w 22 3 = 0 then some (.redAddS32Scr ⟨bf w 15 7, bf w 8 7⟩)
  else if fld w 0 8 = 160 ∧ fld w 22 3 = 0 then some (.redFaddF32Scr ⟨bf w 15 7, bf w 8 7⟩)
  else if fld w 0 8 = 176 ∧ fld w 22 3 = 0 then some (.redAddN64Scr ⟨bf w 15 7, bf w 8 7⟩)
  else if fld w 4 4 = 12 ∧ fld w 22 3 = 0 then some (.ldAcqB32Scr ⟨bf w 15 7, bf w 8 7, bf w 0 4⟩)
  else if fld w 0 8 = 208 ∧ fld w 22 3 = 0 then some (.stRelB32Scr ⟨bf w 15 7, bf w 8 7⟩)
  else none

/-- Major 0x37 (05 Table 5.4). -/
noncomputable def decode37 (w : Nat) : Option Instr :=
  if fld w 0 22 = 0 then some (.fence (bf w 22 3))
  else if fld w 0 10 = 16 then some (.xfence (bf w 22 3) (bf w 16 6) (bf w 10 6))
  else if fld w 0 10 = 32 then some (.watchB32 (bf w 22 3) (bf w 16 6) (bf w 10 6))
  else if fld w 0 10 = 48 then some (.watchB64 (bf w 22 3) (bf w 16 6) (bf w 10 6))
  else if fld w 0 25 = 64 then some (.watchCancel)
  else if fld w 0 10 = 80 then some (.waitc (bf w 22 3) (bf w 16 6) (bf w 10 6))
  else none

/-- Major 0x38 (05 Table 5.4). -/
noncomputable def decode38 (w : Nat) : Option Instr :=
  if fld w 0 16 = 0 ∧ fld w 22 3 = 0 then some (.copy (bf w 16 6))
  else if fld w 0 16 = 16 ∧ fld w 22 3 = 0 then some (.copyZero (bf w 16 6))
  else none

/-- Major 0x39 (05 Table 5.4). -/
noncomputable def decode39 (w : Nat) : Option Instr :=
  if fld w 0 16 = 0 ∧ fld w 22 3 = 0 then some (.gather (bf w 16 6))
  else if fld w 0 16 = 16 ∧ fld w 22 3 = 0 then some (.scatter (bf w 16 6))
  else if fld w 0 16 = 32 ∧ fld w 22 3 = 0 then some (.scatterAdd (bf w 16 6))
  else none

/-- Major 0x3A (05 Table 5.4). -/
noncomputable def decode3A (w : Nat) : Option Instr :=
  if fld w 22 3 = 0 then some (.mloop ⟨bf w 16 6, bf w 10 6, bf w 5 5, bf w 0 5⟩)
  else if fld w 16 9 = 64 then some (.mloopSm (bf w 10 6) (bf w 5 5) (bf w 0 5))
  else if fld w 22 3 = 2 then some (.mloopPro ⟨bf w 16 6, bf w 10 6, bf w 5 5, bf w 0 5⟩)
  else if fld w 22 3 = 3 then some (.mloopGrp ⟨bf w 16 6, bf w 10 6, bf w 5 5, bf w 0 5⟩)
  else none

/-- Major 0x3B (05 Table 5.4). -/
noncomputable def decode3B (w : Nat) : Option Instr :=
  if fld w 0 10 = 0 ∧ fld w 22 3 = 0 then some (.tidset (bf w 16 6) (bf w 10 6))
  else if fld w 0 10 = 16 then some (.tidget (bf w 22 3) (bf w 16 6) (bf w 10 6))
  else if fld w 0 10 = 32 ∧ fld w 22 3 = 0 then some (.aalloc (bf w 16 6) (bf w 10 6))
  else if fld w 0 10 = 48 ∧ fld w 22 3 = 0 then some (.afree (bf w 16 6) (bf w 10 6))
  else if fld w 4 6 = 4 ∧ fld w 23 2 = 0 then some (.agetAcc ⟨bf w 22 1, bf w 16 6, bf w 10 6, bf w 0 4⟩)
  else if fld w 4 6 = 4 ∧ fld w 23 2 = 1 then some (.agetM ⟨bf w 22 1, bf w 16 6, bf w 10 6, bf w 0 4⟩)
  else if fld w 4 6 = 4 ∧ fld w 23 2 = 2 then some (.agetL ⟨bf w 22 1, bf w 16 6, bf w 10 6, bf w 0 4⟩)
  else if fld w 0 16 = 80 ∧ fld w 22 3 = 0 then some (.fclaim (bf w 16 6))
  else none

/-- Major 0x3C (05 Table 5.4). -/
noncomputable def decode3C (w : Nat) : Option Instr :=
  if fld w 0 10 = 0 ∧ fld w 22 3 = 0 then some (.chain (bf w 16 6) (bf w 10 6))
  else if fld w 0 10 = 16 then some (.chwait (bf w 22 3) (bf w 16 6) (bf w 10 6))
  else none

/-- Major 0x3D (05 Table 5.4). -/
noncomputable def decode3D (w : Nat) : Option Instr :=
  if fld w 0 10 = 0 ∧ fld w 22 3 = 0 then some (.collAllred (bf w 16 6) (bf w 10 6))
  else if fld w 0 10 = 16 ∧ fld w 22 3 = 0 then some (.collRedsc (bf w 16 6) (bf w 10 6))
  else if fld w 0 10 = 32 ∧ fld w 22 3 = 0 then some (.collAllgat (bf w 16 6) (bf w 10 6))
  else if fld w 0 10 = 48 ∧ fld w 22 3 = 0 then some (.collBcast (bf w 16 6) (bf w 10 6))
  else none

/-- Major 0x3E (05 Table 5.4). -/
noncomputable def decode3E (w : Nat) : Option Instr :=
  if fld w 22 3 = 0 then some (.svc (bf w 16 6) (bf w 10 6) (bf w 0 10))
  else if fld w 8 17 = 16384 then some (.escal (bf w 0 8))
  else if fld w 16 9 = 256 then some (.brk (bf w 0 16))
  else if fld w 0 15 = 0 ∧ fld w 22 3 = 5 then some (.dfold (bf w 15 7))
  else if fld w 22 3 = 6 then some (.lmark (bf w 16 6) (bf w 0 16))
  else none

/-- Major 0x3F (05 Table 5.4). -/
noncomputable def decode3F (w : Nat) : Option Instr :=
  if fld w 22 3 = 0 then some (.hintImm (bf w 0 22))
  else if fld w 0 9 = 0 ∧ fld w 22 3 = 1 then some (.hintMod (bf w 21 1) (bf w 19 2) (bf w 18 1) (bf w 17 1) (bf w 16 1) (bf w 13 3) (bf w 9 4))
  else if fld w 0 19 = 0 ∧ fld w 22 3 = 2 then some (.hintGuard (bf w 19 3))
  else if fld w 0 20 = 0 ∧ fld w 22 3 = 3 then some (.hintSched (bf w 21 1) (bf w 20 1))
  else if fld w 0 4 = 0 ∧ fld w 22 3 = 4 then some (.hintRep (bf w 16 6) (bf w 12 4) (bf w 8 4) (bf w 4 4))
  else if fld w 22 3 = 5 then some (.hintNop (bf w 0 22))
  else none

/-- A dictionary pair word (05 R80). -/
noncomputable def decodePair (w : Nat) : Option Instr :=
  if fld w 15 1 = 1 then some (.dpair (bf w 21 10) (bf w 16 5) (bf w 5 10) (bf w 0 5))
  else if fld w 0 16 = 0 then some (.dpairSingle (bf w 21 10) (bf w 16 5))
  else none

/-- The row a word of 32 bits matches: the major opcode alone selects the format (05 R53). -/
noncomputable def rawDecode (w : Nat) : Option Instr :=
  match fld w 25 7 with
  | 0x00 => decode00 w
  | 0x01 => decode01 w
  | 0x02 => decode02 w
  | 0x03 => decode03 w
  | 0x04 => decode04 w
  | 0x05 => decode05 w
  | 0x06 => decode06 w
  | 0x07 => decode07 w
  | 0x08 => decode08 w
  | 0x09 => decode09 w
  | 0x0A => decode0A w
  | 0x0B => decode0B w
  | 0x0C => decode0C w
  | 0x0D => decode0D w
  | 0x0E => decode0E w
  | 0x0F => decode0F w
  | 0x10 => decode10 w
  | 0x11 => decode11 w
  | 0x12 => decode12 w
  | 0x13 => decode13 w
  | 0x14 => decode14 w
  | 0x15 => decode15 w
  | 0x16 => decode16 w
  | 0x17 => decode17 w
  | 0x18 => decode18 w
  | 0x19 => decode19 w
  | 0x1A => decode1A w
  | 0x1B => decode1B w
  | 0x1C => decode1C w
  | 0x1D => decode1D w
  | 0x1E => decode1E w
  | 0x1F => decode1F w
  | 0x20 => decode20 w
  | 0x21 => decode21 w
  | 0x22 => decode22 w
  | 0x23 => decode23 w
  | 0x28 => decode28 w
  | 0x29 => decode29 w
  | 0x2A => decode2A w
  | 0x2B => decode2B w
  | 0x2C => decode2C w
  | 0x2D => decode2D w
  | 0x2E => decode2E w
  | 0x2F => decode2F w
  | 0x30 => decode30 w
  | 0x31 => decode31 w
  | 0x32 => decode32 w
  | 0x33 => decode33 w
  | 0x34 => decode34 w
  | 0x35 => decode35 w
  | 0x36 => decode36 w
  | 0x37 => decode37 w
  | 0x38 => decode38 w
  | 0x39 => decode39 w
  | 0x3A => decode3A w
  | 0x3B => decode3B w
  | 0x3C => decode3C w
  | 0x3D => decode3D w
  | 0x3E => decode3E w
  | 0x3F => decode3F w
  | n => if 64 ≤ n ∧ n < 128 then decodePair w else none

/-- Decode a word: total on any number, rejecting by name. -/
noncomputable def decode (w : Nat) : Except DecodeError Instr :=
  match rawDecode (w % 2 ^ 32) with
  | none => .error .noRow
  | some i => if i.wf then .ok i else .error .badField

/-- The instruction a word of the table stands for: every instruction is one 32-bit word (05 R52), the table's bit numbers
are the word's, and a word is stored least significant byte first (00 R3). -/
noncomputable def decodeTableWord (nbits w : Nat) : Option Instr :=
  match decode (w % 2 ^ nbits) with
  | .ok i => some i
  | .error _ => none


/-- The word of `iadd` (R132). -/
def encIadd (x : V3) : Nat :=
  0x00000000 + x.g.toNat * 2 ^ 22 + x.d.toNat * 2 ^ 15 + x.a.toNat * 2 ^ 8 + x.b.toNat * 2 ^ 1

/-- The word of `isub` (R132). -/
def encIsub (x : V3) : Nat :=
  0x00000001 + x.g.toNat * 2 ^ 22 + x.d.toNat * 2 ^ 15 + x.a.toNat * 2 ^ 8 + x.b.toNat * 2 ^ 1

/-- The word of `imul.lo` (R132). -/
def encImulLo (x : V3) : Nat :=
  0x02000000 + x.g.toNat * 2 ^ 22 + x.d.toNat * 2 ^ 15 + x.a.toNat * 2 ^ 8 + x.b.toNat * 2 ^ 1

/-- The word of `imul.hi.s` (R132). -/
def encImulHiS (x : V3) : Nat :=
  0x02000001 + x.g.toNat * 2 ^ 22 + x.d.toNat * 2 ^ 15 + x.a.toNat * 2 ^ 8 + x.b.toNat * 2 ^ 1

/-- The word of `imac` (R132). -/
def encImac (x : V3) : Nat :=
  0x04000000 + x.g.toNat * 2 ^ 22 + x.d.toNat * 2 ^ 15 + x.a.toNat * 2 ^ 8 + x.b.toNat * 2 ^ 1

/-- The word of `iabd` (R132). -/
def encIabd (x : V3) : Nat :=
  0x04000001 + x.g.toNat * 2 ^ 22 + x.d.toNat * 2 ^ 15 + x.a.toNat * 2 ^ 8 + x.b.toNat * 2 ^ 1

/-- The word of `imin.s` (R132). -/
def encIminS (x : V3) : Nat :=
  0x06000000 + x.g.toNat * 2 ^ 22 + x.d.toNat * 2 ^ 15 + x.a.toNat * 2 ^ 8 + x.b.toNat * 2 ^ 1

/-- The word of `imax.s` (R132). -/
def encImaxS (x : V3) : Nat :=
  0x06000001 + x.g.toNat * 2 ^ 22 + x.d.toNat * 2 ^ 15 + x.a.toNat * 2 ^ 8 + x.b.toNat * 2 ^ 1

/-- The word of `imin.n` (R132). -/
def encIminN (x : V3) : Nat :=
  0x08000000 + x.g.toNat * 2 ^ 22 + x.d.toNat * 2 ^ 15 + x.a.toNat * 2 ^ 8 + x.b.toNat * 2 ^ 1

/-- The word of `imax.n` (R132). -/
def encImaxN (x : V3) : Nat :=
  0x08000001 + x.g.toNat * 2 ^ 22 + x.d.toNat * 2 ^ 15 + x.a.toNat * 2 ^ 8 + x.b.toNat * 2 ^ 1

/-- The word of `and` (R132). -/
def encAnd (x : V3) : Nat :=
  0x0A000000 + x.g.toNat * 2 ^ 22 + x.d.toNat * 2 ^ 15 + x.a.toNat * 2 ^ 8 + x.b.toNat * 2 ^ 1

/-- The word of `or` (R132). -/
def encOr (x : V3) : Nat :=
  0x0A000001 + x.g.toNat * 2 ^ 22 + x.d.toNat * 2 ^ 15 + x.a.toNat * 2 ^ 8 + x.b.toNat * 2 ^ 1

/-- The word of `xor` (R132). -/
def encXor (x : V3) : Nat :=
  0x0C000000 + x.g.toNat * 2 ^ 22 + x.d.toNat * 2 ^ 15 + x.a.toNat * 2 ^ 8 + x.b.toNat * 2 ^ 1

/-- The word of `andn` (R132). -/
def encAndn (x : V3) : Nat :=
  0x0C000001 + x.g.toNat * 2 ^ 22 + x.d.toNat * 2 ^ 15 + x.a.toNat * 2 ^ 8 + x.b.toNat * 2 ^ 1

/-- The word of `shl` (R132). -/
def encShl (x : V3) : Nat :=
  0x0E000000 + x.g.toNat * 2 ^ 22 + x.d.toNat * 2 ^ 15 + x.a.toNat * 2 ^ 8 + x.b.toNat * 2 ^ 1

/-- The word of `shr` (R132). -/
def encShr (x : V3) : Nat :=
  0x0E000001 + x.g.toNat * 2 ^ 22 + x.d.toNat * 2 ^ 15 + x.a.toNat * 2 ^ 8 + x.b.toNat * 2 ^ 1

/-- The word of `sar` (R132). -/
def encSar (x : V3) : Nat :=
  0x10000000 + x.g.toNat * 2 ^ 22 + x.d.toNat * 2 ^ 15 + x.a.toNat * 2 ^ 8 + x.b.toNat * 2 ^ 1

/-- The word of `rot` (R132). -/
def encRot (x : V3) : Nat :=
  0x10000001 + x.g.toNat * 2 ^ 22 + x.d.toNat * 2 ^ 15 + x.a.toNat * 2 ^ 8 + x.b.toNat * 2 ^ 1

/-- The word of `fadd` (R132). -/
def encFadd (x : V3) : Nat :=
  0x12000000 + x.g.toNat * 2 ^ 22 + x.d.toNat * 2 ^ 15 + x.a.toNat * 2 ^ 8 + x.b.toNat * 2 ^ 1

/-- The word of `fsub` (R132). -/
def encFsub (x : V3) : Nat :=
  0x12000001 + x.g.toNat * 2 ^ 22 + x.d.toNat * 2 ^ 15 + x.a.toNat * 2 ^ 8 + x.b.toNat * 2 ^ 1

/-- The word of `fmul` (R132). -/
def encFmul (x : V3) : Nat :=
  0x14000000 + x.g.toNat * 2 ^ 22 + x.d.toNat * 2 ^ 15 + x.a.toNat * 2 ^ 8 + x.b.toNat * 2 ^ 1

/-- The word of `ffma` (R132). -/
def encFfma (x : V3) : Nat :=
  0x14000001 + x.g.toNat * 2 ^ 22 + x.d.toNat * 2 ^ 15 + x.a.toNat * 2 ^ 8 + x.b.toNat * 2 ^ 1

/-- The word of `fmin` (R133). -/
def encFmin (x : V3) : Nat :=
  0x16000000 + x.g.toNat * 2 ^ 22 + x.d.toNat * 2 ^ 15 + x.a.toNat * 2 ^ 8 + x.b.toNat * 2 ^ 1

/-- The word of `fmax` (R133). -/
def encFmax (x : V3) : Nat :=
  0x16000001 + x.g.toNat * 2 ^ 22 + x.d.toNat * 2 ^ 15 + x.a.toNat * 2 ^ 8 + x.b.toNat * 2 ^ 1

/-- The word of `hadd.bf16x2` (R132). -/
def encHaddBf16x2 (x : V3) : Nat :=
  0x18000000 + x.g.toNat * 2 ^ 22 + x.d.toNat * 2 ^ 15 + x.a.toNat * 2 ^ 8 + x.b.toNat * 2 ^ 1

/-- The word of `hmul.bf16x2` (R132). -/
def encHmulBf16x2 (x : V3) : Nat :=
  0x18000001 + x.g.toNat * 2 ^ 22 + x.d.toNat * 2 ^ 15 + x.a.toNat * 2 ^ 8 + x.b.toNat * 2 ^ 1

/-- The word of `hfma.bf16x2` (R132). -/
def encHfmaBf16x2 (x : V3) : Nat :=
  0x1A000000 + x.g.toNat * 2 ^ 22 + x.d.toNat * 2 ^ 15 + x.a.toNat * 2 ^ 8 + x.b.toNat * 2 ^ 1

/-- The word of `hfma.f16x2` (R132). -/
def encHfmaF16x2 (x : V3) : Nat :=
  0x1A000001 + x.g.toNat * 2 ^ 22 + x.d.toNat * 2 ^ 15 + x.a.toNat * 2 ^ 8 + x.b.toNat * 2 ^ 1

/-- The word of `sel` (R134). -/
def encSel (x : V3) : Nat :=
  0x1C000000 + x.g.toNat * 2 ^ 22 + x.d.toNat * 2 ^ 15 + x.a.toNat * 2 ^ 8 + x.b.toNat * 2 ^ 1

/-- The word of `perm.b8` (R134). -/
def encPermB8 (x : V3) : Nat :=
  0x1C000001 + x.g.toNat * 2 ^ 22 + x.d.toNat * 2 ^ 15 + x.a.toNat * 2 ^ 8 + x.b.toNat * 2 ^ 1

/-- The word of `dot4.s8` (R132). -/
def encDot4S8 (x : V3) : Nat :=
  0x1E000000 + x.g.toNat * 2 ^ 22 + x.d.toNat * 2 ^ 15 + x.a.toNat * 2 ^ 8 + x.b.toNat * 2 ^ 1

/-- The word of `dot8.s4` (R132). -/
def encDot8S4 (x : V3) : Nat :=
  0x1E000001 + x.g.toNat * 2 ^ 22 + x.d.toNat * 2 ^ 15 + x.a.toNat * 2 ^ 8 + x.b.toNat * 2 ^ 1

/-- The word of `icmp.s32` (R135). -/
def encIcmpS32 (x : VC) : Nat :=
  0x20000000 + x.g.toNat * 2 ^ 22 + x.pd.toNat * 2 ^ 19 + x.cc.toNat * 2 ^ 16 + x.a.toNat * 2 ^ 9 + x.b.toNat * 2 ^ 2 + x.cm.toNat

/-- The word of `icmp.n32` (R135). -/
def encIcmpN32 (x : VC) : Nat :=
  0x22000000 + x.g.toNat * 2 ^ 22 + x.pd.toNat * 2 ^ 19 + x.cc.toNat * 2 ^ 16 + x.a.toNat * 2 ^ 9 + x.b.toNat * 2 ^ 2 + x.cm.toNat

/-- The word of `fcmp.f32` (R135). -/
def encFcmpF32 (x : VC) : Nat :=
  0x24000000 + x.g.toNat * 2 ^ 22 + x.pd.toNat * 2 ^ 19 + x.cc.toNat * 2 ^ 16 + x.a.toNat * 2 ^ 9 + x.b.toNat * 2 ^ 2 + x.cm.toNat

/-- The word of `plog` (R136). -/
def encPlog (g : BitVec 3) (p : BitVec 3) (f : BitVec 3) (a : BitVec 3) (b : BitVec 3) (m : BitVec 2) : Nat :=
  0x26000000 + g.toNat * 2 ^ 22 + p.toNat * 2 ^ 19 + f.toNat * 2 ^ 16 + a.toNat * 2 ^ 9 + b.toNat * 2 ^ 2 + m.toNat

/-- The word of `iaddi` (R137). -/
def encIaddi (x : VI) : Nat :=
  0x28000000 + x.g.toNat * 2 ^ 22 + x.d.toNat * 2 ^ 15 + x.a.toNat * 2 ^ 8 + x.imm.toNat

/-- The word of `shli` (R137). -/
def encShli (x : VN) : Nat :=
  0x2A000000 + x.g.toNat * 2 ^ 22 + x.d.toNat * 2 ^ 15 + x.a.toNat * 2 ^ 8 + x.n.toNat

/-- The word of `shri` (R137). -/
def encShri (x : VN) : Nat :=
  0x2A000040 + x.g.toNat * 2 ^ 22 + x.d.toNat * 2 ^ 15 + x.a.toNat * 2 ^ 8 + x.n.toNat

/-- The word of `sari` (R137). -/
def encSari (x : VN) : Nat :=
  0x2A000080 + x.g.toNat * 2 ^ 22 + x.d.toNat * 2 ^ 15 + x.a.toNat * 2 ^ 8 + x.n.toNat

/-- The word of `roti` (R137). -/
def encRoti (x : VN) : Nat :=
  0x2A0000C0 + x.g.toNat * 2 ^ 22 + x.d.toNat * 2 ^ 15 + x.a.toNat * 2 ^ 8 + x.n.toNat

/-- The word of `movi` (R137). -/
def encMovi (g : BitVec 3) (d : BitVec 7) (i : BitVec 8) : Nat :=
  0x2C000000 + g.toNat * 2 ^ 22 + d.toNat * 2 ^ 15 + i.toNat

/-- The word of `andi` (R137). -/
def encAndi (x : VI) : Nat :=
  0x2E000000 + x.g.toNat * 2 ^ 22 + x.d.toNat * 2 ^ 15 + x.a.toNat * 2 ^ 8 + x.imm.toNat

/-- The word of `cvt` (R139). -/
def encCvt (g : BitVec 3) (d : BitVec 7) (a : BitVec 7) (t : BitVec 4) (s : BitVec 4) : Nat :=
  0x30000000 + g.toNat * 2 ^ 22 + d.toNat * 2 ^ 15 + a.toNat * 2 ^ 8 + t.toNat * 2 ^ 4 + s.toNat

/-- The word of `mov.b32` (R140). -/
def encMovB32 (x : V2) : Nat :=
  0x32000000 + x.g.toNat * 2 ^ 22 + x.d.toNat * 2 ^ 15 + x.a.toNat * 2 ^ 8

/-- The word of `not.b32` (R140). -/
def encNotB32 (x : V2) : Nat :=
  0x32000001 + x.g.toNat * 2 ^ 22 + x.d.toNat * 2 ^ 15 + x.a.toNat * 2 ^ 8

/-- The word of `ineg.s32` (R140). -/
def encInegS32 (x : V2) : Nat :=
  0x32000002 + x.g.toNat * 2 ^ 22 + x.d.toNat * 2 ^ 15 + x.a.toNat * 2 ^ 8

/-- The word of `iabs.s32` (R140). -/
def encIabsS32 (x : V2) : Nat :=
  0x32000003 + x.g.toNat * 2 ^ 22 + x.d.toNat * 2 ^ 15 + x.a.toNat * 2 ^ 8

/-- The word of `popc.b32` (R140). -/
def encPopcB32 (x : V2) : Nat :=
  0x32000004 + x.g.toNat * 2 ^ 22 + x.d.toNat * 2 ^ 15 + x.a.toNat * 2 ^ 8

/-- The word of `clz.b32` (R140). -/
def encClzB32 (x : V2) : Nat :=
  0x32000005 + x.g.toNat * 2 ^ 22 + x.d.toNat * 2 ^ 15 + x.a.toNat * 2 ^ 8

/-- The word of `ctz.b32` (R140). -/
def encCtzB32 (x : V2) : Nat :=
  0x32000006 + x.g.toNat * 2 ^ 22 + x.d.toNat * 2 ^ 15 + x.a.toNat * 2 ^ 8

/-- The word of `brev.b32` (R140). -/
def encBrevB32 (x : V2) : Nat :=
  0x32000007 + x.g.toNat * 2 ^ 22 + x.d.toNat * 2 ^ 15 + x.a.toNat * 2 ^ 8

/-- The word of `fneg.f32` (R140). -/
def encFnegF32 (x : V2) : Nat :=
  0x32000008 + x.g.toNat * 2 ^ 22 + x.d.toNat * 2 ^ 15 + x.a.toNat * 2 ^ 8

/-- The word of `fabs.f32` (R140). -/
def encFabsF32 (x : V2) : Nat :=
  0x32000009 + x.g.toNat * 2 ^ 22 + x.d.toNat * 2 ^ 15 + x.a.toNat * 2 ^ 8

/-- The word of `fint.f32` (R140). -/
def encFintF32 (x : V2) : Nat :=
  0x3200000A + x.g.toNat * 2 ^ 22 + x.d.toNat * 2 ^ 15 + x.a.toNat * 2 ^ 8

/-- The word of `exp2.f32` (R35). -/
def encExp2 (x : V2) : Nat :=
  0x32000010 + x.g.toNat * 2 ^ 22 + x.d.toNat * 2 ^ 15 + x.a.toNat * 2 ^ 8

/-- The word of `log2.f32` (R35). -/
def encLog2 (x : V2) : Nat :=
  0x32000011 + x.g.toNat * 2 ^ 22 + x.d.toNat * 2 ^ 15 + x.a.toNat * 2 ^ 8

/-- The word of `rcp.f32` (R35). -/
def encRcp (x : V2) : Nat :=
  0x32000012 + x.g.toNat * 2 ^ 22 + x.d.toNat * 2 ^ 15 + x.a.toNat * 2 ^ 8

/-- The word of `rsqrt.f32` (R35). -/
def encRsqrt (x : V2) : Nat :=
  0x32000013 + x.g.toNat * 2 ^ 22 + x.d.toNat * 2 ^ 15 + x.a.toNat * 2 ^ 8

/-- The word of `sqrt.f32` (R35). -/
def encSqrt (x : V2) : Nat :=
  0x32000014 + x.g.toNat * 2 ^ 22 + x.d.toNat * 2 ^ 15 + x.a.toNat * 2 ^ 8

/-- The word of `sinpi.f32` (R35). -/
def encSinpi (x : V2) : Nat :=
  0x32000015 + x.g.toNat * 2 ^ 22 + x.d.toNat * 2 ^ 15 + x.a.toNat * 2 ^ 8

/-- The word of `cospi.f32` (R35). -/
def encCospi (x : V2) : Nat :=
  0x32000016 + x.g.toNat * 2 ^ 22 + x.d.toNat * 2 ^ 15 + x.a.toNat * 2 ^ 8

/-- The word of `tanh.f32` (R35). -/
def encTanh (x : V2) : Nat :=
  0x32000017 + x.g.toNat * 2 ^ 22 + x.d.toNat * 2 ^ 15 + x.a.toNat * 2 ^ 8

/-- The word of `rng.b32` (R141). -/
def encRngB32 (x : V2) : Nat :=
  0x32000020 + x.g.toNat * 2 ^ 22 + x.d.toNat * 2 ^ 15 + x.a.toNat * 2 ^ 8

/-- The word of `rngu.f32` (R141). -/
def encRnguF32 (x : V2) : Nat :=
  0x32000021 + x.g.toNat * 2 ^ 22 + x.d.toNat * 2 ^ 15 + x.a.toNat * 2 ^ 8

/-- The word of `packh.bf16x2` (R140). -/
def encPackhBf16x2 (x : V2) : Nat :=
  0x32000030 + x.g.toNat * 2 ^ 22 + x.d.toNat * 2 ^ 15 + x.a.toNat * 2 ^ 8

/-- The word of `packh.f16x2` (R140). -/
def encPackhF16x2 (x : V2) : Nat :=
  0x32000031 + x.g.toNat * 2 ^ 22 + x.d.toNat * 2 ^ 15 + x.a.toNat * 2 ^ 8

/-- The word of `unpackh.bf16x2` (R140). -/
def encUnpackhBf16x2 (x : V2) : Nat :=
  0x32000032 + x.g.toNat * 2 ^ 22 + x.d.toNat * 2 ^ 15 + x.a.toNat * 2 ^ 8

/-- The word of `unpackh.f16x2` (R140). -/
def encUnpackhF16x2 (x : V2) : Nat :=
  0x32000033 + x.g.toNat * 2 ^ 22 + x.d.toNat * 2 ^ 15 + x.a.toNat * 2 ^ 8

/-- The word of `iadd.s32` (R142). -/
def encIaddVs (x : VS) : Nat :=
  0x34000000 + x.g.toNat * 2 ^ 22 + x.d.toNat * 2 ^ 15 + x.a.toNat * 2 ^ 8 + x.s.toNat * 2 ^ 2

/-- The word of `imul.lo.s32` (R142). -/
def encImulLoVs (x : VS) : Nat :=
  0x34000001 + x.g.toNat * 2 ^ 22 + x.d.toNat * 2 ^ 15 + x.a.toNat * 2 ^ 8 + x.s.toNat * 2 ^ 2

/-- The word of `imul.hi.n32` (R142). -/
def encImulHiN32Vs (x : VS) : Nat :=
  0x34000002 + x.g.toNat * 2 ^ 22 + x.d.toNat * 2 ^ 15 + x.a.toNat * 2 ^ 8 + x.s.toNat * 2 ^ 2

/-- The word of `iaddw.s64` (R142). -/
def encIaddwS64 (x : VS) : Nat :=
  0x34000003 + x.g.toNat * 2 ^ 22 + x.d.toNat * 2 ^ 15 + x.a.toNat * 2 ^ 8 + x.s.toNat * 2 ^ 2

/-- The word of `fadd.f32` (R142). -/
def encFaddVs (x : VS) : Nat :=
  0x36000000 + x.g.toNat * 2 ^ 22 + x.d.toNat * 2 ^ 15 + x.a.toNat * 2 ^ 8 + x.s.toNat * 2 ^ 2

/-- The word of `fsub.f32` (R142). -/
def encFsubVs (x : VS) : Nat :=
  0x36000001 + x.g.toNat * 2 ^ 22 + x.d.toNat * 2 ^ 15 + x.a.toNat * 2 ^ 8 + x.s.toNat * 2 ^ 2

/-- The word of `fmul.f32` (R142). -/
def encFmulVs (x : VS) : Nat :=
  0x36000002 + x.g.toNat * 2 ^ 22 + x.d.toNat * 2 ^ 15 + x.a.toNat * 2 ^ 8 + x.s.toNat * 2 ^ 2

/-- The word of `ffma.f32` (R142). -/
def encFfmaVs (x : VS) : Nat :=
  0x36000003 + x.g.toNat * 2 ^ 22 + x.d.toNat * 2 ^ 15 + x.a.toNat * 2 ^ 8 + x.s.toNat * 2 ^ 2

/-- The word of `lpick.b32` (R171). -/
def encLpick (x : LM) : Nat :=
  0x38000000 + x.g.toNat * 2 ^ 22 + x.d.toNat * 2 ^ 15 + x.a.toNat * 2 ^ 8 + x.pv.toNat * 2 ^ 5 + x.sub.toNat

/-- The word of `lrot.b32` (R171). -/
def encLrot (x : LM) : Nat :=
  0x38000004 + x.g.toNat * 2 ^ 22 + x.d.toNat * 2 ^ 15 + x.a.toNat * 2 ^ 8 + x.pv.toNat * 2 ^ 5 + x.sub.toNat

/-- The word of `lslide.b32` (R171). -/
def encLslide (x : LM) : Nat :=
  0x38000008 + x.g.toNat * 2 ^ 22 + x.d.toNat * 2 ^ 15 + x.a.toNat * 2 ^ 8 + x.pv.toNat * 2 ^ 5 + x.sub.toNat

/-- The word of `lflip.b32` (R171). -/
def encLflip (x : LM) : Nat :=
  0x3800000C + x.g.toNat * 2 ^ 22 + x.d.toNat * 2 ^ 15 + x.a.toNat * 2 ^ 8 + x.pv.toNat * 2 ^ 5 + x.sub.toNat

/-- The word of `lrev.b32` (R171). -/
def encLrev (x : LM) : Nat :=
  0x38000010 + x.g.toNat * 2 ^ 22 + x.d.toNat * 2 ^ 15 + x.a.toNat * 2 ^ 8 + x.pv.toNat * 2 ^ 5 + x.sub.toNat

/-- The word of `lfold.iadd.s32` (R172). -/
def encLfoldIaddS32 (x : LF) : Nat :=
  0x3A000000 + x.g.toNat * 2 ^ 22 + x.d.toNat * 2 ^ 15 + x.a.toNat * 2 ^ 8 + x.pv.toNat * 2 ^ 5

/-- The word of `lfold.imin.s32` (R172). -/
def encLfoldIminS32 (x : LF) : Nat :=
  0x3A000001 + x.g.toNat * 2 ^ 22 + x.d.toNat * 2 ^ 15 + x.a.toNat * 2 ^ 8 + x.pv.toNat * 2 ^ 5

/-- The word of `lfold.imax.s32` (R172). -/
def encLfoldImaxS32 (x : LF) : Nat :=
  0x3A000002 + x.g.toNat * 2 ^ 22 + x.d.toNat * 2 ^ 15 + x.a.toNat * 2 ^ 8 + x.pv.toNat * 2 ^ 5

/-- The word of `lfold.fadd.f32` (R172). -/
def encLfoldFaddF32 (x : LF) : Nat :=
  0x3A000003 + x.g.toNat * 2 ^ 22 + x.d.toNat * 2 ^ 15 + x.a.toNat * 2 ^ 8 + x.pv.toNat * 2 ^ 5

/-- The word of `lfold.imin.n32` (R172). -/
def encLfoldIminN32 (x : LF) : Nat :=
  0x3A000004 + x.g.toNat * 2 ^ 22 + x.d.toNat * 2 ^ 15 + x.a.toNat * 2 ^ 8 + x.pv.toNat * 2 ^ 5

/-- The word of `lfold.imax.n32` (R172). -/
def encLfoldImaxN32 (x : LF) : Nat :=
  0x3A000005 + x.g.toNat * 2 ^ 22 + x.d.toNat * 2 ^ 15 + x.a.toNat * 2 ^ 8 + x.pv.toNat * 2 ^ 5

/-- The word of `lfold.fmin.f32` (R172). -/
def encLfoldFminF32 (x : LF) : Nat :=
  0x3A000006 + x.g.toNat * 2 ^ 22 + x.d.toNat * 2 ^ 15 + x.a.toNat * 2 ^ 8 + x.pv.toNat * 2 ^ 5

/-- The word of `lfold.fmax.f32` (R172). -/
def encLfoldFmaxF32 (x : LF) : Nat :=
  0x3A000007 + x.g.toNat * 2 ^ 22 + x.d.toNat * 2 ^ 15 + x.a.toNat * 2 ^ 8 + x.pv.toNat * 2 ^ 5

/-- The word of `lfold.and.b32` (R172). -/
def encLfoldAndB32 (x : LF) : Nat :=
  0x3A000008 + x.g.toNat * 2 ^ 22 + x.d.toNat * 2 ^ 15 + x.a.toNat * 2 ^ 8 + x.pv.toNat * 2 ^ 5

/-- The word of `lfold.or.b32` (R172). -/
def encLfoldOrB32 (x : LF) : Nat :=
  0x3A000009 + x.g.toNat * 2 ^ 22 + x.d.toNat * 2 ^ 15 + x.a.toNat * 2 ^ 8 + x.pv.toNat * 2 ^ 5

/-- The word of `lfold.xor.b32` (R172). -/
def encLfoldXorB32 (x : LF) : Nat :=
  0x3A00000A + x.g.toNat * 2 ^ 22 + x.d.toNat * 2 ^ 15 + x.a.toNat * 2 ^ 8 + x.pv.toNat * 2 ^ 5

/-- The word of `lpre.iadd.s32` (R172). -/
def encLpreIaddS32 (x : LF) : Nat :=
  0x3A00000C + x.g.toNat * 2 ^ 22 + x.d.toNat * 2 ^ 15 + x.a.toNat * 2 ^ 8 + x.pv.toNat * 2 ^ 5

/-- The word of `lpre.imin.s32` (R172). -/
def encLpreIminS32 (x : LF) : Nat :=
  0x3A00000D + x.g.toNat * 2 ^ 22 + x.d.toNat * 2 ^ 15 + x.a.toNat * 2 ^ 8 + x.pv.toNat * 2 ^ 5

/-- The word of `lpre.imax.s32` (R172). -/
def encLpreImaxS32 (x : LF) : Nat :=
  0x3A00000E + x.g.toNat * 2 ^ 22 + x.d.toNat * 2 ^ 15 + x.a.toNat * 2 ^ 8 + x.pv.toNat * 2 ^ 5

/-- The word of `lpre.fadd.f32` (R172). -/
def encLpreFaddF32 (x : LF) : Nat :=
  0x3A00000F + x.g.toNat * 2 ^ 22 + x.d.toNat * 2 ^ 15 + x.a.toNat * 2 ^ 8 + x.pv.toNat * 2 ^ 5

/-- The word of `lprex.iadd.s32` (R172). -/
def encLprexIaddS32 (x : LF) : Nat :=
  0x3A000010 + x.g.toNat * 2 ^ 22 + x.d.toNat * 2 ^ 15 + x.a.toNat * 2 ^ 8 + x.pv.toNat * 2 ^ 5

/-- The word of `lprex.imin.s32` (R172). -/
def encLprexIminS32 (x : LF) : Nat :=
  0x3A000011 + x.g.toNat * 2 ^ 22 + x.d.toNat * 2 ^ 15 + x.a.toNat * 2 ^ 8 + x.pv.toNat * 2 ^ 5

/-- The word of `lprex.imax.s32` (R172). -/
def encLprexImaxS32 (x : LF) : Nat :=
  0x3A000012 + x.g.toNat * 2 ^ 22 + x.d.toNat * 2 ^ 15 + x.a.toNat * 2 ^ 8 + x.pv.toNat * 2 ^ 5

/-- The word of `lprex.fadd.f32` (R172). -/
def encLprexFaddF32 (x : LF) : Nat :=
  0x3A000013 + x.g.toNat * 2 ^ 22 + x.d.toNat * 2 ^ 15 + x.a.toNat * 2 ^ 8 + x.pv.toNat * 2 ^ 5

/-- The word of `pmask` (R172). -/
def encPmask (x : LC) : Nat :=
  0x3A000014 + x.g.toNat * 2 ^ 22 + x.d.toNat * 2 ^ 15 + x.pa.toNat * 2 ^ 8 + x.pv.toNat * 2 ^ 5

/-- The word of `pcount` (R172). -/
def encPcount (x : LC) : Nat :=
  0x3A000015 + x.g.toNat * 2 ^ 22 + x.d.toNat * 2 ^ 15 + x.pa.toNat * 2 ^ 8 + x.pv.toNat * 2 ^ 5

/-- The word of `pfirst` (R172). -/
def encPfirst (x : LC) : Nat :=
  0x3A000016 + x.g.toNat * 2 ^ 22 + x.d.toNat * 2 ^ 15 + x.pa.toNat * 2 ^ 8 + x.pv.toNat * 2 ^ 5

/-- The word of `pparity` (R172). -/
def encPparity (x : LC) : Nat :=
  0x3A000017 + x.g.toNat * 2 ^ 22 + x.d.toNat * 2 ^ 15 + x.pa.toNat * 2 ^ 8 + x.pv.toNat * 2 ^ 5

/-- The word of `lpeers.b32` (R173). -/
def encLpeersB32 (x : LF) : Nat :=
  0x3A000018 + x.g.toNat * 2 ^ 22 + x.d.toNat * 2 ^ 15 + x.a.toNat * 2 ^ 8 + x.pv.toNat * 2 ^ 5

/-- The word of `lpeers.b64` (R173). -/
def encLpeersB64 (x : LF) : Nat :=
  0x3A000019 + x.g.toNat * 2 ^ 22 + x.d.toNat * 2 ^ 15 + x.a.toNat * 2 ^ 8 + x.pv.toNat * 2 ^ 5

/-- The word of `lrank.b32` (R173). -/
def encLrankB32 (x : LF) : Nat :=
  0x3A00001A + x.g.toNat * 2 ^ 22 + x.d.toNat * 2 ^ 15 + x.a.toNat * 2 ^ 8 + x.pv.toNat * 2 ^ 5

/-- The word of `lrank.b64` (R173). -/
def encLrankB64 (x : LF) : Nat :=
  0x3A00001B + x.g.toNat * 2 ^ 22 + x.d.toNat * 2 ^ 15 + x.a.toNat * 2 ^ 8 + x.pv.toNat * 2 ^ 5

/-- The word of `lsame.b32` (R173). -/
def encLsameB32 (x : LF) : Nat :=
  0x3A00001C + x.g.toNat * 2 ^ 22 + x.d.toNat * 2 ^ 15 + x.a.toNat * 2 ^ 8 + x.pv.toNat * 2 ^ 5

/-- The word of `lsame.b64` (R173). -/
def encLsameB64 (x : LF) : Nat :=
  0x3A00001D + x.g.toNat * 2 ^ 22 + x.d.toNat * 2 ^ 15 + x.a.toNat * 2 ^ 8 + x.pv.toNat * 2 ^ 5

/-- The word of `movs` (R174). -/
def encMovsRead (g : BitVec 3) (d : BitVec 7) (k : BitVec 1) (s : BitVec 14) : Nat :=
  0x3C000000 + g.toNat * 2 ^ 22 + d.toNat * 2 ^ 15 + k.toNat * 2 ^ 14 + s.toNat

/-- The word of `movs` (R176). -/
def encMovsWrite (g : BitVec 3) (d : BitVec 7) (k : BitVec 1) (s : BitVec 12) : Nat :=
  0x3E000000 + g.toNat * 2 ^ 22 + d.toNat * 2 ^ 15 + k.toNat * 2 ^ 14 + s.toNat

/-- The word of `bcast.b32` (R175). -/
def encBcastB32 (g : BitVec 3) (d : BitVec 7) (k : BitVec 6) : Nat :=
  0x3E001000 + g.toNat * 2 ^ 22 + d.toNat * 2 ^ 15 + k.toNat

/-- The word of `rdlane.b32` (R175). -/
def encRdlaneB32 (g : BitVec 3) (d : BitVec 7) (k : BitVec 6) (n : BitVec 5) : Nat :=
  0x3E002000 + g.toNat * 2 ^ 22 + d.toNat * 2 ^ 15 + k.toNat * 2 ^ 5 + n.toNat

/-- The word of `rdlane.first.b32` (R175). -/
def encRdlaneFirstB32 (g : BitVec 3) (d : BitVec 7) (k : BitVec 6) : Nat :=
  0x3E002800 + g.toNat * 2 ^ 22 + d.toNat * 2 ^ 15 + k.toNat * 2 ^ 5

/-- The word of `iadd` (R143). -/
def encSIadd (x : S3) : Nat :=
  0x40000000 + x.d.toNat * 2 ^ 16 + x.a.toNat * 2 ^ 10 + x.b.toNat * 2 ^ 4

/-- The word of `isub` (R143). -/
def encSIsub (x : S3) : Nat :=
  0x40000001 + x.d.toNat * 2 ^ 16 + x.a.toNat * 2 ^ 10 + x.b.toNat * 2 ^ 4

/-- The word of `imul.lo` (R143). -/
def encSImulLo (x : S3) : Nat :=
  0x40000002 + x.d.toNat * 2 ^ 16 + x.a.toNat * 2 ^ 10 + x.b.toNat * 2 ^ 4

/-- The word of `imul.hi.s` (R143). -/
def encSImulHiS (x : S3) : Nat :=
  0x40000003 + x.d.toNat * 2 ^ 16 + x.a.toNat * 2 ^ 10 + x.b.toNat * 2 ^ 4

/-- The word of `imul.hi.n` (R143). -/
def encSImulHiN (x : S3) : Nat :=
  0x40000004 + x.d.toNat * 2 ^ 16 + x.a.toNat * 2 ^ 10 + x.b.toNat * 2 ^ 4

/-- The word of `imin.s` (R143). -/
def encSIminS (x : S3) : Nat :=
  0x40000005 + x.d.toNat * 2 ^ 16 + x.a.toNat * 2 ^ 10 + x.b.toNat * 2 ^ 4

/-- The word of `imax.s` (R143). -/
def encSImaxS (x : S3) : Nat :=
  0x40000006 + x.d.toNat * 2 ^ 16 + x.a.toNat * 2 ^ 10 + x.b.toNat * 2 ^ 4

/-- The word of `imin.n` (R143). -/
def encSIminN (x : S3) : Nat :=
  0x40000007 + x.d.toNat * 2 ^ 16 + x.a.toNat * 2 ^ 10 + x.b.toNat * 2 ^ 4

/-- The word of `imax.n` (R143). -/
def encSImaxN (x : S3) : Nat :=
  0x40000008 + x.d.toNat * 2 ^ 16 + x.a.toNat * 2 ^ 10 + x.b.toNat * 2 ^ 4

/-- The word of `and` (R143). -/
def encSAnd (x : S3) : Nat :=
  0x40000009 + x.d.toNat * 2 ^ 16 + x.a.toNat * 2 ^ 10 + x.b.toNat * 2 ^ 4

/-- The word of `or` (R143). -/
def encSOr (x : S3) : Nat :=
  0x4000000A + x.d.toNat * 2 ^ 16 + x.a.toNat * 2 ^ 10 + x.b.toNat * 2 ^ 4

/-- The word of `xor` (R143). -/
def encSXor (x : S3) : Nat :=
  0x4000000B + x.d.toNat * 2 ^ 16 + x.a.toNat * 2 ^ 10 + x.b.toNat * 2 ^ 4

/-- The word of `andn` (R143). -/
def encSAndn (x : S3) : Nat :=
  0x4000000C + x.d.toNat * 2 ^ 16 + x.a.toNat * 2 ^ 10 + x.b.toNat * 2 ^ 4

/-- The word of `shl` (R143). -/
def encSShl (x : S3) : Nat :=
  0x4000000D + x.d.toNat * 2 ^ 16 + x.a.toNat * 2 ^ 10 + x.b.toNat * 2 ^ 4

/-- The word of `shr` (R143). -/
def encSShr (x : S3) : Nat :=
  0x4000000E + x.d.toNat * 2 ^ 16 + x.a.toNat * 2 ^ 10 + x.b.toNat * 2 ^ 4

/-- The word of `sar` (R143). -/
def encSSar (x : S3) : Nat :=
  0x4000000F + x.d.toNat * 2 ^ 16 + x.a.toNat * 2 ^ 10 + x.b.toNat * 2 ^ 4

/-- The word of `rot` (R143). -/
def encSRot (x : S3) : Nat :=
  0x40400000 + x.d.toNat * 2 ^ 16 + x.a.toNat * 2 ^ 10 + x.b.toNat * 2 ^ 4

/-- The word of `popc` (R143). -/
def encSPopc (x : S2) : Nat :=
  0x40400001 + x.d.toNat * 2 ^ 16 + x.a.toNat * 2 ^ 10

/-- The word of `clz` (R143). -/
def encSClz (x : S2) : Nat :=
  0x40400002 + x.d.toNat * 2 ^ 16 + x.a.toNat * 2 ^ 10

/-- The word of `ctz` (R143). -/
def encSCtz (x : S2) : Nat :=
  0x40400003 + x.d.toNat * 2 ^ 16 + x.a.toNat * 2 ^ 10

/-- The word of `brev` (R143). -/
def encSBrev (x : S2) : Nat :=
  0x40400004 + x.d.toNat * 2 ^ 16 + x.a.toNat * 2 ^ 10

/-- The word of `not` (R143). -/
def encSNot (x : S2) : Nat :=
  0x40400005 + x.d.toNat * 2 ^ 16 + x.a.toNat * 2 ^ 10

/-- The word of `iadd.s64` (R143). -/
def encSIaddS64 (x : S3) : Nat :=
  0x40400008 + x.d.toNat * 2 ^ 16 + x.a.toNat * 2 ^ 10 + x.b.toNat * 2 ^ 4

/-- The word of `isub.s64` (R143). -/
def encSIsubS64 (x : S3) : Nat :=
  0x40400009 + x.d.toNat * 2 ^ 16 + x.a.toNat * 2 ^ 10 + x.b.toNat * 2 ^ 4

/-- The word of `fadd.f32` (R143). -/
def encSFadd (x : S3) : Nat :=
  0x40800000 + x.d.toNat * 2 ^ 16 + x.a.toNat * 2 ^ 10 + x.b.toNat * 2 ^ 4

/-- The word of `fsub.f32` (R143). -/
def encSFsub (x : S3) : Nat :=
  0x40800001 + x.d.toNat * 2 ^ 16 + x.a.toNat * 2 ^ 10 + x.b.toNat * 2 ^ 4

/-- The word of `fmul.f32` (R143). -/
def encSFmul (x : S3) : Nat :=
  0x40800002 + x.d.toNat * 2 ^ 16 + x.a.toNat * 2 ^ 10 + x.b.toNat * 2 ^ 4

/-- The word of `ffma.f32` (R143). -/
def encSFfma (x : S3) : Nat :=
  0x40800003 + x.d.toNat * 2 ^ 16 + x.a.toNat * 2 ^ 10 + x.b.toNat * 2 ^ 4

/-- The word of `fmin.f32` (R143). -/
def encSFmin (x : S3) : Nat :=
  0x40800004 + x.d.toNat * 2 ^ 16 + x.a.toNat * 2 ^ 10 + x.b.toNat * 2 ^ 4

/-- The word of `fmax.f32` (R143). -/
def encSFmax (x : S3) : Nat :=
  0x40800005 + x.d.toNat * 2 ^ 16 + x.a.toNat * 2 ^ 10 + x.b.toNat * 2 ^ 4

/-- The word of `cvt.f32.s32` (R143). -/
def encSCvtF32S32 (x : S2) : Nat :=
  0x40800008 + x.d.toNat * 2 ^ 16 + x.a.toNat * 2 ^ 10

/-- The word of `cvt.f32.n32` (R143). -/
def encSCvtF32N32 (x : S2) : Nat :=
  0x40800009 + x.d.toNat * 2 ^ 16 + x.a.toNat * 2 ^ 10

/-- The word of `cvt.s32.f32` (R143). -/
def encSCvtS32F32 (x : S2) : Nat :=
  0x4080000A + x.d.toNat * 2 ^ 16 + x.a.toNat * 2 ^ 10

/-- The word of `cvt.n32.f32` (R143). -/
def encSCvtN32F32 (x : S2) : Nat :=
  0x4080000B + x.d.toNat * 2 ^ 16 + x.a.toNat * 2 ^ 10

/-- The word of `icmp.s32` (R143). -/
def encSIcmpS32 (x : SC) : Nat :=
  0x46000000 + x.d.toNat * 2 ^ 16 + x.a.toNat * 2 ^ 10 + x.b.toNat * 2 ^ 4 + x.cc.toNat

/-- The word of `icmp.n32` (R143). -/
def encSIcmpN32 (x : SC) : Nat :=
  0x46000008 + x.d.toNat * 2 ^ 16 + x.a.toNat * 2 ^ 10 + x.b.toNat * 2 ^ 4 + x.cc.toNat

/-- The word of `fcmp.f32` (R143). -/
def encSFcmpF32 (x : SC) : Nat :=
  0x46400000 + x.d.toNat * 2 ^ 16 + x.a.toNat * 2 ^ 10 + x.b.toNat * 2 ^ 4 + x.cc.toNat

/-- The word of `csel` (R143). -/
def encCsel (x : S3) : Nat :=
  0x46800000 + x.d.toNat * 2 ^ 16 + x.a.toNat * 2 ^ 10 + x.b.toNat * 2 ^ 4

/-- The word of `iaddi` (R144). -/
def encSIaddi (x : SI) : Nat :=
  0x42000000 + x.d.toNat * 2 ^ 16 + x.a.toNat * 2 ^ 10 + x.imm.toNat

/-- The word of `andi` (R144). -/
def encSAndi (x : SI) : Nat :=
  0x42400000 + x.d.toNat * 2 ^ 16 + x.a.toNat * 2 ^ 10 + x.imm.toNat

/-- The word of `ori` (R144). -/
def encSOri (x : SI) : Nat :=
  0x42800000 + x.d.toNat * 2 ^ 16 + x.a.toNat * 2 ^ 10 + x.imm.toNat

/-- The word of `xori` (R144). -/
def encSXori (x : SI) : Nat :=
  0x42C00000 + x.d.toNat * 2 ^ 16 + x.a.toNat * 2 ^ 10 + x.imm.toNat

/-- The word of `shli` (R144). -/
def encSShli (x : SN) : Nat :=
  0x43000000 + x.d.toNat * 2 ^ 16 + x.a.toNat * 2 ^ 10 + x.n.toNat

/-- The word of `shri` (R144). -/
def encSShri (x : SN) : Nat :=
  0x43400000 + x.d.toNat * 2 ^ 16 + x.a.toNat * 2 ^ 10 + x.n.toNat

/-- The word of `sari` (R144). -/
def encSSari (x : SN) : Nat :=
  0x43800000 + x.d.toNat * 2 ^ 16 + x.a.toNat * 2 ^ 10 + x.n.toNat

/-- The word of `movi` (R144). -/
def encSMovi (d : BitVec 6) (i : BitVec 10) : Nat :=
  0x43C00000 + d.toNat * 2 ^ 16 + i.toNat

/-- The word of `movw.z` (R145). -/
def encMovwZ (x : SW) : Nat :=
  0x44000000 + x.d.toNat * 2 ^ 16 + x.imm.toNat

/-- The word of `movw.s` (R145). -/
def encMovwS (x : SW) : Nat :=
  0x44400000 + x.d.toNat * 2 ^ 16 + x.imm.toNat

/-- The word of `movw.hi` (R145). -/
def encMovwHi (x : SW) : Nat :=
  0x44800000 + x.d.toNat * 2 ^ 16 + x.imm.toNat

/-- The word of `movw.lo` (R145). -/
def encMovwLo (x : SW) : Nat :=
  0x44C00000 + x.d.toNat * 2 ^ 16 + x.imm.toNat

/-- The word of `br.any` (R153). -/
def encBrAny (x : BR) : Nat :=
  0x50000000 + x.p.toNat * 2 ^ 22 + x.o.toNat

/-- The word of `br.all` (R153). -/
def encBrAll (x : BR) : Nat :=
  0x50100000 + x.p.toNat * 2 ^ 22 + x.o.toNat

/-- The word of `br.none` (R153). -/
def encBrNone (x : BR) : Nat :=
  0x50200000 + x.p.toNat * 2 ^ 22 + x.o.toNat

/-- The word of `br.uni` (R153). -/
def encBrUni (x : BR) : Nat :=
  0x50300000 + x.p.toNat * 2 ^ 22 + x.o.toNat

/-- The word of `brs` (R154). -/
def encBrs (c : BitVec 3) (s : BitVec 6) (o : BitVec 16) : Nat :=
  0x52000000 + c.toNat * 2 ^ 22 + s.toNat * 2 ^ 16 + o.toNat

/-- The word of `jmp` (R154). -/
def encJmp (o : BitVec 16) : Nat :=
  0x53C00000 + o.toNat

/-- The word of `brx` (R157). -/
def encBrx (a : BitVec 7) : Nat :=
  0x54000000 + a.toNat * 2 ^ 15

/-- The word of `call` (R156). -/
def encCall (a : BitVec 6) (l : BitVec 6) : Nat :=
  0x54400000 + a.toNat * 2 ^ 15 + l.toNat * 2 ^ 9

/-- The word of `ret` (R156). -/
def encRet (l : BitVec 6) : Nat :=
  0x54800000 + l.toNat * 2 ^ 9

/-- The word of `join` (R160). -/
def encJoin : Nat :=
  0x56000000

/-- The word of `waitj` (R161). -/
def encWaitj (p : BitVec 3) (n : BitVec 19) : Nat :=
  0x56400000 + p.toNat * 2 ^ 19 + n.toNat

/-- The word of `push` (R159). -/
def encPush (o : BitVec 20) : Nat :=
  0x56800000 + o.toNat

/-- The word of `pop` (R162). -/
def encPop : Nat :=
  0x56C00000

/-- The word of `yield` (R164). -/
def encYield (n : BitVec 10) : Nat :=
  0x57000000 + n.toNat

/-- The word of `exit` (R165). -/
def encExit : Nat :=
  0x57400000

/-- The word of `barc` (R167). -/
def encBarc : Nat :=
  0x58000000

/-- The word of `barp.arrive` (R169). -/
def encBarpArrive (a : BitVec 6) (q : BitVec 6) : Nat :=
  0x58400000 + a.toNat * 2 ^ 16 + q.toNat * 2 ^ 10

/-- The word of `barp.sync` (R169). -/
def encBarpSync (a : BitVec 6) (q : BitVec 6) : Nat :=
  0x58400100 + a.toNat * 2 ^ 16 + q.toNat * 2 ^ 10

/-- The word of `barp.wait` (R169). -/
def encBarpWait (a : BitVec 6) (q : BitVec 6) : Nat :=
  0x58400200 + a.toNat * 2 ^ 16 + q.toNat * 2 ^ 10

/-- The word of `spawn` (R269). -/
def encSpawn (e : BitVec 6) (a : BitVec 6) : Nat :=
  0x5A000000 + e.toNat * 2 ^ 16 + a.toNat * 2 ^ 10

/-- The word of `spawn.u` (R269). -/
def encSpawnU (e : BitVec 6) (a : BitVec 6) : Nat :=
  0x5A000010 + e.toNat * 2 ^ 16 + a.toNat * 2 ^ 10

/-- The word of `launch` (R273). -/
def encLaunch (a : BitVec 6) (c : BitVec 6) : Nat :=
  0x5A000020 + a.toNat * 2 ^ 16 + c.toNat * 2 ^ 10

/-- The word of `xpand` (R277). -/
def encXpand (k : BitVec 3) (s : BitVec 6) (o : BitVec 6) : Nat :=
  0x5C000000 + k.toNat * 2 ^ 22 + s.toNat * 2 ^ 16 + o.toNat * 2 ^ 10

/-- The word of `xnext` (R278). -/
def encXnext (p : BitVec 3) : Nat :=
  0x5C000010 + p.toNat * 2 ^ 22

/-- The word of `sred` (R279). -/
def encSred (a : BitVec 6) : Nat :=
  0x5C000020 + a.toNat * 2 ^ 16

/-- The word of `sred.get` (R280). -/
def encSredGet (d : BitVec 6) (l : BitVec 4) : Nat :=
  0x5C000030 + d.toNat * 2 ^ 16 + l.toNat

/-- The word of `recurse` (R285). -/
def encRecurse (o : BitVec 6) : Nat :=
  0x5E000000 + o.toNat * 2 ^ 16

/-- The word of `wkids` (R287). -/
def encWkids (c : BitVec 6) (d : BitVec 6) (l : BitVec 4) : Nat :=
  0x5E000010 + c.toNat * 2 ^ 16 + d.toNat * 2 ^ 10 + l.toNat

/-- The word of `wret` (R288). -/
def encWret : Nat :=
  0x5E000020

/-- The word of `ldg` (R219). -/
def encLdg (x : ML) : Nat :=
  0x60000000 + x.g.toNat * 2 ^ 22 + x.d.toNat * 2 ^ 15 + x.o.toNat * 2 ^ 8 + x.sz.toNat * 2 ^ 6 + x.bp.toNat * 2 ^ 4 + x.l.toNat

/-- The word of `stg` (R219). -/
def encStg (x : MS) : Nat :=
  0x62000000 + x.g.toNat * 2 ^ 22 + x.d.toNat * 2 ^ 15 + x.o.toNat * 2 ^ 8 + x.sz.toNat * 2 ^ 6 + x.bp.toNat * 2 ^ 4

/-- The word of `lds` (R219). -/
def encLds (x : ML) : Nat :=
  0x64000000 + x.g.toNat * 2 ^ 22 + x.d.toNat * 2 ^ 15 + x.o.toNat * 2 ^ 8 + x.sz.toNat * 2 ^ 6 + x.bp.toNat * 2 ^ 4 + x.l.toNat

/-- The word of `sts` (R219). -/
def encSts (x : MS) : Nat :=
  0x66000000 + x.g.toNat * 2 ^ 22 + x.d.toNat * 2 ^ 15 + x.o.toNat * 2 ^ 8 + x.sz.toNat * 2 ^ 6 + x.bp.toNat * 2 ^ 4

/-- The word of `ldc` (R221). -/
def encLdc (g : BitVec 3) (d : BitVec 7) (o : BitVec 7) (z : BitVec 2) (l : BitVec 4) : Nat :=
  0x68000000 + g.toNat * 2 ^ 22 + d.toNat * 2 ^ 15 + o.toNat * 2 ^ 8 + z.toNat * 2 ^ 6 + l.toNat

/-- The word of `pref.clu` (R222). -/
def encPrefClu (g : BitVec 3) (o : BitVec 7) (b : BitVec 2) : Nat :=
  0x680000C0 + g.toNat * 2 ^ 22 + o.toNat * 2 ^ 8 + b.toNat * 2 ^ 4

/-- The word of `pref.home` (R222). -/
def encPrefHome (g : BitVec 3) (o : BitVec 7) (b : BitVec 2) : Nat :=
  0x680080C0 + g.toNat * 2 ^ 22 + o.toNat * 2 ^ 8 + b.toNat * 2 ^ 4

/-- The word of `atom.add.s32` (R224). -/
def encAtomAddS32 (x : AL) : Nat :=
  0x6A000000 + x.scope.toNat * 2 ^ 22 + x.d.toNat * 2 ^ 15 + x.a.toNat * 2 ^ 8 + x.l.toNat

/-- The word of `atom.fadd.f32` (R224). -/
def encAtomFaddF32 (x : AL) : Nat :=
  0x6A000010 + x.scope.toNat * 2 ^ 22 + x.d.toNat * 2 ^ 15 + x.a.toNat * 2 ^ 8 + x.l.toNat

/-- The word of `atom.min.s32` (R224). -/
def encAtomMinS32 (x : AL) : Nat :=
  0x6A000020 + x.scope.toNat * 2 ^ 22 + x.d.toNat * 2 ^ 15 + x.a.toNat * 2 ^ 8 + x.l.toNat

/-- The word of `atom.max.s32` (R224). -/
def encAtomMaxS32 (x : AL) : Nat :=
  0x6A000030 + x.scope.toNat * 2 ^ 22 + x.d.toNat * 2 ^ 15 + x.a.toNat * 2 ^ 8 + x.l.toNat

/-- The word of `atom.and.b32` (R224). -/
def encAtomAndB32 (x : AL) : Nat :=
  0x6A000040 + x.scope.toNat * 2 ^ 22 + x.d.toNat * 2 ^ 15 + x.a.toNat * 2 ^ 8 + x.l.toNat

/-- The word of `atom.or.b32` (R224). -/
def encAtomOrB32 (x : AL) : Nat :=
  0x6A000050 + x.scope.toNat * 2 ^ 22 + x.d.toNat * 2 ^ 15 + x.a.toNat * 2 ^ 8 + x.l.toNat

/-- The word of `atom.xchg.b32` (R224). -/
def encAtomXchgB32 (x : AL) : Nat :=
  0x6A000060 + x.scope.toNat * 2 ^ 22 + x.d.toNat * 2 ^ 15 + x.a.toNat * 2 ^ 8 + x.l.toNat

/-- The word of `atom.cas.b32` (R224). -/
def encAtomCasB32 (x : AL) : Nat :=
  0x6A000070 + x.scope.toNat * 2 ^ 22 + x.d.toNat * 2 ^ 15 + x.a.toNat * 2 ^ 8 + x.l.toNat

/-- The word of `atom.add.n64` (R224). -/
def encAtomAddN64 (x : AL) : Nat :=
  0x6A000080 + x.scope.toNat * 2 ^ 22 + x.d.toNat * 2 ^ 15 + x.a.toNat * 2 ^ 8 + x.l.toNat

/-- The word of `red.add.s32` (R224). -/
def encRedAddS32 (x : AS) : Nat :=
  0x6A000090 + x.scope.toNat * 2 ^ 22 + x.d.toNat * 2 ^ 15 + x.a.toNat * 2 ^ 8

/-- The word of `red.fadd.f32` (R224). -/
def encRedFaddF32 (x : AS) : Nat :=
  0x6A0000A0 + x.scope.toNat * 2 ^ 22 + x.d.toNat * 2 ^ 15 + x.a.toNat * 2 ^ 8

/-- The word of `red.add.n64` (R224). -/
def encRedAddN64 (x : AS) : Nat :=
  0x6A0000B0 + x.scope.toNat * 2 ^ 22 + x.d.toNat * 2 ^ 15 + x.a.toNat * 2 ^ 8

/-- The word of `ld.acq.b32` (R224). -/
def encLdAcqB32 (x : AL) : Nat :=
  0x6A0000C0 + x.scope.toNat * 2 ^ 22 + x.d.toNat * 2 ^ 15 + x.a.toNat * 2 ^ 8 + x.l.toNat

/-- The word of `st.rel.b32` (R224). -/
def encStRelB32 (x : AS) : Nat :=
  0x6A0000D0 + x.scope.toNat * 2 ^ 22 + x.d.toNat * 2 ^ 15 + x.a.toNat * 2 ^ 8

/-- The word of `sc.add.s32` (R208). -/
def encScAddS32 (x : AL) : Nat :=
  0x6A0000E0 + x.scope.toNat * 2 ^ 22 + x.d.toNat * 2 ^ 15 + x.a.toNat * 2 ^ 8 + x.l.toNat

/-- The word of `sc.cas.b32` (R208). -/
def encScCasB32 (x : AL) : Nat :=
  0x6A0000F0 + x.scope.toNat * 2 ^ 22 + x.d.toNat * 2 ^ 15 + x.a.toNat * 2 ^ 8 + x.l.toNat

/-- The word of `atom.add.s32.scr` (R227). -/
def encAtomAddS32Scr (x : ALs) : Nat :=
  0x6C000000 + x.d.toNat * 2 ^ 15 + x.a.toNat * 2 ^ 8 + x.l.toNat

/-- The word of `atom.fadd.f32.scr` (R227). -/
def encAtomFaddF32Scr (x : ALs) : Nat :=
  0x6C000010 + x.d.toNat * 2 ^ 15 + x.a.toNat * 2 ^ 8 + x.l.toNat

/-- The word of `atom.min.s32.scr` (R227). -/
def encAtomMinS32Scr (x : ALs) : Nat :=
  0x6C000020 + x.d.toNat * 2 ^ 15 + x.a.toNat * 2 ^ 8 + x.l.toNat

/-- The word of `atom.max.s32.scr` (R227). -/
def encAtomMaxS32Scr (x : ALs) : Nat :=
  0x6C000030 + x.d.toNat * 2 ^ 15 + x.a.toNat * 2 ^ 8 + x.l.toNat

/-- The word of `atom.and.b32.scr` (R227). -/
def encAtomAndB32Scr (x : ALs) : Nat :=
  0x6C000040 + x.d.toNat * 2 ^ 15 + x.a.toNat * 2 ^ 8 + x.l.toNat

/-- The word of `atom.or.b32.scr` (R227). -/
def encAtomOrB32Scr (x : ALs) : Nat :=
  0x6C000050 + x.d.toNat * 2 ^ 15 + x.a.toNat * 2 ^ 8 + x.l.toNat

/-- The word of `atom.xchg.b32.scr` (R227). -/
def encAtomXchgB32Scr (x : ALs) : Nat :=
  0x6C000060 + x.d.toNat * 2 ^ 15 + x.a.toNat * 2 ^ 8 + x.l.toNat

/-- The word of `atom.cas.b32.scr` (R227). -/
def encAtomCasB32Scr (x : ALs) : Nat :=
  0x6C000070 + x.d.toNat * 2 ^ 15 + x.a.toNat * 2 ^ 8 + x.l.toNat

/-- The word of `atom.add.n64.scr` (R227). -/
def encAtomAddN64Scr (x : ALs) : Nat :=
  0x6C000080 + x.d.toNat * 2 ^ 15 + x.a.toNat * 2 ^ 8 + x.l.toNat

/-- The word of `red.add.s32.scr` (R227). -/
def encRedAddS32Scr (x : ASs) : Nat :=
  0x6C000090 + x.d.toNat * 2 ^ 15 + x.a.toNat * 2 ^ 8

/-- The word of `red.fadd.f32.scr` (R227). -/
def encRedFaddF32Scr (x : ASs) : Nat :=
  0x6C0000A0 + x.d.toNat * 2 ^ 15 + x.a.toNat * 2 ^ 8

/-- The word of `red.add.n64.scr` (R227). -/
def encRedAddN64Scr (x : ASs) : Nat :=
  0x6C0000B0 + x.d.toNat * 2 ^ 15 + x.a.toNat * 2 ^ 8

/-- The word of `ld.acq.b32.scr` (R227). -/
def encLdAcqB32Scr (x : ALs) : Nat :=
  0x6C0000C0 + x.d.toNat * 2 ^ 15 + x.a.toNat * 2 ^ 8 + x.l.toNat

/-- The word of `st.rel.b32.scr` (R227). -/
def encStRelB32Scr (x : ASs) : Nat :=
  0x6C0000D0 + x.d.toNat * 2 ^ 15 + x.a.toNat * 2 ^ 8

/-- The word of `fence` (R229). -/
def encFence (s : BitVec 3) : Nat :=
  0x6E000000 + s.toNat * 2 ^ 22

/-- The word of `xfence` (R230). -/
def encXfence (s : BitVec 3) (a : BitVec 6) (b : BitVec 6) : Nat :=
  0x6E000010 + s.toNat * 2 ^ 22 + a.toNat * 2 ^ 16 + b.toNat * 2 ^ 10

/-- The word of `watch.b32` (R232). -/
def encWatchB32 (c : BitVec 3) (a : BitVec 6) (b : BitVec 6) : Nat :=
  0x6E000020 + c.toNat * 2 ^ 22 + a.toNat * 2 ^ 16 + b.toNat * 2 ^ 10

/-- The word of `watch.b64` (R232). -/
def encWatchB64 (c : BitVec 3) (a : BitVec 6) (b : BitVec 6) : Nat :=
  0x6E000030 + c.toNat * 2 ^ 22 + a.toNat * 2 ^ 16 + b.toNat * 2 ^ 10

/-- The word of `watch.cancel` (R232). -/
def encWatchCancel : Nat :=
  0x6E000040

/-- The word of `waitc` (R233). -/
def encWaitc (s : BitVec 3) (d : BitVec 6) (t : BitVec 6) : Nat :=
  0x6E000050 + s.toNat * 2 ^ 22 + d.toNat * 2 ^ 16 + t.toNat * 2 ^ 10

/-- The word of `copy` (R254). -/
def encCopy (b : BitVec 6) : Nat :=
  0x70000000 + b.toNat * 2 ^ 16

/-- The word of `copy.zero` (R254). -/
def encCopyZero (b : BitVec 6) : Nat :=
  0x70000010 + b.toNat * 2 ^ 16

/-- The word of `gather` (R255). -/
def encGather (b : BitVec 6) : Nat :=
  0x72000000 + b.toNat * 2 ^ 16

/-- The word of `scatter` (R255). -/
def encScatter (b : BitVec 6) : Nat :=
  0x72000010 + b.toNat * 2 ^ 16

/-- The word of `scatter.add` (R255). -/
def encScatterAdd (b : BitVec 6) : Nat :=
  0x72000020 + b.toNat * 2 ^ 16

/-- The word of `mloop` (R248). -/
def encMloop (x : MX) : Nat :=
  0x74000000 + x.ta.toNat * 2 ^ 16 + x.tb.toNat * 2 ^ 10 + x.acc.toNat * 2 ^ 5 + x.k.toNat

/-- The word of `mloop.sm` (R249). -/
def encMloopSm (b : BitVec 6) (c : BitVec 5) (k : BitVec 5) : Nat :=
  0x74400000 + b.toNat * 2 ^ 10 + c.toNat * 2 ^ 5 + k.toNat

/-- The word of `mloop.pro` (R250). -/
def encMloopPro (x : MX) : Nat :=
  0x74800000 + x.ta.toNat * 2 ^ 16 + x.tb.toNat * 2 ^ 10 + x.acc.toNat * 2 ^ 5 + x.k.toNat

/-- The word of `mloop.grp` (R251). -/
def encMloopGrp (x : MX) : Nat :=
  0x74C00000 + x.ta.toNat * 2 ^ 16 + x.tb.toNat * 2 ^ 10 + x.acc.toNat * 2 ^ 5 + x.k.toNat

/-- The word of `tidset` (R242). -/
def encTidset (a : BitVec 6) (n : BitVec 6) : Nat :=
  0x76000000 + a.toNat * 2 ^ 16 + n.toNat * 2 ^ 10

/-- The word of `tidget` (R242). -/
def encTidget (j : BitVec 3) (d : BitVec 6) (n : BitVec 6) : Nat :=
  0x76000010 + j.toNat * 2 ^ 22 + d.toNat * 2 ^ 16 + n.toNat * 2 ^ 10

/-- The word of `aalloc` (R243). -/
def encAalloc (n : BitVec 6) (c : BitVec 6) : Nat :=
  0x76000020 + n.toNat * 2 ^ 16 + c.toNat * 2 ^ 10

/-- The word of `afree` (R243). -/
def encAfree (n : BitVec 6) (c : BitVec 6) : Nat :=
  0x76000030 + n.toNat * 2 ^ 16 + c.toNat * 2 ^ 10

/-- The word of `aget.acc.b32` (R244). -/
def encAgetAcc (x : AG) : Nat :=
  0x76000040 + x.h.toNat * 2 ^ 22 + x.sa.toNat * 2 ^ 16 + x.sb.toNat * 2 ^ 10 + x.l.toNat

/-- The word of `aget.m.f32` (R244). -/
def encAgetM (x : AG) : Nat :=
  0x76800040 + x.h.toNat * 2 ^ 22 + x.sa.toNat * 2 ^ 16 + x.sb.toNat * 2 ^ 10 + x.l.toNat

/-- The word of `aget.l.f32` (R244). -/
def encAgetL (x : AG) : Nat :=
  0x77000040 + x.h.toNat * 2 ^ 22 + x.sa.toNat * 2 ^ 16 + x.sb.toNat * 2 ^ 10 + x.l.toNat

/-- The word of `fclaim` (R245). -/
def encFclaim (b : BitVec 6) : Nat :=
  0x76000050 + b.toNat * 2 ^ 16

/-- The word of `chain` (R259). -/
def encChain (c : BitVec 6) (e : BitVec 6) : Nat :=
  0x78000000 + c.toNat * 2 ^ 16 + e.toNat * 2 ^ 10

/-- The word of `chwait` (R262). -/
def encChwait (s : BitVec 3) (c : BitVec 6) (n : BitVec 6) : Nat :=
  0x78000010 + s.toNat * 2 ^ 22 + c.toNat * 2 ^ 16 + n.toNat * 2 ^ 10

/-- The word of `coll.allred` (R256). -/
def encCollAllred (b : BitVec 6) (g : BitVec 6) : Nat :=
  0x7A000000 + b.toNat * 2 ^ 16 + g.toNat * 2 ^ 10

/-- The word of `coll.redsc` (R256). -/
def encCollRedsc (b : BitVec 6) (g : BitVec 6) : Nat :=
  0x7A000010 + b.toNat * 2 ^ 16 + g.toNat * 2 ^ 10

/-- The word of `coll.allgat` (R256). -/
def encCollAllgat (b : BitVec 6) (g : BitVec 6) : Nat :=
  0x7A000020 + b.toNat * 2 ^ 16 + g.toNat * 2 ^ 10

/-- The word of `coll.bcast` (R256). -/
def encCollBcast (b : BitVec 6) (g : BitVec 6) : Nat :=
  0x7A000030 + b.toNat * 2 ^ 16 + g.toNat * 2 ^ 10

/-- The word of `svc` (R313). -/
def encSvc (d : BitVec 6) (a : BitVec 6) (n : BitVec 10) : Nat :=
  0x7C000000 + d.toNat * 2 ^ 16 + a.toNat * 2 ^ 10 + n.toNat

/-- The word of `escal` (R314). -/
def encEscal (n : BitVec 8) : Nat :=
  0x7C400000 + n.toNat

/-- The word of `brk` (R334). -/
def encBrk (n : BitVec 16) : Nat :=
  0x7D000000 + n.toNat

/-- The word of `dfold` (R334). -/
def encDfold (a : BitVec 7) : Nat :=
  0x7D400000 + a.toNat * 2 ^ 15

/-- The word of `lmark` (R334). -/
def encLmark (a : BitVec 6) (n : BitVec 16) : Nat :=
  0x7D800000 + a.toNat * 2 ^ 16 + n.toNat

/-- The word of `hint.imm` (R65). -/
def encHintImm (h : BitVec 22) : Nat :=
  0x7E000000 + h.toNat

/-- The word of `hint.mod` (R66). -/
def encHintMod (e : BitVec 1) (m : BitVec 2) (s : BitVec 1) (o : BitVec 1) (b : BitVec 1) (c : BitVec 3) (l : BitVec 4) : Nat :=
  0x7E400000 + e.toNat * 2 ^ 21 + m.toNat * 2 ^ 19 + s.toNat * 2 ^ 18 + o.toNat * 2 ^ 17 + b.toNat * 2 ^ 16 + c.toNat * 2 ^ 13 + l.toNat * 2 ^ 9

/-- The word of `hint.guard` (R67). -/
def encHintGuard (n : BitVec 3) : Nat :=
  0x7E800000 + n.toNat * 2 ^ 19

/-- The word of `hint.sched` (R68). -/
def encHintSched (y : BitVec 1) (u : BitVec 1) : Nat :=
  0x7EC00000 + y.toNat * 2 ^ 21 + u.toNat * 2 ^ 20

/-- The word of `hint.rep` (R78). -/
def encHintRep (c : BitVec 6) (d : BitVec 4) (a : BitVec 4) (b : BitVec 4) : Nat :=
  0x7F000000 + c.toNat * 2 ^ 16 + d.toNat * 2 ^ 12 + a.toNat * 2 ^ 8 + b.toNat * 2 ^ 4

/-- The word of `hint.nop` (R70). -/
def encHintNop (t : BitVec 22) : Nat :=
  0x7F400000 + t.toNat

/-- The word of `dpair` (R80). -/
def encDpair (i : BitVec 10) (r : BitVec 5) (j : BitVec 10) (s : BitVec 5) : Nat :=
  0x80008000 + i.toNat * 2 ^ 21 + r.toNat * 2 ^ 16 + j.toNat * 2 ^ 5 + s.toNat

/-- The word of `dpair` (R80). -/
def encDpairSingle (i : BitVec 10) (r : BitVec 5) : Nat :=
  0x80000000 + i.toNat * 2 ^ 21 + r.toNat * 2 ^ 16

/-- The word of an instruction (05 Table 5.2 and the family tables); 0 for an event, which has none. -/
def encode : Instr → Nat
  | .iadd x => encIadd x
  | .isub x => encIsub x
  | .imulLo x => encImulLo x
  | .imulHiS x => encImulHiS x
  | .imac x => encImac x
  | .iabd x => encIabd x
  | .iminS x => encIminS x
  | .imaxS x => encImaxS x
  | .iminN x => encIminN x
  | .imaxN x => encImaxN x
  | .and x => encAnd x
  | .or x => encOr x
  | .xor x => encXor x
  | .andn x => encAndn x
  | .shl x => encShl x
  | .shr x => encShr x
  | .sar x => encSar x
  | .rot x => encRot x
  | .fadd x => encFadd x
  | .fsub x => encFsub x
  | .fmul x => encFmul x
  | .ffma x => encFfma x
  | .fmin x => encFmin x
  | .fmax x => encFmax x
  | .haddBf16x2 x => encHaddBf16x2 x
  | .hmulBf16x2 x => encHmulBf16x2 x
  | .hfmaBf16x2 x => encHfmaBf16x2 x
  | .hfmaF16x2 x => encHfmaF16x2 x
  | .sel x => encSel x
  | .permB8 x => encPermB8 x
  | .dot4S8 x => encDot4S8 x
  | .dot8S4 x => encDot8S4 x
  | .icmpS32 x => encIcmpS32 x
  | .icmpN32 x => encIcmpN32 x
  | .fcmpF32 x => encFcmpF32 x
  | .plog g p f a b m => encPlog g p f a b m
  | .iaddi x => encIaddi x
  | .shli x => encShli x
  | .shri x => encShri x
  | .sari x => encSari x
  | .roti x => encRoti x
  | .movi g d i => encMovi g d i
  | .andi x => encAndi x
  | .cvt g d a t s => encCvt g d a t s
  | .movB32 x => encMovB32 x
  | .notB32 x => encNotB32 x
  | .inegS32 x => encInegS32 x
  | .iabsS32 x => encIabsS32 x
  | .popcB32 x => encPopcB32 x
  | .clzB32 x => encClzB32 x
  | .ctzB32 x => encCtzB32 x
  | .brevB32 x => encBrevB32 x
  | .fnegF32 x => encFnegF32 x
  | .fabsF32 x => encFabsF32 x
  | .fintF32 x => encFintF32 x
  | .exp2 x => encExp2 x
  | .log2 x => encLog2 x
  | .rcp x => encRcp x
  | .rsqrt x => encRsqrt x
  | .sqrt x => encSqrt x
  | .sinpi x => encSinpi x
  | .cospi x => encCospi x
  | .tanh x => encTanh x
  | .rngB32 x => encRngB32 x
  | .rnguF32 x => encRnguF32 x
  | .packhBf16x2 x => encPackhBf16x2 x
  | .packhF16x2 x => encPackhF16x2 x
  | .unpackhBf16x2 x => encUnpackhBf16x2 x
  | .unpackhF16x2 x => encUnpackhF16x2 x
  | .iaddVs x => encIaddVs x
  | .imulLoVs x => encImulLoVs x
  | .imulHiN32Vs x => encImulHiN32Vs x
  | .iaddwS64 x => encIaddwS64 x
  | .faddVs x => encFaddVs x
  | .fsubVs x => encFsubVs x
  | .fmulVs x => encFmulVs x
  | .ffmaVs x => encFfmaVs x
  | .lpick x => encLpick x
  | .lrot x => encLrot x
  | .lslide x => encLslide x
  | .lflip x => encLflip x
  | .lrev x => encLrev x
  | .lfoldIaddS32 x => encLfoldIaddS32 x
  | .lfoldIminS32 x => encLfoldIminS32 x
  | .lfoldImaxS32 x => encLfoldImaxS32 x
  | .lfoldFaddF32 x => encLfoldFaddF32 x
  | .lfoldIminN32 x => encLfoldIminN32 x
  | .lfoldImaxN32 x => encLfoldImaxN32 x
  | .lfoldFminF32 x => encLfoldFminF32 x
  | .lfoldFmaxF32 x => encLfoldFmaxF32 x
  | .lfoldAndB32 x => encLfoldAndB32 x
  | .lfoldOrB32 x => encLfoldOrB32 x
  | .lfoldXorB32 x => encLfoldXorB32 x
  | .lpreIaddS32 x => encLpreIaddS32 x
  | .lpreIminS32 x => encLpreIminS32 x
  | .lpreImaxS32 x => encLpreImaxS32 x
  | .lpreFaddF32 x => encLpreFaddF32 x
  | .lprexIaddS32 x => encLprexIaddS32 x
  | .lprexIminS32 x => encLprexIminS32 x
  | .lprexImaxS32 x => encLprexImaxS32 x
  | .lprexFaddF32 x => encLprexFaddF32 x
  | .pmask x => encPmask x
  | .pcount x => encPcount x
  | .pfirst x => encPfirst x
  | .pparity x => encPparity x
  | .lpeersB32 x => encLpeersB32 x
  | .lpeersB64 x => encLpeersB64 x
  | .lrankB32 x => encLrankB32 x
  | .lrankB64 x => encLrankB64 x
  | .lsameB32 x => encLsameB32 x
  | .lsameB64 x => encLsameB64 x
  | .movsRead g d k s => encMovsRead g d k s
  | .movsWrite g d k s => encMovsWrite g d k s
  | .bcastB32 g d k => encBcastB32 g d k
  | .rdlaneB32 g d k n => encRdlaneB32 g d k n
  | .rdlaneFirstB32 g d k => encRdlaneFirstB32 g d k
  | .sIadd x => encSIadd x
  | .sIsub x => encSIsub x
  | .sImulLo x => encSImulLo x
  | .sImulHiS x => encSImulHiS x
  | .sImulHiN x => encSImulHiN x
  | .sIminS x => encSIminS x
  | .sImaxS x => encSImaxS x
  | .sIminN x => encSIminN x
  | .sImaxN x => encSImaxN x
  | .sAnd x => encSAnd x
  | .sOr x => encSOr x
  | .sXor x => encSXor x
  | .sAndn x => encSAndn x
  | .sShl x => encSShl x
  | .sShr x => encSShr x
  | .sSar x => encSSar x
  | .sRot x => encSRot x
  | .sPopc x => encSPopc x
  | .sClz x => encSClz x
  | .sCtz x => encSCtz x
  | .sBrev x => encSBrev x
  | .sNot x => encSNot x
  | .sIaddS64 x => encSIaddS64 x
  | .sIsubS64 x => encSIsubS64 x
  | .sFadd x => encSFadd x
  | .sFsub x => encSFsub x
  | .sFmul x => encSFmul x
  | .sFfma x => encSFfma x
  | .sFmin x => encSFmin x
  | .sFmax x => encSFmax x
  | .sCvtF32S32 x => encSCvtF32S32 x
  | .sCvtF32N32 x => encSCvtF32N32 x
  | .sCvtS32F32 x => encSCvtS32F32 x
  | .sCvtN32F32 x => encSCvtN32F32 x
  | .sIcmpS32 x => encSIcmpS32 x
  | .sIcmpN32 x => encSIcmpN32 x
  | .sFcmpF32 x => encSFcmpF32 x
  | .csel x => encCsel x
  | .sIaddi x => encSIaddi x
  | .sAndi x => encSAndi x
  | .sOri x => encSOri x
  | .sXori x => encSXori x
  | .sShli x => encSShli x
  | .sShri x => encSShri x
  | .sSari x => encSSari x
  | .sMovi d i => encSMovi d i
  | .movwZ x => encMovwZ x
  | .movwS x => encMovwS x
  | .movwHi x => encMovwHi x
  | .movwLo x => encMovwLo x
  | .brAny x => encBrAny x
  | .brAll x => encBrAll x
  | .brNone x => encBrNone x
  | .brUni x => encBrUni x
  | .brs c s o => encBrs c s o
  | .jmp o => encJmp o
  | .brx a => encBrx a
  | .call a l => encCall a l
  | .ret l => encRet l
  | .join => encJoin
  | .waitj p n => encWaitj p n
  | .push o => encPush o
  | .pop => encPop
  | .yield n => encYield n
  | .exit => encExit
  | .barc => encBarc
  | .barpArrive a q => encBarpArrive a q
  | .barpSync a q => encBarpSync a q
  | .barpWait a q => encBarpWait a q
  | .spawn e a => encSpawn e a
  | .spawnU e a => encSpawnU e a
  | .launch a c => encLaunch a c
  | .xpand k s o => encXpand k s o
  | .xnext p => encXnext p
  | .sred a => encSred a
  | .sredGet d l => encSredGet d l
  | .recurse o => encRecurse o
  | .wkids c d l => encWkids c d l
  | .wret => encWret
  | .ldg x => encLdg x
  | .stg x => encStg x
  | .lds x => encLds x
  | .sts x => encSts x
  | .ldc g d o z l => encLdc g d o z l
  | .prefClu g o b => encPrefClu g o b
  | .prefHome g o b => encPrefHome g o b
  | .atomAddS32 x => encAtomAddS32 x
  | .atomFaddF32 x => encAtomFaddF32 x
  | .atomMinS32 x => encAtomMinS32 x
  | .atomMaxS32 x => encAtomMaxS32 x
  | .atomAndB32 x => encAtomAndB32 x
  | .atomOrB32 x => encAtomOrB32 x
  | .atomXchgB32 x => encAtomXchgB32 x
  | .atomCasB32 x => encAtomCasB32 x
  | .atomAddN64 x => encAtomAddN64 x
  | .redAddS32 x => encRedAddS32 x
  | .redFaddF32 x => encRedFaddF32 x
  | .redAddN64 x => encRedAddN64 x
  | .ldAcqB32 x => encLdAcqB32 x
  | .stRelB32 x => encStRelB32 x
  | .scAddS32 x => encScAddS32 x
  | .scCasB32 x => encScCasB32 x
  | .atomAddS32Scr x => encAtomAddS32Scr x
  | .atomFaddF32Scr x => encAtomFaddF32Scr x
  | .atomMinS32Scr x => encAtomMinS32Scr x
  | .atomMaxS32Scr x => encAtomMaxS32Scr x
  | .atomAndB32Scr x => encAtomAndB32Scr x
  | .atomOrB32Scr x => encAtomOrB32Scr x
  | .atomXchgB32Scr x => encAtomXchgB32Scr x
  | .atomCasB32Scr x => encAtomCasB32Scr x
  | .atomAddN64Scr x => encAtomAddN64Scr x
  | .redAddS32Scr x => encRedAddS32Scr x
  | .redFaddF32Scr x => encRedFaddF32Scr x
  | .redAddN64Scr x => encRedAddN64Scr x
  | .ldAcqB32Scr x => encLdAcqB32Scr x
  | .stRelB32Scr x => encStRelB32Scr x
  | .fence s => encFence s
  | .xfence s a b => encXfence s a b
  | .watchB32 c a b => encWatchB32 c a b
  | .watchB64 c a b => encWatchB64 c a b
  | .watchCancel => encWatchCancel
  | .waitc s d t => encWaitc s d t
  | .copy b => encCopy b
  | .copyZero b => encCopyZero b
  | .gather b => encGather b
  | .scatter b => encScatter b
  | .scatterAdd b => encScatterAdd b
  | .mloop x => encMloop x
  | .mloopSm b c k => encMloopSm b c k
  | .mloopPro x => encMloopPro x
  | .mloopGrp x => encMloopGrp x
  | .tidset a n => encTidset a n
  | .tidget j d n => encTidget j d n
  | .aalloc n c => encAalloc n c
  | .afree n c => encAfree n c
  | .agetAcc x => encAgetAcc x
  | .agetM x => encAgetM x
  | .agetL x => encAgetL x
  | .fclaim b => encFclaim b
  | .chain c e => encChain c e
  | .chwait s c n => encChwait s c n
  | .collAllred b g => encCollAllred b g
  | .collRedsc b g => encCollRedsc b g
  | .collAllgat b g => encCollAllgat b g
  | .collBcast b g => encCollBcast b g
  | .svc d a n => encSvc d a n
  | .escal n => encEscal n
  | .brk n => encBrk n
  | .dfold a => encDfold a
  | .lmark a n => encLmark a n
  | .hintImm h => encHintImm h
  | .hintMod e m s o b c l => encHintMod e m s o b c l
  | .hintGuard n => encHintGuard n
  | .hintSched y u => encHintSched y u
  | .hintRep c d a b => encHintRep c d a b
  | .hintNop t => encHintNop t
  | .dpair i r j s => encDpair i r j s
  | .dpairSingle i r => encDpairSingle i r
  | .instructionFetchFault _ => 0
  | .resultWriteback _ _ => 0
  | .winzeGroupStart _ => 0
  | .chainEntryRead _ => 0
  | .walkerHandover _ => 0
  | .nodeStart _ => 0
  | .deviceLaunchAccept _ => 0
  | .nodeComplete _ => 0
  | .nodePublish _ => 0
  | .cohortDispatch _ _ => 0
  | .windowEnd _ _ => 0
  | .taskGroupDispatch _ _ _ => 0
  | .cradleAgeExpiry _ _ _ => 0
  | .matrixEngineRun _ => 0
  | .copyEngineRun _ => 0
  | .gatherUnitRun _ => 0
  | .collectiveEngineRun _ _ => 0
  | .commandComplete _ => 0
  | .homeSliceRequest _ => 0
  | .clusterAtomicApply _ _ => 0
  | .monitorPoll _ => 0
  | .waitcWake _ => 0
  | .waitcTimeout _ => 0
  | .waitjTimeout _ => 0
  | .fenceComplete _ => 0
  | .scTicketGrant _ => 0
  | .epochEnd _ => 0
  | .orderedApply _ => 0
  | .orderStall _ => 0
  | .replayScStall _ => 0
  | .orderedCellWaitStall _ _ => 0
  | .dirtyWritebackDeadline _ _ => 0
  | .llsUpdate _ => 0
  | .splitBoost _ => 0
  | .yieldPauseEnd _ => 0
  | .quantumEnd _ => 0
  | .temperatureCheck _ _ => 0
  | .thermalMove _ _ => 0
  | .accumulatorGrant _ => 0
  | .pageWalk _ _ _ => 0
  | .agentFaultService _ _ => 0
  | .svcReply _ _ => 0
  | .handlerBudgetSpent _ _ => 0
  | .preemptRequest _ _ => 0
  | .cohortSave _ => 0
  | .cohortRestore _ => 0
  | .eccUncorrectedCell _ _ => 0
  | .csmodeWrite _ _ _ => 0
  | .bankModeChangeDone _ _ => 0
  | .rrcWrite _ _ _ => 0
  | .qcfgWrite _ _ _ => 0
  | .translationInvalidate _ => 0
  | .invalidationComplete => 0
  | .ctxpoolPush _ _ _ => 0
  | .extpoolPush _ _ => 0
  | .hostAppend _ _ _ => 0
  | .hostWindowRead _ _ _ => 0
  | .hostWindowWrite _ _ _ => 0
  | .watchpointWrite _ _ _ _ => 0
  | .clusterStop _ => 0
  | .loupeGo _ => 0
  | .loupeSave _ => 0
  | .loupeStep _ _ => 0
  | .assayLogConfig _ _ _ => 0
  | .faceterLogResume _ => 0
  | .vdStop _ => 0
  | .vdStopDone => 0
  | .vdResume _ => 0
  | .linkLaneForce _ => 0
  | .linkLaneFailure _ _ => 0
  | .linkPortDown _ => 0
  | .linkRequestTimeout _ => 0
  | .attestationRequest _ => 0
  | .cellFence _ => 0
  | .sliceSpare _ => 0
  | .hbmChannelSpare _ => 0
  | .cellFenceLift _ => 0
  | .linkLaneRepair _ => 0
  | .repairComplete => 0
  | .powerLimitReached _ => 0
  | .registerWrite _ _ _ => 0
  | .moduleReset => 0
  | .mainPowerChange _ => 0
  | .mctpControl _ => 0
  | .pldmPlatformMonitor _ => 0
  | .pldmFirmwareUpdate _ _ => 0
  | .aditRegisterRead _ => 0
  | .aditRegisterWrite _ _ => 0
  | .getVersion => 0
  | .getCapabilities => 0
  | .negotiateAlgorithms => 0
  | .getMeasurements _ => 0
  | .vendorDefinedRequest _ _ => 0
  | .chunkGet => 0
  | .encodingNotAnInstruction _ => 0
  | .linkPortUp _ => 0
  | .requestRetry _ _ => 0

end Sys2Proof
end

