-- ==== Sys2Proof/Config.lean ====
section
/-! DEFINITION. What the spec leaves open: constants with no body, so that no proof can see a value of them. -/
namespace Sys2Proof.Config

/-- A free value, by the number of free values drawn before it: what the spec leaves undefined and what it leaves to
timing (log entry 14). -/
opaque freeValue : Nat → BitVec 64

/-- Cell cycles that pass at a step, by the free counter (log entry 2). -/
opaque cycles : Nat → Nat

/-- The boot ROM's bytes, measured by 25 R351. -/
opaque rom : List Byte

/-- The fuses' bytes, the fused SVN included (25 R351). -/
opaque fuses : List Byte

/-- The fused digest of the firmware's public key (25 R349). -/
opaque keyDigest : List Byte

/-- The fused minimum security version (25 R349). -/
opaque fusedSvn : Nat

/-- The fused device secret (25 R351). -/
opaque deviceSecret : List Byte

/-- The randomness of a signature, 32 bytes, by the time at which it is made: FIPS 205 lets the signer choose it (25 R351; log entry
13). -/
opaque signRandom : Nat → List Byte

/-- HBM4 channels that the reserved capacity can take over, a number that the spec does not give (25 R354; log entry 79). -/
opaque channelSpares : Nat

/-- The mean power of the last 10 ms in watts, by the time of the read (25 R337; log entry 80). -/
opaque power : Nat → Nat

/-- The header of an image can be read (25 R349, step 1). -/
opaque imageHeader : List Byte → Bool

/-- Parts of a firmware image, whose header layout the spec does not give (25 R349; log entry 13): the public key. -/
opaque imageKey : List Byte → List Byte

/-- The image's security version (25 R349). -/
opaque imageSvn : List Byte → Nat

/-- The header and body that the signature covers (25 R349). -/
opaque imageSigned : List Byte → List Byte

/-- The signature in the image (25 R349). -/
opaque imageSig : List Byte → List Byte

/-- The entry address at which Headframe core 0 starts (25 R349). -/
opaque imageEntry : List Byte → BitVec 56

/-- The memory that loading the image's body writes (25 R349): local physical addresses and bytes. -/
opaque imageBody : List Byte → List (Nat × Byte)

/-- Which FAIL code a failed boot step records, steps 1 to 4 (25 R349 names the field, not its codes). -/
opaque failCode : Nat → BitVec 8

/-- The DMTF and MCTP bytes that carry an answer, whose formats lie in documents outside the spec (25 R348, R352). -/
opaque replyBytes : Nat → List Byte → List Byte

end Sys2Proof.Config
end

