-- ==== Sys2Proof/Machine/State.lean ====
section
/-! DEFINITION. The state of the module: every register, memory, queue and table that the spec names, as plain data.
Each field's docstring cites the rule that names it. -/
namespace Sys2Proof.Machine

/-- A map by number that lists only entries other than its default, in ascending key order. -/
abbrev Sparse (α : Type) := List (Nat × α)

/-- Memory: one byte per byte key (13 R180). Keys below 2^40 are local physical addresses. -/
abbrev Mem := List Host.Cell

/-- Where a trap or a command's end gets its code (21 Table 21.1). -/
abbrev Code := Nat

/-! ### Splits (05, 11, 15, 21 Table 21.8) -/

/-- What a split waits for (21 Table 21.8, WAIT). -/
inductive Wait where
  | none
  /-- `join`: 11 R160. -/
  | join
  /-- `waitj`: the predicate and the cycles left, 11 R161. -/
  | waitj (pd : BitVec 3) (left : Nat)
  /-- `barc`: 11 R167. -/
  | barc
  /-- `barp`: barrier word and phase ends left, 11 R169. -/
  | barp (off : Nat) (ends : Nat)
  /-- `waitc`: acquire scope, destination and cycles left, 15 R233. -/
  | waitc (scope : Nat) (dst : BitVec 6) (left : Option Nat)
  /-- `chwait`: acquire scope, 17 R262. -/
  | chwait (scope : Nat)
  /-- `svc`: destination of the reply, 21 R313. -/
  | svc (dst : BitVec 6)
  /-- `fence`: scope, 15 R229. -/
  | fence (scope : Nat)
  /-- `xfence`: scope, the first command number after it, and class masks, 15 R230. -/
  | xfence (scope bound : Nat) (before after : BitVec 6)
  /-- `aalloc`: first name and count, 17 R243. -/
  | aalloc (n c : Nat)
  /-- `xpand`: 19 R277. -/
  | xpand
  /-- `recurse`: 19 R285. -/
  | recurse
  deriving DecidableEq, Repr

/-- Why a split could not issue its next word: at an ordered operation that returns a value (13 R211); at an engine or a FIFO claim
(21 Table 21.8, WAIT 6); anything else. -/
inductive Stall where
  | other
  | order
  | engine
  deriving DecidableEq, Repr

/-- The monitor record of a split: NONE, ARMED or FIRED (15 R231). -/
inductive MonState where
  | none
  | armed
  | fired
  deriving DecidableEq, Repr

/-- A split's monitor (15 R231, R232; 21 Table 21.8). -/
structure Monitor where
  st : MonState := .none
  addr : VAddr := 0
  /-- Byte key of the word (13 R192). -/
  key : Nat := 0
  cmp : BitVec 64 := 0
  wide : Bool := false
  cond : BitVec 3 := 0
  /-- Polling mode: the slice had no free monitor (13 R199). -/
  poll : Bool := false
  deriving DecidableEq, Repr

/-- A lookahead window (05 R72, R75; 21 R308). -/
structure Window where
  /-- First destination register and their number, 1, 2 or 4. -/
  dst : BitVec 7
  nreg : Nat
  /-- Instructions left (R72). -/
  left : Nat
  /-- The value is there (R72). -/
  ready : Bool
  /-- Re-issue mark (R75). -/
  re : Bool := false
  word : Word
  pc : VAddr
  pos : BitVec 6
  /-- Issue order among the split's windows (21 Table 21.10). -/
  ord : Nat
  pmask : Word
  /-- It lies below a TRAP entry: open since before the trap whose handler the split runs (05 R75; 21 R296). -/
  under : Bool := false
  /-- Its record stands in the context block of the saved cohort (21 R308). -/
  saved : Bool := false
  /-- Per-lane addresses formed at issue, by lane (21 R308). -/
  addrs : Sparse (BitVec 64) := []
  /-- Returned registers, by 32 × register + lane (21 R308). -/
  vals : Sparse Word := []
  deriving DecidableEq, Repr

/-- A split of a group (11 R148; 21 Table 21.8). -/
structure Split where
  live : Bool := false
  pc : VAddr := 0
  /-- Position within the word (05 R82). -/
  pos : BitVec 6 := 0
  mask : Word := 0
  /-- Not a first split (11 R152). -/
  nfirst : Bool := false
  /-- A handler split (21 R296). -/
  handler : Bool := false
  wait : Wait := .none
  mon : Monitor := {}
  /-- A WAKE entry is reserved for its wait (23 R324). -/
  wakeRsv : Bool := false
  windows : List Window := []
  /-- The hint words read so far, oldest first, and the address of the first (05 R62, R64). -/
  chain : List Word := []
  chainPc : VAddr := 0
  /-- The rebased codes of a pair word being issued (05 R80). -/
  codes : List Word := []
  /-- Issue landed here: it did not just issue the word before (05 R63). -/
  landed : Bool := true
  /-- The time up to which a `yield` or YLD keeps it from being chosen (05 R68, 11 R164). -/
  pauseEnd : Nat := 0
  /-- Boosted after 256 cycles ready without issue (07 R116). -/
  boosted : Bool := false
  /-- It was ready when the halt reached its group, and has been since: it may issue in the group's skid (21 R291). -/
  skids : Bool := false
  /-- Why its latest attempt to issue failed; it counts only while the split stands among those found unable to issue. -/
  why : Stall := .other
  /-- Destination of the reply to a `svc` whose wait a trap ended before the reply came (21 R294, R313). -/
  owed : Option (BitVec 6) := none
  deriving DecidableEq, Repr

/-- Kinds of reconvergence stack entries (11 Table 11.1). -/
inductive EntryKind where
  | join
  | defer
  | trap
  deriving DecidableEq, Repr

/-- A reconvergence stack entry (11 Table 11.1). -/
structure StackEntry where
  kind : EntryKind
  /-- OWNED and OWNER. -/
  owner : Option Nat
  arr : Word := 0
  mask : Word
  pos : BitVec 6
  pc : VAddr
  deriving DecidableEq, Repr

/-- A trap record (21 Table 21.9). -/
structure TrapRec where
  code : Code
  cause : Nat := 0
  split : Nat
  lane : Option Nat := none
  word : Word := 0
  pc : VAddr
  pos : BitVec 6
  rpc : VAddr
  /-- Resume position; it stands in the TRAP entry (Table 21.9). -/
  rpos : BitVec 6
  addr : BitVec 64 := 0
  detail : BitVec 48 := 0
  /-- Sluice item of the lowest faulting lane: owner group, owner lane, inner index (19 R282). -/
  own : Option (Nat × Nat × Word) := none
  /-- Winze item of it: routine and frame (19 R289). -/
  wz : Option (Nat × Word) := none
  hcyc : Nat := 0
  escn : BitVec 8 := 0
  deriving DecidableEq, Repr

/-- A digest context of a lane (23 R328). -/
structure DigestCtx where
  a : BitVec 64
  b : BitVec 64
  d : BitVec 64 := 0
  x : BitVec 64 := 0
  deriving DecidableEq, Repr

/-- The work item of a lane of a Winze group (19 R286): routine 0 divide, 1 base, 2 combine; frame; child. -/
structure WItem where
  rout : Nat
  frame : Nat
  kid : Nat := 0
  /-- `wkids` has been issued for it (R287). -/
  asked : Bool := false
  deriving DecidableEq, Repr

/-- A spawned item (19 R269). -/
structure CradleItem where
  launch : Nat
  entry : Nat
  arg0 : Word
  arg1 : Word
  depth : Nat
  iid : BitVec 64
  /-- `%cut.*` and `%wave` of the spawning lane: cut sequence, origin, extents, volume, wave. -/
  cseq : Nat
  org : List Nat
  ext : List Nat
  vol : Nat
  wave : Nat
  rb : Nat
  scr : Nat
  lcell : Nat
  deriving DecidableEq, Repr

/-- A group (07 R103, R109; 21 R307). -/
structure Group where
  /-- `%group`. -/
  index : Nat
  /-- Group slot of its cell (07 R116). -/
  slot : Nat
  /-- `%role` (Table 7.7). -/
  role : Nat
  /-- Register budget in units of 8 (05 R56). -/
  budget : Nat
  /-- `%valid`. -/
  valid : Word
  /-- Lane identities (07 R95), by lane. -/
  iids : Sparse (BitVec 64)
  /-- Vector registers by 32 × register + lane, scalar registers, predicate masks: 0 unless listed (07 R109). -/
  v : Sparse Word := []
  s : Sparse Word := []
  p : Sparse Word := []
  /-- `%mark` (07 R106). -/
  marks : Word := 0
  splits : List Split
  /-- Reconvergence stack, newest first (11 R149). -/
  stack : List StackEntry := []
  /-- HALT, and the instructions the group still issues after the halt (21 R291). -/
  halt : Bool := false
  left : Nat := 0
  skid : Nat := 0
  /-- The current trap: INH (21 R307). -/
  trap : Option TrapRec := none
  /-- The pending trap: TPEND. -/
  pend : Option TrapRec := none
  /-- The record of a live handler's own trap, while an escalation with cause 7 or 8 stands in the group record (21 R295, R356;
  log entry 58). -/
  kept : Option TrapRec := none
  /-- Traps that wait for the group's current and pending ones, oldest first: ENGINE_FAULT of ended commands, each with the fault
queue entry that takes its place if the group ends before (17 R237). -/
  queued : List (TrapRec × Option (BitVec 256)) := []
  fin : Bool := false
  poison : Bool := false
  /-- Being stepped by the Loupe (23 R320). -/
  stepped : Bool := false
  /-- Handler cycles used before the latest start of the handler, and the time of that start (21 R297). -/
  hcyc : Nat := 0
  hstart : Nat := 0
  /-- Ordered operations issued, by lane (13 R211). -/
  opi : Sparse Nat := []
  /-- SC operations issued, by lane (23 R326). -/
  sci : Sparse Nat := []
  /-- Task items of the lanes (19 R270). -/
  items : Sparse (Option CradleItem) := []
  /-- Winze items of the lanes (19 R286). -/
  wz : Sparse (Option WItem) := []
  /-- Digest contexts: current, and the iteration context suspended by a Sluice item (23 R328). -/
  dg : Sparse (Option DigestCtx) := []
  dgIter : Sparse (Option DigestCtx) := []
  deriving DecidableEq, Repr

/-! ### The Sluice and the Winze (19) -/

/-- An owner of an expansion (19 R277, R278). -/
structure Owner where
  g : Nat
  lane : Nat
  start : Word
  len : Nat
  acc : Option Word := none
  next : Nat := 0
  deriving DecidableEq, Repr

/-- A receiver: items taken from its share, the current item (owner index, inner index) and the value posted. -/
structure Recv where
  g : Nat
  lane : Nat
  taken : Nat := 0
  cur : Option (Nat × Nat) := none
  posted : Option Word := none
  done : Bool := false
  deriving DecidableEq, Repr

/-- An expansion (19 R277). -/
structure Expansion where
  t : Nat
  op : Nat
  k : Nat
  owners : List Owner
  recvs : List Recv
  /-- Closed pairs not yet folded: owner index, inner index, value (R278). -/
  held : List (Nat × Nat × Option Word) := []
  deriving DecidableEq, Repr

/-- A contribution of a member group to a set's next expansion (19 R277). -/
structure Contrib where
  g : Nat
  si : Nat
  k : Nat
  op : Nat
  owners : List Owner
  /-- The `xpand` word that brought it. -/
  word : Word := 0
  deriving DecidableEq, Repr

/-- A co-dealing set (19 R276): the groups with one value of ⌊group / k⌋. -/
structure SluiceSet where
  k : Nat
  first : Nat
  contribs : List Contrib := []
  exp : Option Expansion := none
  deriving DecidableEq, Repr

/-- What a frame of a Winze run awaits (19 R286). -/
inductive Stage where
  | idle
  | divide
  | dividing
  | base
  | basing
  | kids
  | combine
  | combining
  | done
  deriving DecidableEq, Repr

/-- A frame of a Winze run (19 R284, R286; Table 19.6). -/
structure Frame where
  parent : Option Nat
  cidx : Nat
  depth : Nat
  nkid : Nat := 0
  kid0 : Nat := 0
  stage : Stage := .idle
  /-- Next child to combine. -/
  next : Nat := 0
  /-- Worker of the depth-first phase. -/
  worker : Option Nat := none
  /-- The divide has issued `wkids` or ended (R287). -/
  settled : Bool := false
  deriving DecidableEq, Repr

/-- A worker of the depth-first phase (19 R286): stack base, frames in use, roots still to process. -/
structure Worker where
  base : Nat
  used : Nat := 0
  roots : List Nat
  deriving DecidableEq, Repr

/-- A run of the Winze (19 R283 to R289). -/
structure WinzeRun where
  /-- The group and split that issued `recurse`. -/
  gi : Nat
  si : Nat
  /-- The `recurse` word. -/
  word : Word := 0
  div : Nat
  bas : Nat
  cmb : Nat
  fan : Nat
  maxd : Nat
  fsz : Nat
  arena : Nat
  asize : Nat
  gw : Nat
  /-- IID of the lowest lane of Active(split) at `recurse` (23 R328). -/
  iid : BitVec 64
  frames : Sparse (Option Frame)
  /-- B, the next free frame index. -/
  b : Nat := 1
  level : List Nat := [0]
  /-- K of the depth-first phase; none in the breadth-first phase. -/
  df : Option Nat := none
  workers : List Worker := []
  deriving DecidableEq, Repr

/-! ### Cohorts (07, 21) -/

/-- What a cohort is: a cut, a task group, a Headframe core. -/
inductive CohortKind where
  | cut
  | task
  | headframe (core : Nat)
  deriving DecidableEq, Repr

/-- Where a cohort stands (21 R300, R301). -/
inductive Status where
  | resident
  /-- Halted, to be saved: STOP and the escalation's group, if any. -/
  | saving (stop : Nat) (esc : Option Nat)
  | saved (stop : Nat) (esc : Option Nat)
  /-- Finished, its block held by running commands (17 R238). -/
  | held
  deriving DecidableEq, Repr

/-- The counters of 07 Table 7.3. -/
structure Counters where
  s : Nat := 0
  d : Nat := 0
  m : Nat := 0
  h : Nat := 0
  c : Nat := 0
  deriving DecidableEq, Repr

/-- An arrival log entry (13 Table 13.9): stamp, wake or barrier arrival, parity, target; and the command and split it
concerns. -/
structure Arrival where
  stamp : Nat
  wake : Bool
  q : Bool
  target : Nat
  gi : Nat := 0
  si : Nat := 0
  deriving DecidableEq, Repr

/-- A cohort: resident, saved, or held (07 R103 to R110; 21 R305, R306). -/
structure Cohort where
  id : Nat
  /-- Launch number (07 R104); none for a Headframe core. -/
  launch : Option Nat
  kind : CohortKind
  /-- The launch header (07 Table 7.1); 0 for a Headframe core. -/
  hdr : BitVec 1024
  root : Root
  ltag : BitVec 16 := 0
  /-- `%cut.die`, `%lcell`, `%cut.seq`; for a task group the dispatch number (Table 21.6). -/
  die : Nat
  lcell : Nat
  cseq : Nat
  /-- `%cut.org`, `%cut.ext`, `%cut.vol`, `%wave` (Table 7.7). -/
  org : List Nat
  ext : List Nat
  vol : Nat
  wave : Nat
  /-- `%cohort.groups`. -/
  ngroups : Nat
  groups : List Group
  /-- Scratch: Z bytes, contents, granules by bank (13 R178, R183). -/
  z : Nat
  scratch : Sparse Byte := []
  /-- 32-byte sectors of the scratch window that hold an uncorrectable error (21 R295; log entry 59). -/
  badScr : List Nat := []
  grans : List (Nat × Nat) := []
  /-- `%tvec` (21 R296). -/
  tvec : Word := 0
  /-- Tensor identifier table (17 R240); 0 marks an invalid entry. -/
  ttab : Sparse (BitVec 512) := []
  /-- AHELD and the handles: elements by (name × 4096 + 64 r + c), m and l by (64 name + r) (17 R243). -/
  aheld : Word := 0
  accE : Sparse Word := []
  accM : Sparse Word := []
  accL : Sparse Word := []
  ctr : Counters := {}
  epoch : Nat := 0
  sets : List SluiceSet := []
  run : Option WinzeRun := none
  /-- Runs that wait for the one in progress to end, oldest first (19 R285). -/
  queued : List WinzeRun := []
  /-- FIFO banks claimed (17 R245). -/
  fifos : List Nat := []
  /-- Context block address and class (21 R305). -/
  ctx : VAddr := 0
  cls : Nat := 0
  status : Status := .resident
  /-- Barrier words at which a command has arrived: completion words (17 R239; 13 R210). -/
  cmdWords : List Nat := []
  /-- ASTAMP and the arrival log (13 R200). -/
  astamp : Nat := 0
  alog : List Arrival := []
  /-- Time at which it became resident (07 R118, R120). -/
  since : Nat := 0
  /-- Physical cell that its latest save left (23 Table 23.6). -/
  leftCell : Nat := 0
  deriving DecidableEq, Repr

/-! ### Launches, chains and commands (07, 17) -/

/-- A box of the iteration space: origin and extents. -/
structure Box where
  org : List Nat
  ext : List Nat
  deriving DecidableEq, Repr

/-- A die's share of a launch (07 R96, R102, R105 to R108). -/
structure Share where
  die : Nat
  /-- Lowest coordinate b_j and extent in dimension n−1. -/
  base : Nat
  len : Nat
  shape : List Nat := []
  order : Nat := 0
  tiles : List Box := []
  /-- Boxes dispatched so far, share coordinates. -/
  cuts : List Box := []
  cseq : Nat := 0
  /-- Dispatched and unfinished cohorts; (h, m) of those that have finished since the last window end, oldest first (R107). -/
  running : Nat := 0
  hm : List (Nat × Nat) := []
  /-- Sums of the counters that its finished cohorts returned (R105). -/
  returned : Counters := {}
  /-- The first window has ended (R107). -/
  open_ : Bool := false
  /-- Buckets with EXE and without ALL, by dimension × 1024 + bucket (R106). -/
  exe : Sparse Bool := []
  notAll : Sparse Bool := []
  /-- Cohorts of the wave that have not finished (R111). -/
  wave : Nat := 0
  /-- Numbered cuts of an ORDERED launch that wait for their cell, with their V(S) (R114). -/
  waiting : List (Nat × Box × Nat) := []
  /-- Entries of RLOGB read so far, in a REPLAY launch (23 R325). -/
  replay : Nat := 0
  /-- The share is stopped (07 R115; 23 R325). -/
  stopped : Bool := false
  deriving DecidableEq, Repr

/-- A launch that has started (07 R97 to R115). -/
structure Launch where
  num : Nat
  hdr : BitVec 1024
  haddr : VAddr
  root : Root
  ltag : BitVec 16
  /-- Node: index in `State.nodes`; none for a device-side launch. -/
  node : Option Nat
  /-- Issuing die and completion record of a device-side launch (19 R274, R275). -/
  die : Nat := 0
  crec : VAddr := 0
  /-- The number under which a device-side launch completes, as a command does (19 R275). -/
  cid : Option Nat := none
  shares : List Share
  /-- Digest slot (23 R327); re-execution mask and whether it is running (23 R331). -/
  dslot : Option Nat := none
  rerun : Option (BitVec 64) := none
  /-- STATUS, CODE, DETAIL when it has completed or ended (17 Table 17.11). -/
  result : Option (Nat × Code × BitVec 48) := none
  /-- Task groups dispatched (19 R270; 21 Table 21.6). -/
  tasks : Nat := 0
  /-- SC operations granted in a REPLAY launch: IID and index (23 R326). -/
  granted : List (BitVec 64 × Nat) := []
  deriving DecidableEq, Repr

/-- A chain that a walker knows (17 R258, R260; 01 R18). -/
structure Chain where
  ccb : VAddr
  root : Root
  /-- Function and slot whose HCCBj names it; none: a Faceter walks it. -/
  slot : Option (Nat × Nat)
  deriving DecidableEq, Repr

/-- A node that its walker has read (17 R260). -/
structure Node where
  chain : Nat
  addr : VAddr
  entry : BitVec 512
  started : Bool := false
  /-- STATUS, CODE, DETAIL of its completion. -/
  result : Option (Nat × Code × BitVec 48) := none
  /-- Its record has been written, or waits for a Headframe core (13 R357). -/
  recorded : Bool := false
  published : Bool := false
  deriving DecidableEq, Repr

/-- Engine classes (13 R210). -/
inductive Engine where
  | matrix
  | copy
  | gather
  | coll
  deriving DecidableEq, Repr

/-- An engine command (17 R236 to R239, R263). -/
structure Cmd where
  id : Nat
  eng : Engine
  /-- fn6, or the `mloop` variant. -/
  fn : Nat
  /-- Issuer: cohort and group; none for a command node. -/
  co : Option Nat
  gi : Nat := 0
  launch : Option Nat
  node : Option Nat := none
  root : Root
  iid : BitVec 64 := 0
  pc : VAddr := 0
  pos : BitVec 6 := 0
  word : Word := 0
  si : Nat := 0
  /-- Images of the scalar registers read at issue. -/
  p0 : Word := 0
  p1 : Word := 0
  /-- Copies of the tensor entries: destination or A, source or B, index. -/
  td : BitVec 512 := 0
  ts : BitVec 512 := 0
  tx : BitVec 512 := 0
  /-- Accumulator and O handles; the group table of `.grp`, (first row, rows, g). -/
  acc : Nat := 0
  oh : Nat := 0
  grp : List (Nat × Nat × Nat) := []
  /-- Group descriptor address and n of the n-th collective on it (17 R256). -/
  gdesc : VAddr := 0
  crec : VAddr := 0
  /-- Progress register (Table 17.12). -/
  prog : BitVec 48 := 0
  /-- Elements of a copy written beyond the progress count (17 R254). -/
  ahead : List Nat := []
  /-- Stopped by a save or a fault (R237, R238). -/
  stopped : Bool := false
  /-- The fault it stopped on: code and address (R237). -/
  fault : Option (Code × BitVec 64) := none
  /-- The stamp under which its arrival stands in its saved cohort's arrival log (17 R238; 13 R200). -/
  logged : Option Nat := none
  /-- Its work is done; it awaits its completion. -/
  done : Bool := false
  deriving DecidableEq, Repr

/-! ### Memory-side state (13) -/

/-- A byte of a cluster cache line: its value, and when dirty the number of the virtual device that stored it, plus 1, or 0 for none
(13 R182, 25 R343). -/
structure CByte where
  v : Byte
  dirty : Option Nat := none
  deriving DecidableEq, Repr

/-- A line of a cluster cache: line key (byte key / 128), the cell that brought it in, bytes present (13 R182). -/
structure Line where
  key : Nat
  cell : Nat
  /-- Time of the oldest write among its dirty bytes (13 R182). -/
  since : Nat := 0
  bytes : Sparse (Option CByte) := []
  deriving DecidableEq, Repr

/-- A translation cache entry (13 R193). -/
structure TlbEntry where
  root : Root
  base : Nat
  size : Nat
  entry : BitVec 64
  deriving DecidableEq, Repr

/-- A FIFO bank: owner and entries, oldest first (13 R184). -/
structure Fifo where
  owner : Option Nat := none
  entries : List (List Byte) := []
  deriving DecidableEq, Repr

/-- A cluster: cache, translation cache, FIFO banks, granules in use by bank, bank changes under way (13). -/
structure Cluster where
  lines : List Line := []
  tlb : List TlbEntry := []
  fifo : Sparse (Option Fifo) := []
  grans : Sparse Nat := []
  change : List (Nat × Nat) := []
  /-- Time at which STOPPED was set (23 R318). -/
  stopAt : Nat := 0
  deriving DecidableEq, Repr

/-- The unit configuration of a cell (07 R118): dictionary, the root it is read under, and its entries (05 R79), role map and budgets,
LENS. -/
structure UnitCfg where
  root : Root
  dictb : VAddr
  dict : List Word := []
  roles : BitVec 40
  lens : Bool
  deriving DecidableEq, Repr

/-- A physical cell (07 R116 to R121). -/
structure Cell where
  /-- Victim tags, oldest first. -/
  vtags : List Nat := []
  lls : Nat := 0
  /-- Victim hits and memory instructions: of the running 256 cycles, and of the last 4,096, newest first. -/
  h : Nat := 0
  m : Nat := 0
  hist : List (Nat × Nat) := []
  cfg : Option UnitCfg := none
  temp : Nat := 0
  /-- Time at which the quantum started, and its length in microseconds, 0 for one that never ends (R118, R121). -/
  quantum : Nat := 0
  qlen : Nat := 0
  /-- It was switched to its configuration and takes the cohorts that wait with it first (R118). -/
  due : Bool := false
  /-- The launch to whose configuration it is switched once its cohorts are saved (R118). -/
  switch : Option Nat := none
  /-- Time of the latest update of LLS (07 R117). -/
  llsAt : Nat := 0
  deriving DecidableEq, Repr

/-- What a home slice keeps of a source (13 R198): last sequence, the last 16 results, requests ahead of their turn. -/
structure SliceRec where
  slice : Nat
  src : Nat
  last : BitVec 32 := 0
  results : List (BitVec 32 × BitVec 64) := []
  early : List SliceReq := []
  deriving DecidableEq, Repr

/-- An SC operation that waits for its ticket (13 R208). -/
structure ScOp where
  sys : Bool
  who : Who
  launch : Option Nat
  die : Nat
  lane : Nat
  iid : BitVec 64
  idx : Nat
  key : Nat
  vd : Nat
  op : Nat
  d : BitVec 64
  x : BitVec 64
  /-- Order of the window it fills, and its first register. -/
  ord : Nat
  dst : BitVec 7
  /-- The unit whose request it is (13 R198). -/
  src : Nat := 0
  /-- A TICKET entry is reserved for it (23 R324). -/
  rsv : Bool := false
  deriving DecidableEq, Repr

/-- An ordered operation that is held (13 R211). -/
structure OrdOp where
  launch : Nat
  k : Nat
  e : Nat
  g : Nat
  lane : Nat
  i : Nat
  who : Who
  die : Nat
  iid : BitVec 64
  scIdx : Nat
  va : VAddr
  key : Nat
  vd : Nat
  op : Nat
  sys : Bool
  d : BitVec 64
  x : BitVec 64
  ord : Nat
  dst : BitVec 7
  /-- The unit whose request it is (13 R198). -/
  src : Nat := 0
  /-- TICKET and RED entries are reserved for it (23 R324). -/
  rsv : Bool := false
  rsvRed : Bool := false
  deriving DecidableEq, Repr

/-- An access of an agent that a Headframe core can have to serve (13 R357). -/
inductive AgentAct where
  /-- A walker's access for chain k, made again by the walker itself. -/
  | walker (k : Nat)
  /-- A successor decrement (17 R260). -/
  | decr (va : VAddr)
  /-- A completion record (17 Table 17.11): SEQ := seq, or SEQ + 1; bytes 8 to 15 when given. -/
  | record (va : VAddr) (seq : Option (BitVec 64)) (hi : Option (BitVec 64))
  /-- A fault queue's COUNT addition, and the entry that follows it (17 R265). -/
  | count (q : VAddr) (entry : BitVec 256)
  | entry (va : VAddr) (entry : BitVec 256)
  /-- An HTAILj append (25 R340): function, slot, entry. -/
  | append (f j : Nat) (e : VAddr)
  deriving DecidableEq, Repr

/-- An access that waits for a Headframe core. -/
structure AgentWait where
  act : AgentAct
  root : Root
  va : VAddr
  code : Code
  deriving DecidableEq, Repr

/-- A registered stream (23 R333). -/
structure Stream where
  launch : Nat
  seed : Word
  lo : Word
  hi : Word
  deriving DecidableEq, Repr

/-- A signal to the Headframe cores: a system trap or service request (07 R114, R115; 13 R357; 21 R302, R303, R313; 23). -/
inductive Signal where
  | walker (ccb : VAddr)
  | agentFault (va : VAddr) (code : Code)
  /-- Cohort, group, cause; with cause 3 the trap that the handler met (log entry 46). -/
  | escalation (co gi cause : Nat) (met : Option TrapRec := none)
  | commandFault (cmd : Nat)
  | restoreRefused (ctx : VAddr)
  | svc (w : Who) (n : BitVec 10) (arg : BitVec 64) (lhdr : VAddr) (iid : BitVec 64)
  | noLens (launch : Nat)
  | orderedWait (launch die : Nat)
  | replayStop (launch die : Nat)
  | logStall (die : Nat)
  | digestMismatch (launch : Nat) (detail : BitVec 48)
  | loupe (co gi : Nat)
  | configuration (cell : Nat)
  deriving DecidableEq, Repr

/-- An MSI-X message (25 R341). -/
structure Msi where
  f : Nat
  vector : BitVec 6
  /-- Data bits [15:0] replaced by SEQ[15:0] (SQD). -/
  seq : Option (BitVec 16)
  deriving DecidableEq, Repr

/-- Error codes of the SPDM responder (25 R352). -/
inductive SpdmError where
  | invalidRequest
  | unexpectedRequest
  | largeResponse
  deriving DecidableEq, Repr

/-- A message that the Adit port sends (25 R348, R352). -/
inductive AditMsg where
  | register (v : BitVec 64)
  /-- The versions of SPDM answered (major, minor). -/
  | version (of : List (Nat × Nat))
  /-- MEAS_CAP, and CHUNK_CAP, CERT_CAP, CHAL_CAP, KEY_EX_CAP, PSK_CAP, MEAS_FRESH_CAP. -/
  | capabilities (meas : Nat) (chunk cert chal keyEx psk fresh : Bool)
  /-- The DMTF measurement specification, "raw bit stream only", and the base asymmetric and hash algorithms selected. -/
  | algorithms (dmtf raw : Bool) (asym hash : Option Nat)
  | measurements (blocks : List (Nat × Nat × List Byte))
  | error (e : SpdmError)
  | report (bytes : List Byte)
  | chunk (n : Nat) (bytes : List Byte) (last : Bool)
  | other (bytes : List Byte)
  deriving DecidableEq, Repr

/-- A repair action under way (25 R354). -/
structure Repair where
  kind : Nat
  index : Nat
  deriving DecidableEq, Repr

/-- The state of the module. -/
structure State where
  /-- Memory (13 R180). -/
  mem : Mem
  /-- 32-byte sectors, by byte key / 32, whose data hold an uncorrectable error (21 R295; log entry 59). -/
  bad : List Nat
  /-- Registers of the register region by offset (25 R336); unlisted: the reset value. -/
  regs : Sparse (BitVec 64)
  /-- Root in force of each virtual device: VDROOTn as of the last invalidation that named it (25 R342). -/
  roots : Sparse (BitVec 64)
  clusters : Sparse Cluster
  cells : Sparse Cell
  /-- Translation caches of the gather units, die 0 to 3, and of the collective engine, number 4 (13 R193). -/
  tlbs : Sparse (List TlbEntry)
  cohorts : List Cohort
  nextCohort : Nat
  launches : List Launch
  /-- The launch number counter (07 R104). -/
  nextLaunch : Nat
  /-- Device-side launches sent and not yet accepted (19 R274): the launch, shares not yet formed. -/
  offers : List Launch
  chains : List Chain
  nodes : List Node
  cmds : List Cmd
  nextCmd : Nat
  /-- Cradles: items by die, oldest first (19 R269, R270). -/
  cradle : Sparse (List CradleItem)
  /-- Task groups released by age: die, launch, entry (19 R270). -/
  aged : List (Nat × Nat × Nat)
  slices : List SliceRec
  /-- Sequences sent, by slice × 2^23 + source (13 R198). -/
  sent : Sparse (BitVec 32)
  sc : List ScOp
  /-- Tickets granted: device and system scope (13 R208). -/
  ticketDev : Nat
  ticketSys : Nat
  ords : List OrdOp
  waits : List AgentWait
  streams : List Stream
  /-- Logical cell map: physical cell of each logical cell (01 R10, 25 R355). -/
  lmap : List Nat
  fenced : List Nat
  /-- Physical cells above the threshold at their latest check (07 R120, R121). -/
  hot : List Nat
  /-- Spare slices used by die; slices replaced (01 R12, 25 R354). -/
  spares : List Nat
  /-- HBM4 channels whose pages were moved (25 R354). -/
  channels : List Nat
  repairs : List Repair
  /-- Virtual devices stopped for migration, and stopped command nodes (25 R344). -/
  vdstopped : List Nat
  /-- Main power (25 R348). -/
  power : Bool
  /-- Flash: the image it holds, and whether its writing has not ended; the image that runs (25 R349, R350). -/
  flash : List Byte
  flashPart : Bool
  image : List Byte
  /-- Caswin's certificate of the identity public key, in flash outside the image (25 R351; log entry 13). -/
  cert : List Byte
  /-- SPDM responder: a response being sent in chunks, its chunk size and next number (25 R352). -/
  chunks : Option (List Byte × Nat × Nat)
  adit : List AditMsg
  msix : List Msi
  /-- Data of the latest completed host read through BAR2 (25 R338). -/
  hostData : List Byte
  signals : List Signal
  /-- MODEL'S OWN (log entry 1): events to happen next, the split that issues next, the issuing split, splits found
  unable to issue since the last change. -/
  agenda : List Instr
  pick : Option Who
  focus : Option Who
  stalled : List Who
  /-- MODEL'S OWN (log entry 2): cell cycles since module reset. -/
  time : Nat
  /-- MODEL'S OWN (log entry 2): the cycles before this one are over: no later issue falls in them. -/
  after : Nat
  /-- Cycles that a ready split has not been issued for, 0 unless listed (07 R116). -/
  starve : List (Who × Nat)
  /-- MODEL'S OWN (log entry 14): free values drawn. -/
  free : Nat
  deriving DecidableEq, Repr

/-- Why the machine stops. -/
inductive Fault where
  /-- A word was given to `exec` in a state with no issuing split (no focus, or a focus that names no live split). Raised
  by `exec` alone; `step` always sets a focus that exists. Safe: nothing is claimed of such a state. -/
  | noIssuer
  deriving DecidableEq, Repr

/-- Why an instruction has no meaning. -/
inductive Refusal where
  /-- No meaning yet. Raised by an arm of `exec`. Safe. -/
  | notModelled (mnemonic : String)
  deriving DecidableEq, Repr

/-- The module right after reset (each field's value: INVENTORY.md, '## State'). -/
def State.reset : State where
  mem := []
  bad := []
  regs := []
  roots := []
  clusters := []
  cells := []
  tlbs := []
  cohorts := []
  nextCohort := 0
  launches := []
  nextLaunch := 0
  offers := []
  chains := []
  nodes := []
  cmds := []
  nextCmd := 0
  cradle := []
  aged := []
  slices := []
  sent := []
  sc := []
  ticketDev := 0
  ticketSys := 0
  ords := []
  waits := []
  streams := []
  lmap := List.range 512
  fenced := []
  hot := []
  spares := []
  channels := []
  repairs := []
  vdstopped := []
  power := true
  flash := []
  flashPart := false
  image := []
  cert := []
  chunks := none
  adit := []
  msix := []
  hostData := []
  signals := []
  agenda := []
  pick := none
  focus := none
  stalled := []
  time := 0
  after := 0
  starve := []
  free := 0

end Sys2Proof.Machine
end

