-- ==== Sys2Proof/Machine/Ops.lean ====
section
/-! DEFINITION. Named operations over registers, memory, translation, windows and traps, and the one driver `issue` that
every instruction word goes through. -/
namespace Sys2Proof.Machine

/-! ### Maps, bits and byte order -/

/-- The value at a key; `d` where the map lists none. -/
def Sparse.get {α : Type} (d : α) : Sparse α → Nat → α
  | [], _ => d
  | (k, v) :: t, i => if i = k then v else if i < k then d else Sparse.get d t i

/-- Set a key, keeping keys ascending and no entry equal to the default. -/
def Sparse.set {α : Type} [DecidableEq α] (d : α) : Sparse α → Nat → α → Sparse α
  | [], i, v => if v = d then [] else [(i, v)]
  | (k, w) :: t, i, v =>
    if i < k then (if v = d then (k, w) :: t else (i, v) :: (k, w) :: t)
    else if i = k then (if v = d then t else (i, v) :: t)
    else (k, w) :: Sparse.set d t i v

/-- Keys ascend above `lo`, and no entry equals the default. -/
def Sparse.wfFrom {α : Type} [DecidableEq α] (d : α) : Nat → Sparse α → Bool
  | _, [] => true
  | lo, (k, v) :: t => decide (lo ≤ k) && decide (v ≠ d) && Sparse.wfFrom d (k + 1) t

/-- The canonical form. -/
def Sparse.wf {α : Type} [DecidableEq α] (d : α) (m : Sparse α) : Bool := Sparse.wfFrom d 0 m

/-- Keys ascend from `lo` on. -/
def Sparse.rises {α : Type} : Nat → Sparse α → Bool
  | _, [] => true
  | lo, (k, _) :: t => decide (lo ≤ k) && Sparse.rises (k + 1) t

/-- What a byte of memory that nothing has written reads as (DESIGN CHOICE, log entry 3; unsafe). -/
def memDefault : Byte := 0

/-- The canonical form of memory. -/
def Memory.wf (m : Mem) : Bool := Sparse.wf memDefault m

/-- One byte of memory at its home (13 R204). -/
def Memory.read (m : Mem) (key : Nat) : Byte := Sparse.get memDefault m key

/-- Write one byte. -/
def Memory.write (m : Mem) (key : Nat) (b : Byte) : Mem := Sparse.set memDefault m key b

/-- Bits `[lo + len - 1 : lo]` of a bit vector, as a number (00 R2). -/
def bits {n : Nat} (x : BitVec n) (lo len : Nat) : Nat := x.toNat / 2 ^ lo % 2 ^ len

/-- A one-bit field. -/
def bit {n : Nat} (x : BitVec n) (i : Nat) : Bool := x.getLsbD i

/-- Put a field of `len` bits at `lo`. -/
def putBits {n : Nat} (x : BitVec n) (lo len v : Nat) : BitVec n :=
  BitVec.ofNat n (x.toNat - bits x lo len * 2 ^ lo + v % 2 ^ len * 2 ^ lo)

/-- The `w`-bit two's complement value of a number below 2^w. -/
def signedOf (w x : Nat) : Int := if 2 * (x % 2 ^ w) < 2 ^ w then (x % 2 ^ w : Nat) else (x % 2 ^ w : Nat) - (2 ^ w : Nat)

/-- Clamp to the signed range of `w` bits (03 R25, 09 R131). -/
def satS (w : Nat) (x : Int) : Int := max (-(2 ^ (w - 1) : Nat)) (min x ((2 ^ (w - 1) : Nat) - 1))

/-- The lowest `n` bytes of a number, least significant first (00 R3). -/
def bytesOf : Nat → Nat → List Byte
  | 0, _ => []
  | n + 1, x => BitVec.ofNat 8 x :: bytesOf n (x / 256)

/-- The number that bytes hold, least significant first (00 R3). -/
def ofBytes : List Byte → Nat
  | [] => 0
  | b :: t => b.toNat + 256 * ofBytes t

/-- Lexicographic order. -/
def natsLt : List Nat → List Nat → Bool
  | [], [] => false
  | [], _ => true
  | _, [] => false
  | a :: s, b :: t => if a < b then true else if a = b then natsLt s t else false

/-- Sort by a key, stable. -/
def insertKey {α : Type} (key : α → List Nat) (x : α) : List α → List α
  | [] => [x]
  | y :: l => if natsLt (key x) (key y) then x :: y :: l else y :: insertKey key x l

def sortKey {α : Type} (key : α → List Nat) (l : List α) : List α := l.foldl (fun a x => insertKey key x a) []

/-- The lanes of a mask, ascending (00 R7). -/
def lanesOf (m : Word) : List Nat := (List.range 32).filter fun l => m.getLsbD l

/-- The mask of a list of lanes. -/
def maskOf (ls : List Nat) : Word := ls.foldl (fun m l => m ||| (1 <<< l)) 0

/-- The lanes at which `f` holds, among those of a mask. -/
def maskIf (m : Word) (f : Nat → Bool) : Word := maskOf ((lanesOf m).filter f)

/-- Fixed-width pieces of the free values (log entry 14). -/
def freeWord (n i : Nat) : Word := (Config.freeValue (64 * n + i)).truncate 32

/-! ### Cohorts, groups, splits -/

def State.cohort? (s : State) (id : Nat) : Option Cohort := s.cohorts.find? fun c => c.id == id

def State.updCo (s : State) (id : Nat) (f : Cohort → Cohort) : State :=
  { s with cohorts := s.cohorts.map fun c => if c.id = id then f c else c }

def Cohort.updGr (c : Cohort) (gi : Nat) (f : Group → Group) : Cohort := { c with groups := c.groups.modify gi f }

def Group.updSp (g : Group) (si : Nat) (f : Split → Split) : Group := { g with splits := g.splits.modify si f }

def State.updGr (s : State) (w : Who) (f : Group → Group) : State := s.updCo w.co fun c => c.updGr w.gi f

def State.updSp (s : State) (w : Who) (f : Split → Split) : State := s.updGr w fun g => g.updSp w.si f

def State.group? (s : State) (co gi : Nat) : Option Group := (s.cohort? co).bind fun c => c.groups[gi]?

def State.split? (s : State) (w : Who) : Option Split := (s.group? w.co w.gi).bind fun g => g.splits[w.si]?

def State.launch? (s : State) (n : Nat) : Option Launch := s.launches.find? fun l => l.num == n

def State.updLaunch (s : State) (n : Nat) (f : Launch → Launch) : State :=
  { s with launches := s.launches.map fun l => if l.num = n then f l else l }

def Launch.share? (l : Launch) (die : Nat) : Option Share := l.shares.find? fun x => x.die == die

def Launch.updShare (l : Launch) (die : Nat) (f : Share → Share) : Launch :=
  { l with shares := l.shares.map fun x => if x.die = die then f x else x }

def State.cluster (s : State) (k : Nat) : Cluster := Sparse.get {} s.clusters k

def State.updCluster (s : State) (k : Nat) (f : Cluster → Cluster) : State :=
  { s with clusters := Sparse.set {} s.clusters k (f (s.cluster k)) }

def State.cell (s : State) (c : Nat) : Cell := Sparse.get {} s.cells c

def State.updCell (s : State) (c : Nat) (f : Cell → Cell) : State :=
  { s with cells := Sparse.set {} s.cells c (f (s.cell c)) }

/-- The physical cell of a logical cell (01 R10). -/
def State.pcell (s : State) (lcell : Nat) : Nat := s.lmap.getD lcell lcell

def Cohort.isHF (c : Cohort) : Bool := match c.kind with
  | .headframe _ => true
  | _ => false

/-- The cluster a cohort is on; a Headframe core is on none (01 R11). -/
def State.clusterOf (s : State) (c : Cohort) : Option Nat := if c.isHF then none else some (s.pcell c.lcell / 8)

/-- Draw a free value (log entry 14). -/
def State.draw (s : State) : Nat × State := ((Config.freeValue s.free).toNat, { s with free := s.free + 1 })

def State.signal (s : State) (g : Signal) : State := { s with signals := s.signals ++ [g] }

/-! ### The launch header (07 Table 7.1) -/

def hf (h : BitVec 1024) (lo len : Nat) : Nat := bits h lo len

def hNdim (h : BitVec 1024) : Nat := hf h 0 3
def hCoop (h : BitVec 1024) : Bool := bit h 3
def hLens (h : BitVec 1024) : Bool := bit h 4
def hOrdered (h : BitVec 1024) : Bool := bit h 5
def hReplay (h : BitVec 1024) : Bool := bit h 6
def hShrs (h : BitVec 1024) : Bool := bit h 7
def hPrio (h : BitVec 1024) : Nat := hf h 8 2
def hDict (h : BitVec 1024) : Bool := bit h 10
def hStrm (h : BitVec 1024) : Bool := bit h 11
def hDmask (h : BitVec 1024) : Nat := hf h 12 4
def hWin (h : BitVec 1024) : Nat := hf h 32 8
def hEntry (h : BitVec 1024) : Nat := hf h 64 56
def hWid (h : BitVec 1024) (i : Nat) : Nat := hf h (192 + 7 * i) 7
/-- o_i of 07 R95. -/
def hOff (h : BitVec 1024) (i : Nat) : Nat := ((List.range i).map (hWid h)).sum
/-- Σ w_i. -/
def hSigma (h : BitVec 1024) : Nat := hOff h (hNdim h)
/-- E_i, from EXTM. -/
def hExt (h : BitVec 1024) (i : Nat) : Nat := hf h 128 64 / 2 ^ hOff h i % 2 ^ hWid h i + 1
def hOrd (h : BitVec 1024) (k : Nat) : Nat := hf h (234 + 3 * k) 3
/-- log2 of c_i and of C_i. -/
def hEnvLo (h : BitVec 1024) (i : Nat) : Nat := hf h (256 + 8 * i) 4
def hEnvHi (h : BitVec 1024) (i : Nat) : Nat := hf h (260 + 8 * i) 4
def hHalo (h : BitVec 1024) (i : Nat) : Nat := hf h (320 + 8 * i) 8
def hStr (h : BitVec 1024) (i : Nat) : Int := signedOf 32 (hf h (384 + 32 * i) 32)
def hRb (h : BitVec 1024) : Nat := hf h 640 5
def hNcopy (h : BitVec 1024) : Nat := hf h 660 5
def hNmat (h : BitVec 1024) : Nat := hf h 665 5
def hNepi (h : BitVec 1024) : Nat := hf h 670 5
/-- a + b + c of 07 R97. -/
def hRoles (h : BitVec 1024) : Nat := hNcopy h + hNmat h + hNepi h
def hSeed (h : BitVec 1024) : Nat := hf h 704 32
def hClo (h : BitVec 1024) : Nat := hf h 768 32
def hChi (h : BitVec 1024) : Nat := hf h 800 32
def hArgs (h : BitVec 1024) : Nat := hf h 832 56
def hDictb (h : BitVec 1024) : Nat := hf h 896 56
def hFltq (h : BitVec 1024) : Nat := hf h 960 56

/-- The scratch footprint F + P × Π(C_i + 2 h_i) (07 R109). -/
def hFootprint (h : BitVec 1024) : Nat :=
  hf h 576 32 + hf h 608 16 * ((List.range (hNdim h)).map fun i => 2 ^ hEnvHi h i + 2 * hHalo h i).prod

/-- The budget of a role (07 R97): 0 means RB. -/
def hBudget (h : BitVec 1024) (role : Nat) : Nat :=
  let b := if role = 1 then hf h 645 5 else if role = 2 then hf h 650 5 else if role = 3 then hf h 655 5 else 0
  if b = 0 then hRb h else b

/-- The launch of a cohort is ORDERED (13 R211). -/
def Cohort.ordered (c : Cohort) : Bool := !c.isHF && hOrdered c.hdr

/-- KB: ENTRY of the launch header, 0 on a Headframe core (11 R156). -/
def Cohort.kb (c : Cohort) : Nat := if c.isHF then 0 else hEntry c.hdr

/-! ### Registers -/

def Group.getV (g : Group) (r l : Nat) : Word := Sparse.get 0 g.v (32 * r + l)

def Group.setV (g : Group) (r l : Nat) (x : Word) : Group := { g with v := Sparse.set 0 g.v (32 * r + l) x }

/-- Write one vector register in some lanes; other lanes keep it (09 R126). -/
def Group.writeV (g : Group) (ls : List Nat) (r : Nat) (f : Nat → Word) : Group :=
  ls.foldl (fun g l => g.setV r l (f l)) g

def Group.getS (g : Group) (r : Nat) : Word := Sparse.get 0 g.s r

def Group.setS (g : Group) (r : Nat) (x : Word) : Group := { g with s := Sparse.set 0 g.s r x }

/-- A 64-bit value in an even-odd pair of vector or scalar registers (03 Table 3.1). -/
def Group.getV2 (g : Group) (r l : Nat) : BitVec 64 := g.getV (r + 1) l ++ g.getV r l

def Group.setV2 (g : Group) (r l : Nat) (x : BitVec 64) : Group :=
  (g.setV r l (x.extractLsb' 0 32)).setV (r + 1) l (x.extractLsb' 32 32)

def Group.getS2 (g : Group) (r : Nat) : BitVec 64 := g.getS (r + 1) ++ g.getS r

def Group.setS2 (g : Group) (r : Nat) (x : BitVec 64) : Group :=
  (g.setS r (x.extractLsb' 0 32)).setS (r + 1) (x.extractLsb' 32 32)

/-- A predicate as a lane mask; `p7` reads true (09 R136). -/
def Group.getP (g : Group) (p : Nat) : Word := if p = 7 then BitVec.allOnes 32 else Sparse.get 0 g.p p

/-- Write a predicate in the lanes of a mask; 7 writes none (05 R55). -/
def Group.setP (g : Group) (p : Nat) (m x : Word) : Group :=
  if p = 7 then g else { g with p := Sparse.set 0 g.p p ((g.getP p &&& ~~~m) ||| (x &&& m)) }

/-- Registers of a lane-major value: byte j of an access is byte j mod 4 of register d + ⌊j / 4⌋ (15 R218). -/
def Group.regBytes (g : Group) (d l n : Nat) : List Byte :=
  (List.range n).map fun j => BitVec.ofNat 8 ((g.getV (d + j / 4) l).toNat / 256 ^ (j % 4))

/-! ### Registers of the register region: values (25 R336) -/

/-- Reset values of the registers (25 Table 25.1 and the tables it names; log entry 11 where none is printed). -/
def regReset (off : Nat) : BitVec 64 :=
  if off = 0 then 0x4B56014802020000#64
  else if off = 0x0E00 then 1
  else if off = 0x0F00 then 2600
  else if 0x10_0000 ≤ off ∧ off < 0x14_0000 then
    (if off % 0x1_0000 = 0x0330 then 1048576 else if off % 0x1_0000 = 0x0360 then 10000
     else if off % 0x1_0000 = 0x0368 then 1520 else 0)
  else if 0x20_0000 ≤ off ∧ off < 0x60_0000 then
    (if off % 0x1_0000 = 0x0008 then 0x5555555555555555#64 else 0)
  else if 0x80_0000 ≤ off ∧ off < 0xA0_0000 then
    (if off % 0x1000 = 0 ∨ off % 0x1000 = 8 then 0x0000000001000040#64
     else if off % 0x1000 = 16 ∨ off % 0x1000 = 24 then 0x0000000000800020#64
     else if off % 0x1000 = 32 then 0x0000000000400010#64 else 0)
  else 0

/-- The value a register holds. -/
def State.reg (s : State) (off : Nat) : BitVec 64 := Sparse.get (regReset off) s.regs off

/-- Set a register's value. -/
def State.setReg (s : State) (off : Nat) (v : BitVec 64) : State :=
  { s with regs := Sparse.set (regReset off) s.regs off v }

/-- Offsets of the blocks (25 R336). -/
def dieReg (d off : Nat) : Nat := 0x10_0000 + 0x1_0000 * d + off
def cluReg (k off : Nat) : Nat := 0x20_0000 + 0x1_0000 * k + off
def cellReg (c off : Nat) : Nat := 0x80_0000 + 0x1000 * c + off

/-- The Loupe holds the cohort's cluster (23 R318). -/
def State.stopped (s : State) (c : Cohort) : Bool := (s.clusterOf c).any fun k => bit (s.reg (cluReg k 0x0488)) 0

/-- The time of a cohort: it stands still while the Loupe holds its cluster, from the stop on or from when it came there (23 R318). -/
def State.now (s : State) (c : Cohort) : Nat :=
  if s.stopped c then max (((s.clusterOf c).map fun k => (s.cluster k).stopAt).getD 0) c.since else s.time

/-- The time of the cohort of a number. -/
def State.nowOf (s : State) (co : Nat) : Nat := ((s.cohort? co).map s.now).getD s.time

/-- The module's own number (25 Table 25.1, MODCFG). -/
def State.modNum (s : State) : Nat := bits (s.reg 0x0008) 0 15

/-! ### Physical memory (13.1) -/

/-- The end of the HBM region (13 R180). -/
def hbmEnd : Nat := 0x59_682F_0000

/-- The register region's base and end. -/
def regBase : Nat := 0xF0_0000_0000
def regEnd : Nat := 0x100_0000_0000

/-- A local key that is a register (13 R180). -/
def isRegKey (key : Nat) : Bool := regBase ≤ key && key < regEnd

/-- The byte key of a frame byte: local, of another module, or host memory (13 R180, R191; 25 R338). -/
def State.keyOf (s : State) (md pa : Nat) : Nat :=
  if md = s.modNum then pa
  else if md = 0x7FFF then 2 ^ 60 + ((s.reg 0x0010).toNat + pa) % 2 ^ 64
  else (md + 1) * 2 ^ 40 + pa

/-- Host memory (25 R338). -/
def isHostKey (key : Nat) : Bool := 2 ^ 60 ≤ key

/-- The home slice of an HBM address (13 R186): XOR of the 9-bit pieces of the line number. -/
def xor9 : Nat → Nat → Nat
  | 0, _ => 0
  | f + 1, x => if x = 0 then 0 else (x % 512) ^^^ xor9 f (x / 512)

def homeSlice (pa : Nat) : Nat :=
  let g := pa / 4096
  512 * ((g % 8) / 2) + xor9 5 (g / 8 * 32 + pa / 128 % 32)

/-- A location's home slice, numbered across modules: 2,048 a module. -/
def sliceOf (key : Nat) : Nat := if key < 2 ^ 40 then homeSlice key else 2048 * (key / 2 ^ 40) + homeSlice (key % 2 ^ 40)

/-- A unit of this module as a source of requests: its number and the module's (13 R198). Clusters are 0 to 63, gather units 64
to 67, Headframe cores 72 to 79, the hub 80, the dies' own agents 84 to 87, copy engines 128 to 191. -/
def State.unit (s : State) (n : Nat) : Nat := s.modNum * 256 + n

/-- The place of a slice and a source among the sequences sent. -/
def sentAt (slice src : Nat) : Nat := slice * 2 ^ 23 + src

/-- What the slice keeps for a source (13 R198). -/
def State.sliceRec (s : State) (slice src : Nat) : SliceRec :=
  (s.slices.find? fun r => r.slice == slice && r.src == src).getD { slice := slice, src := src }

def State.setSliceRec (s : State) (r : SliceRec) : State :=
  { s with slices := r :: s.slices.filter fun x => !(x.slice == r.slice && x.src == r.src) }

/-- A write that a unit of this module sends to the home slice of a location takes the next sequence and, since it arrives in
order, is the last the slice has applied for the unit (13 R198). -/
def State.numbered (s : State) (src key : Nat) : State :=
  if isHostKey key then s
  else
    let sl := sliceOf key
    let n := Sparse.get 0 s.sent (sentAt sl src) + 1
    let r := s.sliceRec sl src
    { s with sent := Sparse.set 0 s.sent (sentAt sl src) n }.setSliceRec { r with last := n, results := ((n, 0) :: r.results).take 16 }

/-- Bytes at home, least significant first. -/
def State.homeBytes (s : State) (key n : Nat) : List Byte := (List.range n).map fun j => Memory.read s.mem (key + j)

def State.homeRead (s : State) (key n : Nat) : Nat := ofBytes (s.homeBytes key n)

/-- Write bytes at home, with no other effect. -/
def State.rawWrite (s : State) (key : Nat) (bs : List Byte) : State :=
  { s with mem := (bs.zipIdx).foldl (fun m p => Memory.write m (key + p.2) p.1) s.mem }

/-- 15 Table 15.4, over 32 or 64 bits. -/
def monHolds (wide : Bool) (cond : BitVec 3) (v k : BitVec 64) : Bool :=
  let w := if wide then 64 else 32
  let n := v.toNat % 2 ^ w
  let m := k.toNat % 2 ^ w
  match cond.toNat with
  | 0 => n == m
  | 1 => n != m
  | 2 => signedOf w n < signedOf w m
  | 3 => signedOf w n ≥ signedOf w m
  | 4 => n < m
  | 5 => n ≥ m
  | _ => (BitVec.ofNat 64 n &&& BitVec.ofNat 64 m) != 0

/-- The word of a monitor at its home slice (13 R199). -/
def State.monWord (s : State) (m : Monitor) : BitVec 64 := BitVec.ofNat 64 (s.homeRead m.key (if m.wide then 8 else 4))

def State.monTrue (s : State) (m : Monitor) : Bool := monHolds m.wide m.cond (s.monWord m) m.cmp

/-- Append to a saved cohort's arrival log (13 R200). -/
def Cohort.logArrival (c : Cohort) (a : Arrival) : Cohort :=
  { c with alog := c.alog ++ [{ a with stamp := c.astamp }], astamp := c.astamp + 1 }

/-- Change every split of a cohort. -/
def Cohort.mapSplits (c : Cohort) (f : Split → Split) : Cohort :=
  { c with groups := c.groups.map fun g => { g with splits := g.splits.map f } }

/-- A write reached bytes [key, key + n): the armed monitors that it makes true fire, or log a wake, and are freed; the record of
a saved context stays ARMED in its block (13 R199). -/
def State.fire (s : State) (key n : Nat) : State :=
  let hit (m : Monitor) : Bool := m.st == .armed && !m.poll && decide (m.key < key + n) &&
    decide (key < m.key + (if m.wide then 8 else 4)) && s.monTrue m
  { s with cohorts := s.cohorts.map fun c =>
      match c.status with
      | .saved _ _ =>
        (c.groups.zipIdx).foldl (fun c p => (p.1.splits.zipIdx).foldl (fun c q =>
          if q.1.live && hit q.1.mon then
            (c.logArrival { stamp := 0, wake := true, q := false, target := 0, gi := p.2, si := q.2 }).updGr p.2 fun g =>
              g.updSp q.2 fun x => { x with mon := { x.mon with st := .none } }
          else c) c) c
      | _ => c.mapSplits fun x => if hit x.mon then { x with mon := { x.mon with st := .fired } } else x }

/-- The number that a write carries to its home slice: 0, or n + 1 for one translated under the root of virtual device n (25 R343). -/
def State.vdTag (_ : State) (r : Root) : Nat :=
  match r with
  | .hf => 0
  | .vd n => n + 1

/-- Set the dirty bitmap bit of a written local frame, while TRK = 1, as the write is performed (25 R343). -/
def State.track (s : State) (vd key : Nat) : State :=
  if vd = 0 ∨ 2 ^ 40 ≤ key ∨ bit (s.reg (0x0A08 + 16 * (vd - 1))) 0 = false then s
  else
    let a := bits (s.reg (0x0A08 + 16 * (vd - 1))) 20 20 * 2 ^ 20 + key / 2 ^ 16 / 8
    let b := Memory.read s.mem a ||| (BitVec.ofNat 8 (2 ^ (key / 2 ^ 16 % 8)))
    (s.rawWrite a [b]).fire a 1

/-- A write performed at the home slice, by a party whose writes are tracked under `vd` (13 R199, R204; 25 R343). -/
def State.homeWrite (s : State) (key : Nat) (bs : List Byte) (vd : Nat) : State :=
  ((s.rawWrite key bs).fire key bs.length).track vd key

/-- A write of the hub: of a walker, of an agent with a queue or ring, or for the host (13 R198). -/
def State.hubWrite (s : State) (key : Nat) (bs : List Byte) (vd : Nat) : State := (s.numbered (s.unit 80) key).homeWrite key bs vd

/-- A write of one of a die's own agents, of the die that a register or a block belongs to: saves, free lists, logs, digests. -/
def State.dieWrite (s : State) (die key : Nat) (bs : List Byte) (vd : Nat) : State := (s.numbered (s.unit (84 + die)) key).homeWrite key bs vd

/-! ### The cluster cache (13.2) -/

/-- A key of another module's memory (13 R191). -/
def isRemoteKey (key : Nat) : Bool := 2 ^ 40 ≤ key && key < 2 ^ 60

/-- Some link port is UP (25 R346). -/
def State.linkUp (s : State) : Bool := (List.range 18).any fun p => bit (s.reg (0x0D00 + 8 * p)) 0

/-- The end of a request that no link port can carry (25 R347). -/
def State.noRoute (s : State) (key : Nat) : Bool := isRemoteKey key && !s.linkUp

/-- Banks in CACHE mode: the ways of the cache (13 R181, R182). -/
def State.bankMode (s : State) (k bank : Nat) : Nat :=
  if bank < 32 then bits (s.reg (cluReg k 0)) (2 * bank) 2 else bits (s.reg (cluReg k 8)) (2 * (bank - 32)) 2

def State.ways (s : State) (k : Nat) : Nat := ((List.range 64).filter fun b => s.bankMode k b = 0).length

def Line.byte? (l : Line) (off : Nat) : Option CByte := Sparse.get none l.bytes off

def Cluster.line? (c : Cluster) (lk : Nat) : Option Line := c.lines.find? fun l => l.key == lk

def Cluster.updLine (c : Cluster) (lk : Nat) (f : Line → Line) : Cluster :=
  { c with lines := c.lines.map fun l => if l.key = lk then f l else l }

/-- The cluster's copy of a byte. -/
def State.cached? (s : State) (k key : Nat) : Option CByte :=
  ((s.cluster k).line? (key / 128)).bind fun l => l.byte? (key % 128)

/-- The dirty bytes of a line: offset, value, tracking number. -/
def Line.dirtyBytes (l : Line) : List (Nat × Byte × Nat) :=
  l.bytes.filterMap fun p => p.2.bind fun b => b.dirty.map fun t => (p.1, b.v, t)

/-- A line holds a dirty byte. -/
def Line.isDirty (l : Line) : Bool := !l.dirtyBytes.isEmpty

/-- Write a line's dirty bytes back, leaving them clean (13 R182): one request of the cluster, a write with a byte mask. A request that
no link port can carry waits, its bytes still dirty (25 R347). -/
def State.lineBack (s0 : State) (k : Nat) (l : Line) : State :=
  let ds := l.dirtyBytes
  if ds.isEmpty || s0.noRoute (l.key * 128) then s0
  else
    let s := s0.numbered (s0.unit k) (l.key * 128)
    let s1 := { s with mem := ds.foldl (fun m (d : Nat × Byte × Nat) => Memory.write m (l.key * 128 + d.1) d.2.1) s.mem }
    let s2 := s1.fire (l.key * 128) 128
    let s3 := (ds.map fun d => d.2.2).eraseDups.foldl (fun s t => s.track t (l.key * 128)) s2
    s3.updCluster k fun c => c.updLine l.key fun l =>
      { l with bytes := l.bytes.map fun (p : Nat × Option CByte) => (p.1, p.2.map fun b => { b with dirty := none }) }

/-- Cell cycles of 65,536 fabric cycles, and of 2^24 (00 Table 0.1). -/
def dirtyCycles : Nat := 81920
def portCycles : Nat := 5 * 2 ^ 22

/-- The time by which a line's dirty bytes have gone home (13 R182), or, where no link port carries them, are lost (25 R347). -/
def State.lineDue (s : State) (l : Line) : Nat := l.since + dirtyCycles + if s.noRoute (l.key * 128) then portCycles else 0

/-- A cluster holds a dirty line that no link port can carry to its owner (25 R347). -/
def State.unbacked (s : State) (k : Nat) : Bool := (s.cluster k).lines.any fun l => l.isDirty && s.noRoute (l.key * 128)

/-- Write back one line by its key, or every line of a cluster. -/
def State.backLine (s : State) (k lk : Nat) : State :=
  match (s.cluster k).line? lk with
  | none => s
  | some l => s.lineBack k l

def State.backAll (s : State) (k : Nat) : State := (s.cluster k).lines.foldl (fun s l => s.backLine k l.key) s

/-- Drop the clean bytes of a cluster's lines, and lines left empty: an acquire (13 R206). -/
def State.dropClean (s : State) (k : Nat) : State :=
  s.updCluster k fun c => { c with lines := (c.lines.map fun l =>
    { l with bytes := l.bytes.filter fun p => (p.2.bind fun b => b.dirty).isSome }).filter fun l => !l.bytes.isEmpty }

/-- A cell that has counted nothing in its last 4,096 cycles (07 R117). -/
def Cell.quiet (x : Cell) : Bool := x.h == 0 && x.m == 0 && x.lls == 0 && x.hist.all fun p => p == (0, 0)

/-- A memory instruction of a cell counts; the intervals of a quiet cell begin anew. -/
def Cell.countMem (x : Cell) (t : Nat) : Cell := { x with m := x.m + 1, llsAt := if x.quiet then t / 256 * 256 else x.llsAt }

/-- Record a victim tag, oldest first, at most 256 (07 R117). -/
def Cell.pushTag (c : Cell) (lk : Nat) : Cell := { c with vtags := (c.vtags ++ [lk]).drop ((c.vtags.length + 1) - 256) }

/-- Make a line present, evicting another of its set when every way is taken; which is a free value (13 R182, 07 R117). A line whose
dirty bytes no link port can carry stays (25 R347). -/
def State.allocLine (s : State) (k cell lk : Nat) : State :=
  if ((s.cluster k).line? lk).isSome then s
  else
    let same := (s.cluster k).lines.filter fun l => l.key % 512 == lk % 512
    let s1 :=
      if same.length < s.ways k then s
      else
        let (f, s0) := s.draw
        let out := same.filter fun l => !(l.isDirty && s.noRoute (l.key * 128))
        match out[f % out.length]? with
        | none => s0
        | some v =>
          let s2 := s0.lineBack k v
          let s3 := s2.updCluster k fun c => { c with lines := c.lines.filter fun l => l.key != v.key }
          s3.updCell v.cell fun x => x.pushTag v.key
    s1.updCluster k fun c => { c with lines := c.lines ++ [{ key := lk, cell := cell }] }

/-- Bring the 32-byte sector of a byte into the cluster cache: bytes not held come from home (13 R182, R187). -/
def State.fillSector (s : State) (k cell key : Nat) : State :=
  let lk := key / 128
  let b0 := key % 128 / 32 * 32
  let held := (List.range 32).all fun i => (s.cached? k (lk * 128 + b0 + i)).isSome
  let s1 := (if held then s else s.numbered (s.unit k) key).allocLine k cell lk
  s1.updCluster k fun c => c.updLine lk fun l => (List.range 32).foldl (fun l i =>
    if (l.byte? (b0 + i)).isSome then l
    else { l with bytes := Sparse.set none l.bytes (b0 + i) (some { v := Memory.read s1.mem (lk * 128 + b0 + i) }) }) l

/-- Store bytes into the cluster cache (13 R182, R204): write-allocate, dirty, tracked under `vd`. -/
def State.cacheStore (s : State) (k cell key : Nat) (bs : List Byte) (vd : Nat) : State :=
  let s1 := s.allocLine k cell (key / 128)
  s1.updCluster k fun c => c.updLine (key / 128) fun l => (bs.zipIdx).foldl (fun l p =>
    { l with bytes := Sparse.set none l.bytes (key % 128 + p.2) (some { v := p.1, dirty := some vd }) })
    { l with since := if l.isDirty then l.since else s1.time }

/-- A byte as the lanes of a cluster see it: the cluster's copy, else the home slice's (13 R204); a Headframe core is on no
cluster. -/
def State.laneByte (s : State) (k : Option Nat) (key : Nat) : Byte :=
  match k with
  | none => Memory.read s.mem key
  | some k => match s.cached? k key with
    | some b => b.v
    | none => Memory.read s.mem key

def State.laneBytes (s : State) (k : Option Nat) (key n : Nat) : List Byte :=
  (List.range n).map fun j => s.laneByte k (key + j)

/-- A store of the lanes path. -/
def State.laneStore (s : State) (k : Option Nat) (cell key : Nat) (bs : List Byte) (vd : Nat) : State :=
  match k with
  | none => s.homeWrite key bs vd
  | some k => s.cacheStore k cell key bs vd

/-- A read of the lanes path leaves its sector in the cluster cache. -/
def State.laneFill (s : State) (k : Option Nat) (cell key : Nat) : State :=
  match k with
  | none => s
  | some k => s.fillSector k cell key

/-- A release of device or system scope by lanes of a cluster (13 R206): every dirty byte is written back. -/
def State.release (s : State) (k : Option Nat) : State :=
  match k with
  | none => s
  | some k => s.backAll k

/-- An acquire of device or system scope (13 R206). -/
def State.acquire (s : State) (k : Option Nat) : State :=
  match k with
  | none => s
  | some k => s.dropClean k

/-! ### Translation (13.4) -/

/-- Access kinds of a walk (13 R192). -/
inductive Access where
  | read
  | write
  | fetch
  deriving DecidableEq, Repr

/-- A translation: byte key, leaf entry, base and size of its page. -/
structure Phys where
  key : Nat
  entry : BitVec 64
  base : Nat
  size : Nat
  deriving DecidableEq, Repr

/-- PAGE_FAULT and PROTECTION (21 Table 21.1). -/
def PAGE_FAULT : Code := 3
def PROTECTION : Code := 4

/-- The level-4 table of a root, none when it is off (25 Table 25.1); a virtual device's is the one in force (R342). -/
def State.rootTable (s : State) (r : Root) : Option Nat :=
  match r with
  | .hf => some (bits (s.reg 0x0B00) 12 28 * 4096)
  | .vd n => if n < 16 ∧ bit (Sparse.get 0 s.roots n) 0 then some (bits (Sparse.get 0 s.roots n) 12 28 * 4096) else none

/-- Bytes of one entry's span at a level: 2^12, 2^21, 2^30, 2^39, 2^48 (13 Table 13.5). -/
def levelShift (lvl : Nat) : Nat := 12 + 9 * lvl

/-- Entries a leaf spans, by level and size code; none where the size is not listed (13 Table 13.5). -/
def leafSpan (lvl sz : Nat) : Option Nat :=
  if lvl = 2 then (if sz = 0 then some 1 else none)
  else if lvl = 1 then (if sz ≤ 3 then some (2 * 4 ^ sz) else none)
  else if lvl = 0 then (if sz ≤ 4 then some (4 ^ sz) else none)
  else none

/-- Reserved bits of an entry (13 Table 13.6): [63:55], [11:9], [7]. -/
def entryReserved (e : BitVec 64) : Bool := bits e 55 9 != 0 || bits e 9 3 != 0 || bit e 7

/-- The checks of a leaf that do not need the tables (13 R192): register region, HF, W, X. -/
def State.leafAllows (s : State) (e : BitVec 64) (k : Access) (hfParty : Bool) : Option Code :=
  let pa := bits e 12 28 * 4096
  let isLocal := bits e 40 15 == s.modNum
  if isRegKey pa && (!isLocal || !hfParty) then some PROTECTION
  else if bit e 8 && !hfParty then some PROTECTION
  else if k == .write && !bit e 5 then some PROTECTION
  else if k == .fetch && (!bit e 6 || isRegKey pa) then some PROTECTION
  else none

/-- The walk of 13 R192, level by level; tables are read at their home slices. -/
def State.walk (s : State) (t va : Nat) (k : Access) (hfParty : Bool) : Nat → Except Code Phys
  | 0 => .error PAGE_FAULT
  | n + 1 =>
    let lvl := n
    let i := va / 2 ^ levelShift lvl % (if lvl = 4 then 256 else 512)
    let e := BitVec.ofNat 64 (s.homeRead (t + 8 * i) 8)
    if !bit e 0 then .error PAGE_FAULT
    else if entryReserved e then .error PAGE_FAULT
    else if !bit e 1 then
      if lvl = 0 ∨ bits e 2 3 ≠ 0 ∨ bits e 40 15 ≠ 0 ∨ bit e 8 ∨ bit e 5 ∨ bit e 6 then .error PAGE_FAULT
      else s.walk (bits e 12 28 * 4096) va k hfParty n
    else
      match leafSpan lvl (bits e 2 3) with
      | none => .error PAGE_FAULT
      | some sp =>
        let size := sp * 2 ^ levelShift lvl
        let pa := bits e 12 28 * 4096
        if sp > 1 ∧ s.homeRead (t + 8 * (i - i % sp)) 8 ≠ e.toNat then .error PAGE_FAULT
        else if pa % size ≠ 0 then .error PAGE_FAULT
        else if bits e 40 15 = s.modNum ∧ ¬ (pa + size ≤ hbmEnd) ∧ ¬ isRegKey pa then .error PAGE_FAULT
        else match s.leafAllows e k hfParty with
          | some c => .error c
          | none => .ok { key := s.keyOf (bits e 40 15) (pa + va % size), entry := e, base := va / size * size, size := size }

/-- Translate under a root, using a cached entry where one covers the address (13 R193). -/
def State.xlate (s : State) (tlb : List TlbEntry) (r : Root) (va : Nat) (k : Access) (hfParty : Bool) : Except Code Phys :=
  match tlb.find? fun t => t.root == r && t.base ≤ va && va < t.base + t.size with
  | some t =>
    match s.leafAllows t.entry k hfParty with
    | some c => .error c
    | none => .ok { key := s.keyOf (bits t.entry 40 15) (bits t.entry 12 28 * 4096 + va % t.size), entry := t.entry,
                    base := t.base, size := t.size }
  | none =>
    match s.rootTable r with
    | none => .error PAGE_FAULT
    | some t => s.walk t va k hfParty 5

/-- Keep a translation, at most `cap` entries; which entry makes room is a free value (13 R193). -/
def tlbAdd (tlb : List TlbEntry) (cap f : Nat) (r : Root) (p : Phys) : List TlbEntry :=
  if tlb.any fun t => t.root == r && t.base == p.base && t.size == p.size then tlb
  else (if tlb.length < cap then tlb else tlb.eraseIdx (f % cap)) ++ [{ root := r, base := p.base, size := p.size, entry := p.entry }]

/-- ECC_UNCORRECTED (21 Table 21.1). -/
def ECC_UNCORRECTED : Code := 21

/-- Some byte of a read comes from a sector whose data hold an uncorrectable error (21 R295; log entry 59); a copy in the reader's
cluster cache is good. -/
def State.spoilt (s : State) (k : Option Nat) (key w : Nat) : Bool := !s.bad.isEmpty && (List.range w).any fun j =>
  s.bad.contains ((key + j) / 32) && !(k.any fun u => (s.cached? u (key + j)).isSome)

/-- The translation cache of the lanes of a cluster; a Headframe core's accesses walk the tables. -/
def State.laneTlb (s : State) (k : Option Nat) : List TlbEntry :=
  match k with
  | none => []
  | some k => (s.cluster k).tlb

def State.laneXlate (s : State) (c : Cohort) (va : Nat) (k : Access) : Except Code Phys :=
  s.xlate (s.laneTlb (s.clusterOf c)) c.root va k c.isHF

/-- Keep the translation of a lanes access. -/
def State.laneTlbFill (s : State) (c : Cohort) (p : Phys) : State :=
  match s.clusterOf c with
  | none => s
  | some k =>
    let (f, s1) := s.draw
    s1.updCluster k fun x => { x with tlb := tlbAdd x.tlb 4096 f c.root p }

/-- A translation that an access used is kept (13 R193). -/
def State.keepXlate (s : State) (c : Cohort) (k : Access) (a : Nat) : State := match s.laneXlate c a k with
  | .ok p => s.laneTlbFill c p
  | .error _ => s

/-- An agent's access at home, under a root (13 R213, R357): one translation for bytes that do not cross a page. -/
def State.agentXlate (s : State) (r : Root) (va : Nat) (k : Access) : Except Code Nat :=
  match s.xlate [] r va k false with
  | .ok p => if s.noRoute p.key then .error ECC_UNCORRECTED else .ok p.key
  | .error c => .error c

def State.agentRead (s : State) (r : Root) (va n : Nat) : Except Code Nat :=
  match s.agentXlate r va .read with
  | .ok key => if s.spoilt none key n then .error ECC_UNCORRECTED else .ok (s.homeRead key n)
  | .error c => .error c

def State.agentWrite (s : State) (r : Root) (va : Nat) (bs : List Byte) : Except Code State :=
  match s.agentXlate r va .write with
  | .ok key => .ok (s.hubWrite key bs (s.vdTag r))
  | .error c => .error c

/-! ### Hints (05.6) -/

/-- The hints of a chain (05 Table 5.5). -/
structure Hints where
  imm : List Nat := []
  /-- Address of the first IMM hint (05 R65). -/
  immPc : VAddr := 0
  mod? : Option Word := none
  guard : Option Nat := none
  yld : Bool := false
  urg : Bool := false
  rep : Option Word := none
  repPc : VAddr := 0
  deriving DecidableEq, Repr

/-- Fold one hint word, standing at `pc`, into the hints. -/
def Hints.add (h : Hints) (pc : VAddr) (w : Word) : Hints :=
  match bits w 22 3 with
  | 0 => { h with imm := h.imm ++ [bits w 0 22], immPc := if h.imm.isEmpty then pc else h.immPc }
  | 1 => { h with mod? := some w }
  | 2 => { h with guard := some (bits w 19 3) }
  | 3 => { h with yld := bit w 21, urg := bit w 20 }
  | 4 => { h with rep := some w, repPc := pc }
  | _ => h

def Split.hints (x : Split) : Hints :=
  (x.chain.zipIdx).foldl (fun h p => h.add (x.chainPc + BitVec.ofNat 56 (4 * p.2)) p.1) {}

def Hints.sat (h : Hints) : Bool := match h.mod? with
  | some w => bit w 18
  | none => false
def Hints.ovf (h : Hints) : Bool := match h.mod? with
  | some w => bit w 17
  | none => false
def Hints.b8 (h : Hints) : Bool := match h.mod? with
  | some w => bit w 16
  | none => false
def Hints.la (h : Hints) : Nat := match h.mod? with
  | some w => bits w 9 4
  | none => 0
/-- The rounding mode in force: RNE unless a hint overrides it (03 R29). -/
def Hints.rm (h : Hints) : Nat := match h.mod? with
  | some w => if bit w 21 then bits w 19 2 else 0
  | none => 0

/-- ExtImm of 05 R65 over an own field `o` of `n` bits; none when payload bits stand above bit 31. -/
def Hints.extImm (h : Hints) (o n : Nat) (signed : Bool) : Option Int :=
  let ext (x w : Nat) : Int := if signed then signedOf w x else (x : Nat)
  match h.imm with
  | [] => some (ext o n)
  | [h1] =>
    let x := h1 * 2 ^ n + o
    if n + 22 > 32 ∧ x ≥ 2 ^ 32 then none else some (ext x (min (n + 22) 32))
  | h1 :: h2 :: _ =>
    let x := h1 * 2 ^ (n + 22) + h2 * 2 ^ n + o
    if x ≥ 2 ^ 32 then none else some (ext x 32)

/-! ### Traps (21.2, 21.3, 21.5) -/

def ILLEGAL : Code := 1
def ALIGNMENT : Code := 2
def SCRATCH_BOUNDS : Code := 5
def BARRIER_OVERRUN : Code := 6
def REJOIN_DEADLOCK : Code := 7
def STACK_SPILL_FAULT : Code := 8
def SPAWN_DEPTH : Code := 9
def DEPTH_OVERFLOW : Code := 10
def ARENA_FULL : Code := 11
def MATRIX_RANGE : Code := 12
def ENGINE_FAULT : Code := 13
def STREAM_OVERLAP : Code := 14
def ORDER_STALL : Code := 15
def LOG_FULL : Code := 16
def DIGEST_MISMATCH : Code := 17
def WATCHPOINT : Code := 18
def STEP : Code := 19
def BREAK : Code := 20
/-- Class H of 21 Table 21.1. -/
def classH (c : Code) : Bool := c == 3 || c == 4 || c == 17 || c == 21

/-- Class D of 21 Table 21.1. -/
def classD (c : Code) : Bool := c == 18 || c == 19 || c == 20

/-- What an instruction reports when it traps. -/
structure Trap where
  code : Code
  lane : Option Nat := none
  addr : BitVec 64 := 0
  detail : BitVec 48 := 0
  /-- The word that trapped, when it is not the word being issued. -/
  pc : Option VAddr := none
  /-- The resume point is the instruction after (21 R294). -/
  after : Bool := false
  deriving DecidableEq, Repr

/-- What an issuing split sees. -/
structure Ctx where
  who : Who
  co : Cohort
  gr : Group
  sp : Split
  h : Hints
  deriving DecidableEq, Repr

/-- The split that the focus names, when it is there to issue. -/
def State.ctx? (s : State) : Option Ctx :=
  match s.focus with
  | none => none
  | some w =>
    match s.cohort? w.co with
    | none => none
    | some c =>
      match c.groups[w.gi]? with
      | none => none
      | some g =>
        match g.splits[w.si]? with
        | none => none
        | some x => if x.live then some { who := w, co := c, gr := g, sp := x, h := x.hints } else none

/-- Participating lanes of a guard field (09 R126). -/
def Ctx.part (c : Ctx) (g : Nat) : Word := c.sp.mask &&& c.gr.getP g

/-- Active lanes narrowed by `hint.guard` (05 R67). -/
def Ctx.partH (c : Ctx) : Word :=
  match c.h.guard with
  | none => c.sp.mask
  | some p => c.sp.mask &&& c.gr.getP p

/-- PC as KB sees it, and the cohort's physical cell and cluster. -/
def Ctx.cluster (c : Ctx) (s : State) : Option Nat := s.clusterOf c.co
def Ctx.cell (c : Ctx) (s : State) : Nat := s.pcell c.co.lcell

/-- The point at which a split goes on if it stops now (05 R64, R82): never inside a chain. -/
def Split.resume (x : Split) : VAddr × BitVec 6 := (if x.chain.isEmpty then x.pc else x.chainPc, x.pos)

/-- The first instruction that a split has not issued (21 R294): a `barp` that has arrived and waits is past (log entry 47), and so is
a `svc` that has been sent (R313); any other wait is of an instruction that issues again (21 R307). -/
def Split.past (x : Split) : VAddr × BitVec 6 := match x.wait with
  | .barp _ _ => (x.pc + 4, 0)
  | .svc _ => (x.pc + 4, 0)
  | _ => x.resume

/-- Ready results of open windows are written and their windows closed (05 R72, R75). -/
def Group.closeReady (g : Group) (si : Nat) (p : Window → Bool) : Group :=
  match g.splits[si]? with
  | none => g
  | some x =>
    let g1 := (x.windows.filter fun w => w.ready && !w.re && p w).foldl
      (fun g w => { g with v := w.vals.foldl (fun v e => Sparse.set 0 v e.1 e.2) g.v }) g
    g1.updSp si fun x => { x with windows := x.windows.filter fun w => !(w.ready && !w.re && p w) }

/-- The number of live splits of a group. -/
def Group.liveCount (g : Group) : Nat := (g.splits.filter fun x => x.live).length

/-- The view of a split (11 R150): entries it owns, newest first, then group-level entries, newest first. -/
def Group.view (g : Group) (si : Nat) : List StackEntry :=
  g.stack.filter (fun e => e.owner == some si) ++ g.stack.filter (fun e => e.owner == none)

/-- T(split). -/
def Group.top? (g : Group) (si : Nat) : Option StackEntry := (g.view si).head?

/-- J(split): the first JOIN entry of the view before any TRAP entry. -/
def firstJoin : List StackEntry → Option StackEntry
  | [] => none
  | e :: t => if e.kind = .trap then none else if e.kind = .join then some e else firstJoin t

def Group.join? (g : Group) (si : Nat) : Option StackEntry := firstJoin (g.view si)

/-- Ownership of a new entry (11 R150). -/
def Group.ownerFor (g : Group) (si : Nat) : Option Nat :=
  if 2 ≤ g.liveCount ∨ g.stack.any (fun e => e.owner == some si) then some si else none

/-- Remove the newest entry equal to the given one. -/
def Group.popEntry (g : Group) (e : StackEntry) : Group := { g with stack := g.stack.erase e }

/-- A halt reaches a group: splits that are ready then may issue n more instructions in all (21 R291). -/
def Group.halted (g : Group) (n now : Nat) (stalled : Nat → Bool) : Group :=
  { g with halt := true, skid := 0, left := n, splits := g.splits.zipIdx.map fun (p : Split × Nat) =>
      { p.1 with skids := p.1.live && p.1.wait == .none && decide (p.1.pauseEnd ≤ now) && !stalled p.2 } }

/-- The other groups of a cohort are halted, each with a free skid of 0 to 4; the trapping group, if any, at once
(21 R291, R292). -/
def State.haltCohort (s : State) (co : Nat) (gi : Option Nat) : State :=
  let n := match s.cohort? co with
    | none => 0
    | some c => c.groups.length
  let halt (p : Group × Nat) : Group :=
    if p.1.halt then (if some p.2 = gi then { p.1 with left := 0 } else p.1)
    else p.1.halted (if some p.2 = gi then 0 else (Config.freeValue (s.free + p.2)).toNat % 5) (s.nowOf co)
      fun i => s.stalled.contains ⟨co, p.2, i⟩
  let s1 := s.updCo co fun c => { c with groups := c.groups.zipIdx.map halt }
  { s1 with free := s1.free + n }

/-- An escalation (21 R303): the cohort is halted, to be saved with STOP 5, and a Headframe core is signalled; with cause 3 it is told
what the handler met, while the record stays that of the handler's own trap (21 R297; log entry 46). -/
def State.escalate (s : State) (co gi : Nat) (r : TrapRec) (cause : Nat) (met : Option TrapRec := none) : State :=
  let s1 := s.haltCohort co (some gi)
  let s2 := s1.updCo co fun c =>
    { c.updGr gi fun g => { g with trap := some { r with cause := cause, hcyc := if cause = 3 ∨ cause = 4 ∨ cause = 6 then g.hcyc + (s.nowOf co - g.hstart) else 0 } } with status := .saving 5 (some gi) }
  s2.signal (.escalation co gi cause met)

/-- A window still open when its split takes a trap (05 R75): one whose instruction faulted stays open below the trap; any other
instruction completes, and its value is written as soon as it comes. -/
def Window.underTrap (w : Window) : Window := if w.re then { w with under := true } else { w with left := 0 }

/-- The destination of a reply that is still to come once a trap has ended the split's wait (21 R313). -/
def Split.owes (x : Split) : Option (BitVec 6) := match x.wait with
  | .svc d => some d
  | _ => x.owed

/-- TakeTrap of 21 R296: the TRAP entry, the record, the handler split. -/
def State.takeTrap (s : State) (w : Who) (r : TrapRec) : State :=
  match s.cohort? w.co with
  | none => s
  | some c =>
    match c.groups[w.gi]? with
    | none => s
    | some g =>
      if 64 ≤ g.stack.length then s.escalate w.co w.gi r 5
      else
        (s.haltCohort w.co (some w.gi)).updGr w fun g =>
          let mask := match g.splits[w.si]? with
            | some x => x.mask
            | none => 0
          let e : StackEntry := { kind := .trap, owner := g.ownerFor w.si, mask := mask, pos := r.rpos, pc := r.rpc }
          let g1 := { g with stack := e :: g.stack, trap := some r, hcyc := 0, hstart := s.now c }
          (g1.closeReady w.si fun _ => true).updSp w.si fun x =>
            { x with pc := BitVec.ofNat 56 (c.kb + c.tvec.toNat), pos := 0, handler := true, chain := [], codes := [],
                     landed := true, wait := .none, why := .other, owed := x.owes, pauseEnd := 0, windows := x.windows.map Window.underTrap }

/-- The Loupe takes a class D trap (23 R318, R319): the cluster's cohorts halt, the record stays current. -/
def State.stopCluster (s : State) (k : Nat) : State :=
  let s0 := if bit (s.reg (cluReg k 0x0488)) 0 then s else s.updCluster k fun x => { x with stopAt := s.time }
  let s1 := s0.setReg (cluReg k 0x0488) (s0.reg (cluReg k 0x0488) ||| 1)
  (s1.cohorts.filter fun c => s1.clusterOf c = some k ∧ c.status = .resident).foldl
    (fun s c => s.haltCohort c.id none) s1

/-- A class D trap goes to the Loupe of the cohort's cluster (23 R319). -/
def State.toLoupe (s : State) (c : Cohort) (code : Code) : Bool :=
  classD code && (s.clusterOf c).any fun k => bit (s.reg (cluReg k 0x0480)) 0

/-- Deliver a trap by its class (21 R293, R296, R303; 23 R319). -/
def State.deliver (s : State) (w : Who) (r : TrapRec) : State :=
  match s.cohort? w.co with
  | none => s
  | some c =>
    if s.toLoupe c r.code then
      match s.clusterOf c with
      | none => s
      | some k => (((s.haltCohort w.co (some w.gi)).updGr w fun g => { g with trap := some r }).stopCluster k).signal (.loupe w.co w.gi)
    else if classH r.code then s.escalate w.co w.gi r 1
    else if c.tvec = 0 then s.escalate w.co w.gi r 2
    else s.takeTrap w r

/-- A group of the cohort was dispatched for its cut: it is no Winze group. -/
def Cohort.dispatched (c : Cohort) (gidx : Nat) : Bool := (c.groups.take c.ngroups).any fun g => g.index == gidx

/-- The set of a group that holds an expansion, none without one; a Winze group is a set of one (19 R276). Of sets of different size
the most recent counts (DESIGN CHOICE, log entry 85). -/
def Cohort.setOf (c : Cohort) (gidx : Nat) : Option SluiceSet :=
  c.sets.find? fun x => x.exp.isSome &&
    if c.dispatched gidx then x.first ≤ gidx && gidx < x.first + x.k else x.k == 1 && x.first == gidx

/-- The Sluice item of a lane: owner group, owner lane, inner index (19 R282). -/
def Cohort.sluiceItem (c : Cohort) (gidx lane : Nat) : Option (SluiceSet × Expansion × Recv × Owner × Nat) :=
  (c.setOf gidx).bind fun st => st.exp.bind fun e => (e.recvs.find? fun r => r.g == gidx && r.lane == lane).bind fun r =>
    r.cur.bind fun p => (e.owners[p.1]?).map fun o => (st, e, r, o, p.2)

/-- Every halted group of a cohort issues again (21 R298), unless the cohort is to be saved or the Loupe holds its cluster. -/
def State.unhalt (s : State) (co : Nat) : State :=
  s.updCo co fun c =>
    if c.status ≠ .resident ∨ s.stopped c then c
    else { c with groups := c.groups.map fun g =>
      { g with halt := false, left := 0, splits := g.splits.map fun (x : Split) => { x with skids := false } } }

/-- The first group of a cohort, in ascending index, that holds a pending trap (21 R292). -/
def Cohort.firstPend (c : Cohort) : Option (Nat × TrapRec) :=
  (c.groups.zipIdx).findSome? fun p => p.1.pend.map fun r => (p.2, r)

/-- The split of a group that answers for one that may have gone. -/
def Group.standIn (g : Group) (si : Nat) : Option Nat :=
  if (g.splits[si]?).any fun x => x.live then some si else g.splits.findIdx? fun x => x.live

/-- The first group, in ascending index, with a trap that waits behind others: the group, the split that takes it and the record, whose
resume point is where the split stands now (17 R237; 21 R294). -/
def Cohort.firstQueued (c : Cohort) : Option (Nat × TrapRec) :=
  (c.groups.zipIdx).findSome? fun p => p.1.queued.head?.bind fun q => (p.1.standIn q.1.split).bind fun i => (p.1.splits[i]?).map fun x =>
    (p.2, { q.1 with split := i, rpc := x.past.1, rpos := x.past.2 })

/-- A handler split of some group is live. -/
def Cohort.handling (c : Cohort) : Bool := c.groups.any fun g => g.splits.any fun x => x.live && x.handler

/-- A trap has ended: the next pending trap is delivered, or the halt ends (21 R298); a handler that is live runs on first. -/
def State.nextTrap (s : State) (co : Nat) : State :=
  match s.cohort? co with
  | none => s
  | some c =>
    if c.status ≠ .resident ∨ c.handling then s
    else match c.firstPend with
      | none => match c.firstQueued with
        | none => s.unhalt co
        | some (gi, r) => (s.updCo co fun c => c.updGr gi fun g => { g with queued := g.queued.tail }).deliver ⟨co, gi, r.split⟩ r
      | some (gi, r) => (s.updCo co fun c => c.updGr gi fun g => { g with pend := none }).deliver ⟨co, gi, r.split⟩ r

/-- Return from a trap (11 R162, 21 R298): the handler split takes the TRAP entry's mask, PC and position at ordinary
priority, and the trap ends. -/
def State.returnTrap (s : State) (w : Who) (e : StackEntry) : State :=
  let s1 := s.updGr w fun g =>
    { ((g.popEntry e).updSp w.si fun x =>
        { x with mask := e.mask, pc := e.pc, pos := e.pos, handler := false, chain := [], codes := [], landed := true,
                 windows := x.windows.map fun (v : Window) => { v with under := false } }) with trap := none, hcyc := 0 }
  s1.nextTrap w.co

/-- The record of a trap (21 Table 21.9). -/
def Ctx.record (c : Ctx) (word : Nat) (here : VAddr × BitVec 6) (t : Trap) : TrapRec :=
  let lowest : Nat := match t.lane with
    | some l => l
    | none => 32
  { code := t.code, split := c.who.si, lane := t.lane, word := BitVec.ofNat 32 word,
    pc := t.pc.getD c.sp.pc, pos := c.sp.pos,
    rpc := here.1, rpos := here.2,
    addr := t.addr, detail := t.detail,
    own := (c.co.sluiceItem c.gr.index lowest).map fun x => (x.2.2.2.1.g, x.2.2.2.1.lane, BitVec.ofNat 32 x.2.2.2.2),
    wz := (Sparse.get none c.gr.wz lowest).map fun i => (i.rout, BitVec.ofNat 32 i.frame) }

/-- A trap arises in a split (21 R291 to R297): in a handler it escalates with cause 3, and the record of the handler's own trap
is kept; in a group that a halt has reached its record waits, unless the Loupe steps the group (23 R320) or an earlier one waits
already; else it is delivered. In a cluster that has stopped already, the first class D trap of a cohort is its own trap at once, and
the cluster does not stop again (23 R317). -/
def State.arise (s : State) (w : Who) (r : TrapRec) : State :=
  match s.group? w.co w.gi with
  | none => s
  | some g =>
    if (g.splits[w.si]?).any fun x => x.handler then s.escalate w.co w.gi (g.trap.getD r) 3 (some r)
    else if (s.cohort? w.co).any fun c => s.stopped c && s.toLoupe c r.code && c.groups.all fun h => h.trap.isNone then s.deliver w r
    else if g.halt && !g.stepped then s.updGr w fun g => { g with pend := some (g.pend.getD r), left := 0 }
    else s.deliver w r

/-- A trap at an instruction: the split gives up the chain it was reading (05 R64), and the trap arises. -/
def State.raise (s : State) (c : Ctx) (word : Nat) (t : Trap) : State :=
  let here := if t.after then ((s.split? c.who).getD c.sp).past else c.sp.resume
  let r := c.record word here t
  let s1 := { s with stalled := [] }.updSp c.who fun x =>
    { x with pc := r.rpc, pos := r.rpos, chain := [], codes := [], landed := true, wait := .none, why := .other, owed := x.owes }
  s1.arise c.who r

end Sys2Proof.Machine
end

