-- ==== Sys2Proof/Machine/Operands.lean ====
section
/-! DEFINITION. The operand forms and the driver `issue`: what every word is checked for before it takes effect, what each
issue counts, and how a split goes on. -/
namespace Sys2Proof.Machine

/-- `hint.mod` modifiers that a word accepts (05 R66, 09 R130). -/
structure Mods where
  r : Bool := false
  s : Bool := false
  o : Bool := false
  l : Bool := false
  b8 : Bool := false
  cp : Bool := false
  deriving DecidableEq, Repr

/-- What an instruction word is, as far as the common rules see it. -/
structure Req where
  /-- The word as issued, after a step or a rebase. -/
  word : Nat
  /-- Its own fields are legal (05 R55, R59). -/
  wf : Bool := true
  /-- Vector registers it names, and those it writes (05 R56, R73). -/
  vr : List Nat := []
  vw : List Nat := []
  /-- Hints it accepts (05 Table 5.5). -/
  imm : Bool := false
  mods : Mods := {}
  guard : Bool := false
  rep : Bool := false
  /-- A control transfer (05 R58), and one that leaves the straight line. -/
  ctrl : Bool := false
  jumps : Bool := false
  /-- A memory instruction of 07 Table 7.3. -/
  mem : Bool := false
  /-- It makes accesses of the lanes path, without being one of those. -/
  reads : Bool := false
  /-- In an ORDERED launch it takes its place among the ordered operations (13 R211). -/
  joins : Bool := false
  /-- Not allowed in a handler split (21 R297). -/
  noHandler : Bool := false
  /-- Its lookahead count (05 R71), when it opens a window. -/
  look : Nat := 0
  /-- Its effect itself says where the split goes on, or has it wait where it stands with the chain it was reading. -/
  hold : Bool := false
  /-- A word of 19: no hint but `hint.sched`, `hint.nop` and, per lane, `hint.guard` (19 R267). -/
  noMod : Bool := false
  /-- A hint word, which counts in no window and no skid (05 R72; 21 R291). -/
  hint : Bool := false
  /-- Its accesses are ordered against nothing (15 R222). -/
  unordered : Bool := false
  /-- Its lanes perform a release of device or system scope as it issues (13 R206). -/
  rel : Bool := false
  /-- What its own wait is for (21 Table 21.8). -/
  why : Stall := .other
  deriving DecidableEq, Repr

/-- A hint that the word does not accept (05 R62, R66), or payload bits above bit 31 (R65). -/
def Req.badHint (q : Req) (c : Ctx) : Bool :=
  (!c.h.imm.isEmpty && !q.imm) || (c.h.mod?.isSome && q.noMod) || (c.h.guard.isSome && !q.guard) || (c.h.rep.isSome && !q.rep) ||
  (match c.h.mod? with
   | none => false
   | some w => (bit w 21 && !q.mods.r) || (bit w 18 && !q.mods.s) || (bit w 17 && !q.mods.o) ||
      (bit w 16 && !q.mods.b8) || (bits w 13 3 != 0 && !q.mods.cp) || (bits w 9 4 != 0 && !q.mods.l))

/-- The vector registers a group holds (05 R56). -/
def Ctx.holds (c : Ctx) (r : Nat) : Bool := r < 128 && (c.co.isHF || r < 8 * c.gr.budget)

/-- A window's registers. -/
def Window.covers (w : Window) (r : Nat) : Bool := w.dst.toNat ≤ r && r < w.dst.toNat + w.nreg

/-- The checks common to all words, before any effect (05 R61, R56, R73; 21 R297; 13 R358). R73's window is open while
instructions of it are left; a write of its registers after that, before the result has come, waits for the result as a read
does (R72; 13 R211) and traps nothing (log entry 48). -/
def Req.reject (q : Req) (c : Ctx) : Option Trap :=
  if !q.wf || q.badHint c then some { code := ILLEGAL }
  else if !(q.vr.all c.holds) then some { code := ILLEGAL }
  else if c.sp.windows.any (fun w => w.left != 0 && q.vw.any w.covers) then some { code := ILLEGAL }
  else if q.noHandler && c.sp.handler then some { code := ILLEGAL }
  else if !q.jumps && c.sp.pc.toNat + 4 ≥ 2 ^ 56 then some { code := PROTECTION, addr := 2 ^ 56 }
  else none

/-- The word waits on the scoreboard: a control transfer for every open window, any word for the registers of a window
whose count is spent, a seventeenth window for one to close (05 R72, R74). -/
def Req.waits (q : Req) (c : Ctx) : Bool :=
  c.sp.windows.any (fun w => !w.ready && !(w.re && w.under) && (q.ctrl || (w.left == 0 && q.vr.any w.covers))) ||
  (q.look != 0 && decide (16 ≤ (c.sp.windows.filter fun w => !(w.ready && w.left == 0)).length))

/-- Windows whose result is due are written and closed: all of them before a control transfer (05 R72). -/
def Ctx.settle (c : Ctx) (q : Req) : Ctx :=
  if c.sp.windows.isEmpty then c
  else
    let g := c.gr.closeReady c.who.si fun w => q.ctrl || w.left == 0
    { c with gr := g, sp := (g.splits[c.who.si]?).getD c.sp, co := c.co.updGr c.who.gi fun _ => g }

/-- An SC operation or an acquire of a lane that the word's accesses would overtake is not yet performed (13 R205, R206, R208,
R209, Tables 13.10 to 13.14: every pair with an earlier SC or Acq is kept). An ordered operation does not overtake: it joins
those held (R211). -/
def State.scHeld (s : State) (q : Req) (c : Ctx) : Bool :=
  (q.mem || q.reads) && !q.unordered &&
  ((s.sc.any fun o => o.who.co == c.who.co && o.who.gi == c.who.gi && c.sp.mask.getLsbD o.lane) ||
   (!(q.joins && c.co.ordered) && s.ords.any fun o => o.who.co == c.who.co && o.who.gi == c.who.gi && c.sp.mask.getLsbD o.lane &&
      (o.op == 12 || decide (14 ≤ o.op))))

/-- An atomic operation returns a value (15 Table 15.2). -/
def atomReturns (op : Nat) : Bool := op ≤ 8 || op == 12 || op == 14 || op == 15

/-- The cycles that a split has been ready without being issued (07 R116). -/
def State.starved (s : State) (w : Who) : Nat := ((s.starve.find? fun p => p.1 == w).map fun p => p.2).getD 0

/-- A release waits for the write-back of a dirty line that no link port can carry (13 R206; 25 R347). -/
def State.relHeld (s : State) (q : Req) (c : Ctx) : Bool := q.rel && (s.clusterOf c.co).any s.unbacked

/-- A split that cannot issue now, and why; it issues no more in a skid, since a halted group waits for no split (21 R291). -/
def State.stall (s : State) (w : Who) (why : Stall) : State :=
  { s with stalled := w :: s.stalled }.updSp w fun x => { x with skids := false, why := why }

/-- A window of the split waits for the value of a held ordered operation (13 R211). -/
def State.windowHeld (s : State) (w : Who) (y : Window) : Bool :=
  !y.ready && s.ords.any fun o => o.who == w && o.ord == y.ord && atomReturns o.op

/-- Why a word waits before its own conditions are looked at: at an ordered operation that returns a value, whose register it names
after the window, or as a control transfer, or as a seventeenth window; or whose performing it would overtake (13 R211; log entry
97). -/
def State.whyWaits (s : State) (q : Req) (c : Ctx) : Stall :=
  if s.scHeld q c || c.sp.windows.any (fun y => s.windowHeld c.who y &&
      (q.ctrl || (y.left == 0 && q.vr.any y.covers) || (q.look != 0 && decide (16 ≤ c.sp.windows.length)))) then .order else .other

/-- Time for an issue passes (log entry 2). -/
def State.tick (s : State) : State := { s with time := max (s.time + Config.cycles s.free) s.after, free := s.free + 1 }

/-- What an issue counts in its group: marks (07 R106), skid (21 R291), the window counts (05 R72). -/
def Group.enter (g : Group) (q : Req) (c : Ctx) : Group :=
  let g1 := { g with
    marks := if c.sp.nfirst then g.marks ||| c.sp.mask else g.marks,
    left := if g.halt && !c.sp.handler && !q.hint then g.left - 1 else g.left,
    skid := if g.halt && !c.sp.handler && !q.hint then g.skid + 1 else g.skid }
  g1.updSp c.who.si fun x => { x with
    landed := false, boosted := false, why := .other,
    windows := if q.ctrl || q.hint then x.windows else x.windows.map fun w => if w.under then w else { w with left := w.left - 1 } }

/-- The counters s, d and m (07 Table 7.3). -/
def Counters.enter (k : Counters) (q : Req) (c : Ctx) : Counters :=
  { k with s := k.s + 1, d := if 1 < c.gr.liveCount then k.d + 1 else k.d, m := if q.mem then k.m + 1 else k.m }

/-- What each issue counts. -/
def State.enter (s : State) (q : Req) (c : Ctx) : State :=
  let s1 := ({ s with stalled := [] }.tick).updCo c.who.co fun co =>
    { co.updGr c.who.gi fun g => g.enter q c with ctr := co.ctr.enter q c }
  if q.mem && !c.co.isHF then s1.updCell (s1.pcell c.co.lcell) fun x => x.countMem s1.time else s1

/-- Repetitions of the target under `hint.rep` (05 R78). -/
def Hints.count (h : Hints) : Nat := match h.rep with
  | none => 1
  | some w => bits w 16 6 + 1

/-- The word is the last of its repetitions or codes (05 R78, R80). -/
def Split.last (x : Split) : Bool :=
  if x.codes.isEmpty then decide (x.hints.count ≤ x.pos.toNat + 1) else decide (x.codes.length ≤ x.pos.toNat + 1)

/-- The split goes on: the next repetition, the next code, or the next word (05 R82). A split whose wait ends was not ready,
and issues no more in a skid (21 R291). -/
def Split.next (x : Split) : Split :=
  if x.last then { x with pc := x.pc + 4, pos := 0, chain := [], codes := [], wait := .none, skids := x.skids && x.wait == .none }
  else { x with pos := x.pos + 1, wait := .none, skids := x.skids && x.wait == .none }

/-- A split that is not chosen before a time, and so issues no more in a skid (05 R68, 11 R164; 21 R291). -/
def Split.pauseTo (x : Split) (t : Nat) : Split := { x with pauseEnd := max x.pauseEnd t, skids := false }

/-- Where the split stands after a word; after the last repetition of a word under YLD it pauses for 16 cycles (05 R68, R78). -/
def State.leave (s : State) (q : Req) (c : Ctx) : State :=
  s.updSp c.who fun x =>
    let y := if q.hold then x else x.next
    if c.h.yld && c.sp.last then y.pauseTo (s.nowOf c.who.co + 16) else y

/-- The one way a word issues: wait, check, take effect, go on. `stall` says when it waits for something of its own,
`check` the trap it takes with no effect, `eff` its effect, `post` what follows a completed effect. A trap of the word itself comes
before one for payload bits of its IMM hints above bit 31 (05 R65), which its own check makes: the spec gives no order of the two
(DESIGN CHOICE, log entry 151). -/
def issueAt (q : Req) (stall : Ctx → State → Bool) (check : Ctx → State → Option Trap) (eff post : Ctx → State → State)
    (s : State) (c0 : Ctx) : State :=
  if q.waits c0 || s.scHeld q c0 || s.relHeld q c0 then s.stall c0.who (s.whyWaits q c0)
  else
    let c := c0.settle q
    let s1 := if c0.sp.windows.isEmpty then s else s.updGr c.who fun _ => c.gr
    match q.reject c with
    | some t => s1.raise c q.word t
    | none =>
      if stall c s1 then s.stall c0.who (if stall c { s1 with ords := [] } then q.why else .order)
      else match check c s1 with
        | some t => s1.raise c q.word t
        | none => post c ((eff c (s1.enter q c)).leave q c)

/-- The first trap of two. -/
def orTrap (a : Option Trap) (b : Option Trap) : Option Trap := match a with
  | some t => some t
  | none => b

def issueFull (q : Req) (stall : Ctx → State → Bool) (check : Ctx → State → Option Trap) (eff post : Ctx → State → State)
    (s : State) : Host.Outcome State Fault Refusal :=
  match s.ctx? with
  | none => .fault .noIssuer
  | some c => .next (issueAt q stall check eff post s c)

/-- A word that waits for nothing of its own and has nothing to do afterwards. -/
def issue (q : Req) (check : Ctx → State → Option Trap) (eff : Ctx → State → State) (s : State) :
    Host.Outcome State Fault Refusal :=
  issueFull q (fun _ _ => false) check eff (fun _ s => s) s

/-- A word that only changes its group's registers. -/
def issueReg (q : Req) (f : Ctx → Group → Group) (s : State) : Host.Outcome State Fault Refusal :=
  issue q (fun _ _ => none) (fun c s => s.updGr c.who (f c)) s

/-- Per-lane effect on one vector register (09 R126). -/
def vlanes (g d : Nat) (f : Ctx → Group → Nat → Word) (c : Ctx) (gr : Group) : Group :=
  gr.writeV (lanesOf (c.part g)) d (f c gr)

/-- Per-lane effect on a pair. -/
def vlanes2 (g d : Nat) (f : Ctx → Group → Nat → BitVec 64) (c : Ctx) (gr : Group) : Group :=
  let ls := lanesOf (c.part g)
  (gr.writeV ls d fun l => (f c gr l).extractLsb' 0 32).writeV ls (d + 1) fun l => (f c gr l).extractLsb' 32 32

/-- Add a window, or write at once when the lookahead count is 0 and the value is there (05 R72). -/
def Group.result (g : Group) (si : Nat) (w : Window) : Group :=
  if w.left = 0 ∧ w.ready then { g with v := w.vals.foldl (fun v e => Sparse.set 0 v e.1 e.2) g.v }
  else g.updSp si fun x => { x with windows := x.windows ++ [w] }

/-- The order of the next window of a split. -/
def Split.nextOrd (x : Split) : Nat := (x.windows.map fun w => w.ord + 1).foldl max 0

/-- A window for a word: its first register, its number of registers and its lookahead count. -/
def Ctx.window (c : Ctx) (q : Req) (dst nreg : Nat) (pm : Word) : Window :=
  { dst := BitVec.ofNat 7 dst, nreg := nreg, left := q.look, ready := true, word := BitVec.ofNat 32 q.word,
    pc := c.sp.resume.1, pos := c.sp.pos, ord := c.sp.nextOrd, pmask := pm }

/-- Values by 32 × register + lane. -/
def laneVals (ls : List Nat) (regs : List Nat) (f : Nat → Nat → Word) : Sparse Word :=
  regs.flatMap fun r => ls.map fun l => (32 * r + l, f r l)

end Sys2Proof.Machine
end

