-- ==== Sys2Proof/Machine/Assay.lean ====
section
/-! DEFINITION. The Assay: log entries, digest contexts, watchpoints (23.1, 23.2, 23.4). -/
namespace Sys2Proof.Machine

/-! ### Logs (23 R321 to R324) -/

/-- Log registers of a die (23 Table 23.4). -/
def State.alogW (s : State) (d : Nat) : Nat := (s.reg (dieReg d 0x0410)).toNat
def State.alogRsv (s : State) (d : Nat) : Nat := bits (s.reg (dieReg d 0x0430)) 0 32

/-- Kind k is recorded on a die. -/
def State.kindOn (s : State) (d k : Nat) : Bool := bit (s.reg (dieReg d 0x0420)) k

/-- F, the free entries (23 R321). -/
def State.logFree (s : State) (d : Nat) : Int :=
  (bits (s.reg (dieReg d 0x0408)) 0 32 : Int) - (s.alogW d - (s.reg (dieReg d 0x0418)).toNat) - s.alogRsv d

/-- Reserve, or with a negative number release, entries (23 R324). -/
def State.logReserve (s : State) (d : Nat) (n : Int) : State :=
  s.setReg (dieReg d 0x0430) (BitVec.ofNat 64 (((s.alogRsv d : Int) + n).toNat % 2 ^ 32))

/-- An entry of 23 Table 23.5: payload above bit 96. -/
def logEntry (seq kind die lcell ltag pay : Nat) : Nat :=
  seq % 2 ^ 64 + kind * 2 ^ 64 + die * 2 ^ 68 + lcell % 2 ^ 10 * 2 ^ 70 + ltag % 2 ^ 16 * 2 ^ 80 + pay % 2 ^ 160 * 2 ^ 96

/-- Write one entry of an enabled kind, raising ALOGW (23 R322); nothing for a kind that is off (R323). -/
def State.logWrite (s : State) (d kind lcell : Nat) (ltag : BitVec 16) (pay : Nat) : State :=
  if !s.kindOn d kind then s
  else
    let w := s.alogW d
    let n := bits (s.reg (dieReg d 0x0408)) 0 32
    let s1 := if n = 0 then s
      else s.dieWrite d (bits (s.reg (dieReg d 0x0400)) 0 56 + 32 * (w % n)) (bytesOf 32 (logEntry w kind d lcell ltag.toNat pay)) 0
    s1.setReg (dieReg d 0x0410) (BitVec.ofNat 64 (w + 1))

/-- LOG_FULL for the lowest of the needed kinds that has no room (23 R324): kinds with their numbers of entries. -/
def State.logRoom (s : State) (d : Nat) (needs : List (Nat × Nat)) : Option Trap :=
  let on := needs.filter fun p => s.kindOn d p.1 && p.2 != 0
  let need : Nat := (on.map fun p => p.2).sum
  match on.head? with
  | none => none
  | some p => if s.logFree d < (need : Int) then
      some { code := LOG_FULL, detail := BitVec.ofNat 48 (p.1 + (s.logFree d).toNat % 2 ^ 32 * 2 ^ 16) } else none

/-! ### Queues of a cell (07 R119) -/

/-- The queue of an engine's commands. -/
def Engine.queue : Engine → Nat
  | .matrix => 0
  | .copy => 1
  | .gather => 1
  | .coll => 4

/-- A group has posted a Sluice value whose item is not closed: its request holds an entry of queue 2 (19 R279; log entry 61). -/
def Cohort.posted (c : Cohort) (gidx : Nat) : Bool :=
  c.sets.any fun st => st.exp.any fun e => e.recvs.any fun r => r.g == gidx && r.posted.isSome

/-- The cohort has been saved: its block holds what was in its cell (21 R300). -/
def Cohort.isSaved (c : Cohort) : Bool := match c.status with
  | .saved _ _ => true
  | _ => false

/-- Entries of queue q that a physical cell holds: those of its cohorts' commands, and the Sluice requests of their groups. The
commands of a saved cohort stand in its block, but for collectives, which go on (17 R238; 21 R310). A log entry passes through queue
3 as its instruction issues (log entry 61). -/
def State.queueUsed (s : State) (cell q : Nat) : Nat :=
  (s.cmds.filter fun m => m.eng.queue == q && !m.done && (m.co.bind s.cohort?).any fun c =>
    !c.isHF && s.pcell c.lcell == cell && !(c.isSaved && m.eng != .coll)).length +
  if q = 2 then ((s.cohorts.filter fun c => !c.isHF && s.pcell c.lcell == cell && !c.isSaved).map fun c =>
    (c.groups.filter fun g => c.posted g.index).length).sum else 0

def State.qmin (s : State) (cell q : Nat) : Nat := bits (s.reg (cellReg cell (8 * q))) 0 9
def State.qcap (s : State) (cell q : Nat) : Nat := bits (s.reg (cellReg cell (8 * q))) 16 9

/-- An entry of queue q can be obtained. -/
def State.queueRoom (s : State) (cell q : Nat) : Bool :=
  let used := s.queueUsed cell q
  decide (used < s.qmin cell q) ||
  (decide (used < s.qcap cell q) &&
   decide (((List.range 5).map fun j => max (s.queueUsed cell j) (if j = q then 0 else s.qmin cell j)).sum < 512))

/-- A queue entry is lacking for a cohort's word; a Headframe core has no queues. -/
def State.queueFull (s : State) (c : Cohort) (q : Nat) : Bool := !c.isHF && !s.queueRoom (s.pcell c.lcell) q

/-- A word that makes log entries of some kinds: besides what `check` says of their room in the log, it needs an entry of queue 3 of
its cell, and stalls while it cannot have one (07 R119). -/
def issueLog (q : Req) (kinds : Ctx → State → List (Nat × Nat)) (stall : Ctx → State → Bool) (check : Ctx → State → Option Trap)
    (eff post : Ctx → State → State) (s : State) : Host.Outcome State Fault Refusal :=
  issueFull q (fun c s => stall c s || ((check c s).isNone && (kinds c s).any (fun p => s.kindOn c.co.die p.1 && p.2 != 0) &&
    s.queueFull c.co 3)) check eff post s

/-! ### Digests (23 R327 to R329) -/

def mix (x : BitVec 64) : BitVec 64 :=
  let a := (x ^^^ (x >>> 32)) * 0x8E5C37A1F26D0B49#64
  let b := (a ^^^ (a >>> 29)) * 0xE7D31B8549A6C2F5#64
  b ^^^ (b >>> 32)

/-- Fold (23 R329). -/
def DigestCtx.fold (c : DigestCtx) (addr w data : Nat) : DigestCtx :=
  let d1 := mix (c.d ^^^ BitVec.ofNat 64 addr ^^^ BitVec.ofNat 64 (w * 2 ^ 56))
  let d2 := mix (d1 + BitVec.ofNat 64 data)
  let d3 := mix (d2 + BitVec.ofNat 64 (data / 2 ^ 64))
  { c with d := mix (d3 ^^^ c.x), x := c.x + 1 }

/-- Digest slot registers (23 Table 23.8). -/
def dgNode (n : Nat) : Nat := 0x0600 + 32 * n
def dgArea (n : Nat) : Nat := 0x0608 + 32 * n
def dgCtl (n : Nat) : Nat := 0x0610 + 32 * n

/-- The digest slot of a cohort's launch; none when it is not digested. -/
def State.dslotOf (s : State) (c : Cohort) : Option Nat := (c.launch.bind s.launch?).bind fun l => l.dslot

/-- Add to a 64-bit word of a digest area, at its home. -/
def State.addHome (s : State) (key : Nat) (h : BitVec 64) : State :=
  s.hubWrite key (bytesOf 8 ((s.homeRead key 8 + h.toNat) % 2 ^ 64)) 0

/-- CloseCtx (23 R329). -/
def State.closeCtx (s : State) (n : Nat) (sigma : Nat) (c : DigestCtx) : State :=
  let h := mix ((mix (mix c.a + c.b)) ^^^ c.d)
  let base := bits (s.reg (dgArea n)) 0 56
  let s1 := s.addHome base h
  if bit (s.reg (dgCtl n)) 1 then
    let r := if 6 ≤ sigma then c.a.toNat / 2 ^ (sigma - 6) else c.a.toNat
    s1.addHome (base + 0x40 + 8 * (r % 64)) h
  else s1

/-- Close the current context of a lane, when it has one; the suspended one becomes current (23 R328). -/
def State.closeLane (s : State) (co gi l : Nat) : State :=
  match s.cohort? co with
  | none => s
  | some c =>
    match c.groups[gi]? with
    | none => s
    | some g =>
      let s1 := match s.dslotOf c, Sparse.get none g.dg l with
        | some n, some k => s.closeCtx n (hSigma c.hdr) k
        | _, _ => s
      s1.updCo co fun c => c.updGr gi fun g =>
        { g with dg := Sparse.set none g.dg l (Sparse.get none g.dgIter l), dgIter := Sparse.set none g.dgIter l none }

/-- Open a context for a lane; `suspend` keeps the current one for later. -/
def Group.openCtx (g : Group) (l : Nat) (a b : BitVec 64) (suspend : Bool) : Group :=
  { g with
    dgIter := if suspend then Sparse.set none g.dgIter l (Sparse.get none g.dg l) else g.dgIter
    dg := Sparse.set none g.dg l (some { a := a, b := b }) }

/-- Fold an event of a lane into its current context (23 R329). -/
def Group.foldCtx (g : Group) (l addr w data : Nat) : Group :=
  { g with dg := Sparse.set none g.dg l ((Sparse.get none g.dg l).map fun c => c.fold addr w data) }

/-! ### Watchpoints (23 R315 to R317) -/

/-- One lane's access: lane, address or scratch offset, bytes. -/
structure Acc where
  lane : Nat
  addr : Nat
  len : Nat
  deriving DecidableEq, Repr

/-- Watchpoint n of cluster k matches an access of a cohort (23 R316). -/
def State.wpHits (s : State) (k n : Nat) (c : Cohort) (scratch wr rd : Bool) (a : Acc) : Bool :=
  let ctl := s.reg (cluReg k (0x0408 + 16 * n))
  let lo := bits (s.reg (cluReg k (0x0400 + 16 * n))) 0 56
  let space := bits ctl 2 2
  bit ctl 0 && ((bit ctl 4 && wr) || (bit ctl 5 && rd)) &&
  (if scratch then space == 1 else space == 0 || (space == 2 && c.root == .vd (bits ctl 44 4))) &&
  (!bit ctl 13 || bits ctl 48 16 == c.ltag.toNat) &&
  decide (lo < a.addr + a.len) && decide (a.addr < lo + 2 ^ bits ctl 6 5)

/-- The watchpoints that an instruction hits, with the lowest lane that hits each. -/
def State.wpAll (s : State) (c : Cohort) (scratch wr rd : Bool) (as : List Acc) : List (Nat × Acc) :=
  match s.clusterOf c with
  | none => []
  | some k => (List.range 8).filterMap fun n => (as.find? (s.wpHits k n c scratch wr rd)).map fun a => (n, a)

/-- What a hit does after the instruction (23 R317). -/
def wpAct (hits : List (Nat × Acc)) (scratch wr rd : Bool) (word : Nat) (c : Ctx) (s : State) : State :=
  match hits, s.clusterOf c.co with
  | (n, a) :: _, some k =>
    let s1 := s.logWrite (k / 16) 6 c.co.lcell c.co.ltag
      (c.co.cseq % 2 ^ 48 + n * 2 ^ 48 + (if wr then 2 ^ 51 else 0) + c.gr.index % 16 * 2 ^ 52 + a.lane * 2 ^ 56 +
       a.addr % 2 ^ 56 * 2 ^ 61 + (if scratch then 2 ^ 117 else 0))
    let s2 := hits.foldl (fun s p => s.setReg (cluReg k 0x0488) (s.reg (cluReg k 0x0488) ||| BitVec.ofNat 64 (2 ^ (8 + p.1)))) s1
    let act := bits (s2.reg (cluReg k (0x0408 + 16 * n))) 11 2
    let s3 := if act = 0 then s2 else s2.raise c word
      { code := WATCHPOINT, lane := some a.lane, addr := BitVec.ofNat 64 a.addr, after := true,
        detail := BitVec.ofNat 48 (n + (if wr then 8 else 0) + (if rd then 16 else 0)) }
    if act = 2 then s3.stopCluster k else s3
  | _, _ => s

end Sys2Proof.Machine
end

