-- ==== Sys2Proof/Machine/Flags.lean ====
section
/-! DEFINITION. Conditions, predicates and saturation: what a compare finds, how predicates combine, how an integer result
is narrowed. The part has no flag register (03 R25, R32). -/
namespace Sys2Proof.Machine

/-- Signed and unsigned values S(x), N(x) (09.1). -/
def sv (x : Word) : Int := x.toInt
def nv (x : Word) : Nat := x.toNat

/-- Wrap to 32 bits, or clamp to `.s32` under SAT (09 R131). -/
def narrow (sat : Bool) (x : Int) : Word := BitVec.ofInt 32 (if sat then satS 32 x else x)

/-- The same for 64 bits. -/
def narrow64 (sat : Bool) (x : Int) : BitVec 64 := BitVec.ofInt 64 (if sat then satS 64 x else x)

/-- Condition codes 0 to 5 of 09 Table 9.2, given equality and less-than. -/
def condOf (cc : Nat) (eq lt : Bool) : Bool :=
  match cc with
  | 0 => eq
  | 1 => !eq
  | 2 => lt
  | 3 => lt || eq
  | 4 => !(lt || eq)
  | _ => !lt

/-- `icmp.s32` (09 Table 9.2). -/
def condS (cc : Nat) (a b : Word) : Bool := condOf cc (a == b) (sv a < sv b)

/-- `icmp.n32` (09 Table 9.2). -/
def condN (cc : Nat) (a b : Word) : Bool := condOf cc (a == b) (nv a < nv b)

/-- The combine field cm of a predicate write (09 R135). -/
def combine (cm : Nat) (p t : Bool) : Bool :=
  match cm with
  | 0 => t
  | 1 => p && t
  | 2 => p || t
  | _ => p ^^ t

/-- The functions of `plog` (09 R136). -/
def plogFn (cc : Nat) (a b : Bool) : Bool :=
  match cc with
  | 0 => a && b
  | 1 => a || b
  | 2 => a ^^ b
  | 3 => a && !b
  | 4 => !(a && b)
  | 5 => !(a || b)
  | 6 => !(a ^^ b)
  | _ => a || !b

/-- Write a predicate in the participating lanes, combined with its old value (09 R135). -/
def Group.combineP (g : Group) (m : Word) (pd cm : Nat) (t : Nat → Bool) : Group :=
  g.setP pd m (maskIf m fun l => combine cm ((g.getP pd).getLsbD l) (t l))

/-- The test of `brs` against 0 (11 R154). -/
def brsCond (cc : Nat) (x : Word) : Bool := condOf cc (x == 0) (sv x < 0)

end Sys2Proof.Machine
end

