-- ==== Sys2Proof/Machine/Control.lean ====
section
/-! DEFINITION. Branches, calls, divisions, joins, pops, yields and barriers (11.1 to 11.4). -/
namespace Sys2Proof.Machine

/-! ### Targets and divisions -/

/-- PROTECTION for a target that is negative or does not fit in 56 bits; ADDR is the target as formed (13 R358). -/
def badTarget (t : Int) (lane : Option Nat) : Option Trap :=
  if 0 ≤ t ∧ t < 2 ^ 56 then none else some { code := PROTECTION, addr := BitVec.ofInt 64 t, lane := lane }

/-- A split goes to a PC. -/
def Split.goto (x : Split) (t : Int) : Split :=
  { x with pc := BitVec.ofInt 56 t, pos := 0, chain := [], codes := [], landed := true }

/-- A split goes on at the next word, its wait over. -/
def Split.advance (x : Split) : Split :=
  { x with pc := x.pc + 4, pos := 0, chain := [], codes := [], wait := .none, skids := x.skids && x.wait == .none }

/-- The lowest free split indexes. -/
def Group.freeSplits (g : Group) : List Nat := (List.range g.splits.length).filter fun i => match g.splits[i]? with
  | some x => !x.live
  | none => false

/-- The split is the only live one and owns no entry (11 R155). -/
def Group.alone (g : Group) (si : Nat) : Bool := g.liveCount == 1 && !g.stack.any fun e => e.owner == some si

/-- Splits that a division of k parts forms at once: m of 11 R155, 1 when it serialises. -/
def Group.parts (g : Group) (si k : Nat) : Nat := if g.alone si then min k 4 else 1

/-- A division needs more entries than the stack has room for (11 R149, R155). -/
def Group.noRoom (g : Group) (si k : Nat) : Bool := decide (64 < g.stack.length + (k - g.parts si k))

/-- Divide (11 R155): pairs of PC and lane set, the first pair first. The split that divides goes on with the first pair and stays a
first split or not, as it was: 11 R152 does not say what it is when it was not first (DESIGN CHOICE, log entry 152). -/
def Group.divide (g : Group) (si : Nat) (l : List (Int × Word)) : Group :=
  match l with
  | [] => g
  | (t, n) :: rest =>
    let k := l.length
    let m := g.parts si k
    let own := if g.alone si then none else some si
    let nf := match g.splits[si]? with
      | some x => x.handler
      | none => false
    let defer (p : Int × Word) : StackEntry :=
      { kind := .defer, owner := own, mask := p.2, pos := 0, pc := BitVec.ofInt 56 p.1 }
    let g1 := g.updSp si fun x => { x.goto t with mask := n }
    let g2 := ((rest.take (m - 1)).zip g1.freeSplits).foldl (fun g (p : (Int × Word) × Nat) => g.updSp p.2 fun _ =>
      { live := true, pc := BitVec.ofInt 56 p.1.1, mask := p.1.2, nfirst := true, handler := nf }) g1
    { g2 with stack := (rest.drop (m - 1)).map defer ++ g2.stack }

/-- A control transfer to destinations found from the split: one is a jump, several a division (11 R153 to R157). -/
def branch (word : Nat) (vr : List Nat) (wf : Bool) (early : Ctx → Option Trap) (dests : Ctx → List (Int × Word))
    (also : Ctx → Group → Group) (s : State) : Host.Outcome State Fault Refusal :=
  issue { word := word, wf := wf, vr := vr, ctrl := true, hold := true, jumps := true }
    (fun c _ => match early c with
      | some t => some t
      | none => match (dests c).findSome? fun p => badTarget p.1 none with
        | some t => some { t with lane := if vr.isEmpty then none else
            (lanesOf c.sp.mask).find? fun l => (dests c).any fun p => p.2.getLsbD l && (badTarget p.1 none).isSome }
        | none => if 1 < (dests c).length ∧ c.gr.noRoom c.who.si (dests c).length then
            some { code := STACK_SPILL_FAULT, detail := 64 } else none)
    (fun c s => s.updGr c.who fun g => (also c g).divide c.who.si (match dests c with
      | [p] => [(p.1, c.sp.mask)]
      | l => l)) s

/-- PC + 4 × offset. -/
def Ctx.rel (c : Ctx) {n : Nat} (o : BitVec n) : Int := c.sp.pc.toNat + 4 * o.toInt

/-- The next word. -/
def Ctx.fall (c : Ctx) : Int := c.sp.pc.toNat + 4

/-- `br` (11 R153): modes any, all, none. -/
def brWhole (word : Nat) (x : BR) (take : Word → Word → Bool) (s : State) : Host.Outcome State Fault Refusal :=
  branch word [] true (fun _ => none)
    (fun c => let n := c.sp.mask
              [(if take (n &&& c.gr.getP x.p.toNat) n then c.rel x.o else c.fall, n)]) (fun _ g => g) s

/-- `br.any` (11 R153): taken when the predicate holds in some lane. -/
def execBrAny (x : BR) (s : State) : Host.Outcome State Fault Refusal := brWhole (encBrAny x) x (fun t _ => t != 0) s

/-- `br.all` (11 R153): taken when the predicate holds in every lane. -/
def execBrAll (x : BR) (s : State) : Host.Outcome State Fault Refusal := brWhole (encBrAll x) x (fun t n => t == n) s

/-- `br.none` (11 R153): taken when the predicate holds in no lane. -/
def execBrNone (x : BR) (s : State) : Host.Outcome State Fault Refusal := brWhole (encBrNone x) x (fun t _ => t == 0) s

/-- `br.uni` (11 R153): each lane follows its own predicate. -/
def execBrUni (x : BR) (s : State) : Host.Outcome State Fault Refusal :=
  branch (encBrUni x) [] true (fun _ => none)
    (fun c =>
      let n := c.sp.mask
      let t := n &&& c.gr.getP x.p.toNat
      if t = n then [(c.rel x.o, n)] else if t = 0 then [(c.fall, n)] else [(c.rel x.o, t), (c.fall, n &&& ~~~t)])
    (fun _ g => g) s

/-- `brs` (11 R154): the whole split moves on a test of a scalar register against 0; codes 0 to 5. -/
def execBrs (cc : BitVec 3) (r : BitVec 6) (o : BitVec 16) (s : State) : Host.Outcome State Fault Refusal :=
  branch (encBrs cc r o) [] (decide (cc.toNat ≤ 5)) (fun _ => none)
    (fun c => [(if brsCond cc.toNat (c.gr.getS r.toNat) then c.rel o else c.fall, c.sp.mask)]) (fun _ g => g) s

/-- `jmp` (11 R154). -/
def execJmp (o : BitVec 16) (s : State) : Host.Outcome State Fault Refusal :=
  branch (encJmp o) [] true (fun _ => none) (fun c => [(c.rel o, c.sp.mask)]) (fun _ g => g) s

/-- The offset at which a lane of `brx` goes on (11 R156). -/
def Ctx.offset (c : Ctx) (a l : Nat) : Nat := (c.gr.getV a l).toNat

/-- The targets of `brx`, ranked by their lowest lane, with their lanes (11 R157). -/
def Ctx.brxDests (c : Ctx) (a : Nat) : List (Int × Word) :=
  let ls := lanesOf c.sp.mask
  if ls.isEmpty then [(c.fall, c.sp.mask)]
  else (ls.map (c.offset a)).eraseDups.map fun t =>
    ((c.co.kb + t : Nat), maskOf (ls.filter fun l => c.offset a l == t))

/-- `brx va` (11 R157): per-lane targets; with no lane, the next word (log entry 18). -/
def execBrx (a : BitVec 7) (s : State) : Host.Outcome State Fault Refusal :=
  branch (encBrx a) [a.toNat] true
    (fun c => ((lanesOf c.sp.mask).find? fun l => c.offset a.toNat l % 4 != 0).map fun l => { code := ALIGNMENT, lane := some l })
    (fun c => c.brxDests a.toNat) (fun _ g => g) s

/-- ALIGNMENT for an offset whose bits [1:0] are not zero (11 R156). -/
def misaligned (x : Word) : Option Trap := if x.toNat % 4 = 0 then none else some { code := ALIGNMENT }

/-- `call sA, sL` (11 R156): the return offset and the target both come from values read before the write. -/
def execCall (a l : BitVec 6) (s : State) : Host.Outcome State Fault Refusal :=
  branch (encCall a l) [] true (fun c => misaligned (c.gr.getS a.toNat))
    (fun c => [((c.co.kb + (c.gr.getS a.toNat).toNat : Nat), c.sp.mask)])
    (fun c g => g.setS l.toNat (BitVec.ofInt 32 (c.fall - c.co.kb))) s

/-- `ret sL` (11 R156). -/
def execRet (l : BitVec 6) (s : State) : Host.Outcome State Fault Refusal :=
  branch (encRet l) [] true (fun c => misaligned (c.gr.getS l.toNat))
    (fun c => [((c.co.kb + (c.gr.getS l.toNat).toNat : Nat), c.sp.mask)]) (fun _ g => g) s

/-! ### Joins (11 R159 to R163) -/

/-- Replace one entry. -/
def Group.putEntry (g : Group) (e e' : StackEntry) : Group := { g with stack := g.stack.replace e e' }

/-- The split waits matched at an entry: it waits in `join` or `waitj` at its PC, and its lanes have arrived (11 R160). -/
def Group.waitsAt (g : Group) (i : Nat) (x : Split) (e : StackEntry) : Bool :=
  x.live && (match x.wait with
    | .join => true
    | .waitj _ _ => true
    | _ => false) && g.join? i == some e && x.pc == e.pc && (x.mask &&& ~~~e.arr) == 0

/-- The splits waiting matched at an entry, ascending. -/
def Group.waiters (g : Group) (e : StackEntry) : List Nat :=
  ((g.splits.zipIdx).filter fun p => g.waitsAt p.2 p.1 e).map fun p => p.2

/-- A `waitj` predicate is written in the lanes of a split (11 R161). -/
def Group.setWaitj (g : Group) (i : Nat) (v : Bool) : Group :=
  match g.splits[i]? with
  | some x => match x.wait with
    | .waitj pd _ => g.setP pd.toNat x.mask (if v then BitVec.allOnes 32 else 0)
    | _ => g
  | none => g

/-- Complete(E) (11 R160): the waiting splits merge into the lowest of them; lanes that arrived and handed over with no
split left to wait form a split at the lowest free index (log entry 19). -/
def Group.complete (g : Group) (e : StackEntry) : Group :=
  let ws := g.waiters e
  let g1 := ws.foldl (fun g i => g.setWaitj i true) g
  let g2 := g1.popEntry e
  match ws with
  | k :: rest =>
    (rest.foldl (fun g i => g.updSp i fun _ => {}) g2).updSp k fun x => { x.advance with mask := e.mask, nfirst := false }
  | [] => match g2.freeSplits with
    | k :: _ => g2.updSp k fun _ => { live := true, pc := e.pc + 4, mask := e.mask }
    | [] => g2

/-- The split takes a DEFER entry (11 R152, R160). -/
def Group.takeDefer (g : Group) (si : Nat) (e : StackEntry) : Group :=
  (g.popEntry e).updSp si fun x => { x with pc := e.pc, pos := e.pos, mask := e.mask, nfirst := true, handler := false,
                                            wait := .none, chain := [], codes := [], landed := true }

/-- Arrive (11 R160) in a wait of kind w. -/
def Group.arrive (g : Group) (si : Nat) (w : Wait) : Group :=
  match g.join? si, g.top? si, g.splits[si]? with
  | some j, some e, some x =>
    if j.pc ≠ x.pc then g.updSp si fun x => { x with wait := w }
    else if e.kind = .defer then (g.putEntry j { j with arr := j.arr ||| x.mask }).takeDefer si e
    else
      let j' := { j with arr := j.arr ||| x.mask }
      let g1 := (g.putEntry j j').updSp si fun x => { x with wait := w }
      if j'.arr = j'.mask then g1.complete j' else g1
  | _, _, _ => g

/-- A `waitj` ends without its entry completing (11 R161). -/
def Group.waitjOut (g : Group) (si : Nat) : Group :=
  match g.splits[si]? with
  | none => g
  | some x =>
    let g1 := match g.join? si with
      | some j => if g.waitsAt si x j then g.putEntry j { j with arr := j.arr &&& ~~~x.mask } else g
      | none => g
    (g1.setWaitj si false).updSp si fun x => x.advance

/-- The splits of a group whose `waitj` ran out before a time leave it before anything arrives (11 R161). -/
def Group.expire (g : Group) (now : Nat) : Group :=
  ((g.splits.zipIdx).filter fun (p : Split × Nat) => p.1.live && (match p.1.wait with
    | .waitj _ t => decide (t < now)
    | _ => false)).foldl (fun g p => g.waitjOut p.2) g

/-- The split that a rejoin deadlock traps, with the ARR of its J (11 R163). -/
def Group.deadlocked (g : Group) : Option (Nat × Word) :=
  let live := (g.splits.zipIdx).filter fun p => p.1.live
  if live.isEmpty || live.any (fun p => p.1.handler || p.1.wait != .join) then none
  else
    match live.foldl (fun (b : Option (Split × Nat)) p => match b with
      | none => some p
      | some q => if p.1.pc < q.1.pc then some p else b) none with
    | none => none
    | some p => some (p.2, ((g.join? p.2).map (·.arr)).getD 0)

/-- Rejoin deadlock is looked for after every change of the waits of a group (11 R163). -/
def State.checkDeadlock (s : State) (w : Who) : State :=
  match s.group? w.co w.gi with
  | none => s
  | some g =>
    match g.deadlocked with
    | none => s
    | some (i, arr) =>
      let s1 := s.updGr w fun g => match g.splits[i]?, g.join? i with
        | some x, some j =>
          (if g.waitsAt i x j then g.putEntry j { j with arr := j.arr &&& ~~~x.mask } else g).updSp i fun x => { x with wait := .none }
        | _, _ => g.updSp i fun x => { x with wait := .none }
      match { s1 with focus := some { w with si := i } }.ctx? with
      | none => s
      | some c => { s1.raise { c with h := {} } encJoin { code := REJOIN_DEADLOCK, detail := arr.setWidth 48 } with focus := s.focus }

/-- `join` (11 R160). -/
def execJoin (s : State) : Host.Outcome State Fault Refusal :=
  issue { word := encJoin, ctrl := true, hold := true, noHandler := true }
    (fun c _ => if (c.gr.join? c.who.si).isNone then some { code := ILLEGAL } else none)
    (fun c s => (s.updGr c.who fun g => (g.expire (s.nowOf c.who.co)).arrive c.who.si .join).checkDeadlock c.who) s

/-- The split waits in `waitj`. -/
def Group.inWaitj (g : Group) (si : Nat) : Bool := match g.splits[si]? with
  | some x => (match x.wait with
    | .waitj _ _ => true
    | _ => false)
  | none => false

/-- Arrive in `waitj`, whose wait runs out after a time; n = 0 runs out at once (11 R161). -/
def Group.arriveWaitj (g : Group) (si : Nat) (p : BitVec 3) (n now : Nat) : Group :=
  let g1 := (g.expire now).arrive si (.waitj p (now + n))
  if n = 0 ∧ g1.inWaitj si = true then g1.waitjOut si else g1

/-- `waitj pD, n` (11 R160, R161). -/
def execWaitj (p : BitVec 3) (n : BitVec 19) (s : State) : Host.Outcome State Fault Refusal :=
  issue { word := encWaitj p n, ctrl := true, hold := true, noHandler := true }
    (fun c _ => if (c.gr.join? c.who.si).isNone then some { code := ILLEGAL } else none)
    (fun c s => (s.updGr c.who fun g => g.arriveWaitj c.who.si p n.toNat (s.nowOf c.who.co)).checkDeadlock c.who) s

/-- The cohort's groups are not halted for this group: its waits run (21 R291; 23 R318). -/
def State.runs (s : State) (w : Who) : Bool := match s.cohort? w.co with
  | none => false
  | some c => c.status == .resident && !s.stopped c && (match c.groups[w.gi]? with
    | none => false
    | some g => !g.halt)

/-- The timeout of a `waitj` passes (11 R161): the split leaves in the last cycle of the timeout, after any arrival of that cycle, which
would have taken precedence: no later issue falls in the cycle (log entry 51). -/
def execWaitjTimeout (w : Who) (s : State) : Host.Outcome State Fault Refusal :=
  .next (match s.split? w with
    | none => s
    | some x => match x.live && s.runs w, x.wait with
      | true, .waitj _ t =>
        ({ s with time := max s.time t, after := max s.after (t + 1), stalled := [] }.updGr w fun g => g.waitjOut w.si).checkDeadlock w
      | _, _ => s)

/-- `push label` (11 R159). A rejoin PC that 56 bits do not hold traps PROTECTION at the push, as a target of R358 would (log
entry 52). -/
def execPush (o : BitVec 20) (s : State) : Host.Outcome State Fault Refusal :=
  issue { word := encPush o, ctrl := true, hold := true }
    (fun c _ => match badTarget (c.rel o) none with
      | some t => some t
      | none => if 64 ≤ c.gr.stack.length then some { code := STACK_SPILL_FAULT, detail := 64 } else none)
    (fun c s => s.updGr c.who fun g =>
      ({ g with stack := { kind := .join, owner := g.ownerFor c.who.si, mask := c.sp.mask, pos := 0,
                           pc := BitVec.ofInt 56 (c.rel o) } :: g.stack }).updSp c.who.si fun x => x.advance) s

/-- The split's top entry, a JOIN entry, goes: its waiters and the split go on, unmerged (11 R162). -/
def Group.popJoin (g : Group) (si : Nat) : Group := match g.top? si with
  | none => g
  | some e => ((g.waiters e).foldl (fun g i => g.updSp i fun x => x.advance) (g.popEntry e)).updSp si fun x => x.advance

/-- `pop` (11 R162): a TRAP entry ends the trap; a JOIN entry releases its waiters unmerged. The predicate of a `waitj` so
released stays as it was, since R161 writes it at a completion and at a timeout alone (log entry 53). -/
def execPop (s : State) : Host.Outcome State Fault Refusal :=
  issue { word := encPop, ctrl := true, hold := true, jumps := true }
    (fun c _ => match c.gr.top? c.who.si with
      | none => some { code := ILLEGAL }
      | some e => if e.kind = .defer then some { code := ILLEGAL }
        else if e.kind = .join then badTarget c.fall none else none)
    (fun c s => match c.gr.top? c.who.si with
      | none => s
      | some e =>
        if e.kind = .trap then s.returnTrap c.who e
        else (s.updGr c.who fun g => (g.expire (s.nowOf c.who.co + 1)).popJoin c.who.si).checkDeadlock c.who) s

/-- `yield n` (11 R164): the split pauses. -/
def execYield (n : BitVec 10) (s : State) : Host.Outcome State Fault Refusal :=
  issue { word := encYield n, ctrl := true, hold := true } (fun _ _ => none)
    (fun c s => s.updSp c.who fun x => x.advance.pauseTo (s.nowOf c.who.co + 16 * (n.toNat + 1))) s

/-- A pause runs out: its cycles have passed (05 R68, 11 R164). -/
def execYieldPauseEnd (w : Who) (s : State) : Host.Outcome State Fault Refusal :=
  .next (match s.split? w with
    | some x => if x.live && decide (s.nowOf w.co < x.pauseEnd) && !((s.cohort? w.co).any s.stopped) then { s with time := x.pauseEnd, stalled := [] } else s
    | none => s)

/-- A split that has been ready for 256 cycles without being issued is boosted (07 R116). -/
def execSplitBoost (w : Who) (s : State) : Host.Outcome State Fault Refusal :=
  .next (match s.split? w with
    | some x => if x.live && !x.boosted && decide (256 ≤ s.starved w) then s.updSp w fun x => { x with boosted := true } else s
    | none => s)

/-! ### Barriers (11 R166 to R169) -/

/-- A group has arrived at the cohort barrier: it has finished, or each live split waits in `barc` (11 R167). -/
def Group.atBarc (g : Group) : Bool :=
  g.fin || (decide (0 < g.liveCount) && g.splits.all fun x => !x.live || x.wait == .barc)

/-- The cohort barrier opens when every dispatched group has arrived (11 R167). -/
def Cohort.checkBarc (c : Cohort) : Cohort :=
  if (c.groups.take c.ngroups).all Group.atBarc then
    c.mapSplits fun x => if x.live && x.wait == .barc then x.advance else x
  else c

/-- `barc` (11 R167). -/
def execBarc (s : State) : Host.Outcome State Fault Refusal :=
  issue { word := encBarc, ctrl := true, hold := true, noHandler := true } (fun _ _ => none)
    (fun c s => s.updCo c.who.co fun co => (co.updGr c.who.gi fun g => g.updSp c.who.si fun x => { x with wait := .barc }).checkBarc) s

/-- Fields of a barrier word (11 Table 11.4). -/
def bwPh (w : Word) : Nat := bits w 31 1
def bwExp (w : Word) : Nat := bits w 20 10
def bwCnt (w : Word) (q : Nat) : Nat := bits w (10 * q) 10

/-- The phases that end: counts return to 0 and PH turns, at most twice (11 R169). -/
def phaseEnds : Nat → Word → Nat × Word
  | 0, w => (0, w)
  | n + 1, w =>
    if bwCnt w (bwPh w) = bwExp w then
      let w1 := putBits (putBits w (10 * bwPh w) 10 0) 31 1 (1 - bwPh w)
      let (k, w2) := phaseEnds n w1
      (k + 1, w2)
    else (0, w)

/-- BarpArrive (11 R169): none for BARRIER_OVERRUN, else the ends awaited, the ends made and the new word. -/
def barpArrive (w : Word) (q : Nat) : Option (Nat × Nat × Word) :=
  if bit w 30 ∨ bwExp w = 0 ∨ bwExp w < bwCnt w 0 ∨ bwExp w < bwCnt w 1 then none
  else if q ≠ bwPh w ∧ bwCnt w q = bwExp w then none
  else
    let (k, w2) := phaseEnds 2 (putBits w (10 * q) 10 (bwCnt w q + 1))
    some (if q = bwPh w then 1 else 2, k, w2)

/-- Scratch bytes of a cohort (13 R178). -/
def Cohort.scratchBytes (c : Cohort) (a n : Nat) : List Byte := (List.range n).map fun j => Sparse.get 0 c.scratch (a + j)
def Cohort.scratchWrite (c : Cohort) (a : Nat) (bs : List Byte) : Cohort :=
  { c with scratch := (bs.zipIdx).foldl (fun m p => Sparse.set 0 m (a + p.2) p.1) c.scratch }
def Cohort.scratchWord (c : Cohort) (a : Nat) : Word := BitVec.ofNat 32 (ofBytes (c.scratchBytes a 4))

/-- Phase ends at a barrier word are told to the splits that wait on it (11 R169). -/
def Cohort.tellBarp (c : Cohort) (off k : Nat) : Cohort :=
  if k = 0 then c else c.mapSplits fun x => match x.wait with
    | .barp o n => if x.live ∧ o = off then (if n ≤ k then x.advance else { x with wait := .barp o (n - k) }) else x
    | _ => x

/-- An arrival at a barrier word; none when it overruns. -/
def Cohort.arriveAt (c : Cohort) (off q : Nat) : Option (Nat × Nat × Cohort) :=
  (barpArrive (c.scratchWord off) q).map fun r => (r.1, r.2.1, (c.scratchWrite off (bytesOf 4 r.2.2.toNat)).tellBarp off r.2.1)

/-- A completed wait at a word that is a command's completion word acquires: the cluster cache may hold older bytes than
the command's stores (17 R239; 13 R210). -/
def State.barpAcquire (s : State) (c : Cohort) (off : Nat) : State :=
  if c.cmdWords.contains off then s.acquire (s.clusterOf c) else s

/-- The trap of the lowest lane whose scratch read meets an uncorrectable error (21 R295; log entry 59). -/
def scratchSpoilt (c : Cohort) (w : Nat) (as : List (Nat × Int)) : Option Trap :=
  if c.badScr.isEmpty then none
  else (as.find? fun p => (List.range w).any fun j => c.badScr.contains ((p.2.toNat + j) / 32)).map fun p =>
    { code := ECC_UNCORRECTED, lane := some p.1, addr := BitVec.ofInt 64 p.2 }

/-- The same for a read that no lane is named for. -/
def scratchSpoiltAt (c : Cohort) (off w : Nat) : Option Trap := (scratchSpoilt c w [(0, (off : Int))]).map fun t => { t with lane := none }

/-- The checks of `barp`: ALIGNMENT, SCRATCH_BOUNDS, an uncorrectable error in the barrier word (21 R295), and for an arrival
BARRIER_OVERRUN (11 R168, R169) and room for a watchpoint entry (23 R324). -/
def barpCheck (a q : BitVec 6) (arrives : Bool) (c : Ctx) (s : State) : Option Trap :=
  let off := (c.gr.getS a.toNat).toNat
  if off % 4 ≠ 0 then some { code := ALIGNMENT, addr := BitVec.ofNat 64 off }
  else if c.co.z < off + 4 then some { code := SCRATCH_BOUNDS, addr := BitVec.ofNat 64 off }
  else if (scratchSpoiltAt c.co off 4).isSome then scratchSpoiltAt c.co off 4
  else if arrives ∧ (c.co.arriveAt off ((c.gr.getS q.toNat).toNat % 2)).isNone then
    some { code := BARRIER_OVERRUN, detail := (c.co.scratchWord off).setWidth 48 }
  else if arrives ∧ !(s.wpAll c.co true true true [⟨0, off, 4⟩]).isEmpty then
    s.logRoom ((s.clusterOf c.co).getD 0 / 16) [(6, 1)]
  else none

/-- A `barp` word: whether it arrives, and how many phase ends it then waits for. -/
def barpWord (word : Nat) (a q : BitVec 6) (arrives : Bool) (ends : Word → Nat → Nat → Nat → Nat) (s : State) :
    Host.Outcome State Fault Refusal :=
  issueLog { word := word, ctrl := true, hold := true, noHandler := true }
    (fun c s => if arrives ∧ !(s.wpAll c.co true true true [⟨0, (c.gr.getS a.toNat).toNat, 4⟩]).isEmpty then [(6, 1)] else [])
    (fun _ _ => false) (barpCheck a q arrives)
    (fun c s =>
      let off := (c.gr.getS a.toNat).toNat
      let qb := (c.gr.getS q.toNat).toNat % 2
      (s.barpAcquire c.co off).updCo c.who.co fun co =>
        let w := co.scratchWord off
        let r := if arrives then co.arriveAt off qb else none
        let n := ends w qb ((r.map (·.1)).getD 0) ((r.map (·.2.1)).getD 0)
        let co1 := (r.map (·.2.2)).getD co
        co1.updGr c.who.gi fun g => g.updSp c.who.si fun x =>
          if n = 0 then x.advance else { x with wait := .barp off n })
    (fun c s =>
      let off := (c.gr.getS a.toNat).toNat
      if arrives then wpAct ((s.wpAll c.co true true true [⟨(lanesOf c.sp.mask).headD 0, off, 4⟩])) true true true word c s else s) s

/-- `barp.arrive [sA], sQ` (11 R169): goes on at once. -/
def execBarpArrive (a q : BitVec 6) (s : State) : Host.Outcome State Fault Refusal :=
  barpWord (encBarpArrive a q) a q true (fun _ _ _ _ => 0) s

/-- `barp.sync [sA], sQ` (11 R169): waits for the phase ends its arrival awaits, less those it made. -/
def execBarpSync (a q : BitVec 6) (s : State) : Host.Outcome State Fault Refusal :=
  barpWord (encBarpSync a q) a q true (fun _ _ ends made => ends - made) s

/-- `barp.wait [sA], sQ` (11 R169): no arrival; waits for one phase end when q = PH. -/
def execBarpWait (a q : BitVec 6) (s : State) : Host.Outcome State Fault Refusal :=
  barpWord (encBarpWait a q) a q false (fun w qb _ _ => if qb = bwPh w then 1 else 0) s

end Sys2Proof.Machine
end

