-- ==== Sys2Proof/Machine/Float.lean ====
section
/-! DEFINITION. Exact values of the number formats and the one rounding that each operation makes (03). -/
namespace Sys2Proof.Machine

/-- An exact value: NaN, an infinity, or (−1)^neg × num / den with a signed zero. -/
inductive FVal where
  | nan
  | inf (neg : Bool)
  | fin (neg : Bool) (num den : Nat)
  deriving DecidableEq, Repr

/-- A binary format: exponent and fraction widths (03 R28). -/
structure Fmt where
  eb : Nat
  mb : Nat
  deriving DecidableEq, Repr

def F32 : Fmt := ⟨8, 23⟩
def F16 : Fmt := ⟨5, 10⟩
def BF16 : Fmt := ⟨8, 7⟩

def Fmt.bias (f : Fmt) : Nat := 2 ^ (f.eb - 1) - 1
/-- The code of +∞; the largest finite code is one less. -/
def Fmt.infCode (f : Fmt) : Nat := (2 ^ f.eb - 1) * 2 ^ f.mb
/-- The canonical NaN (03 R31). -/
def Fmt.nanCode (f : Fmt) : Nat := f.infCode + 2 ^ (f.mb - 1)
def Fmt.signBit (f : Fmt) : Nat := 2 ^ (f.eb + f.mb)

/-- The exact value of a code (03 R28, R30). -/
def Fmt.value (f : Fmt) (x : Nat) : FVal :=
  let neg := x / f.signBit % 2 == 1
  let e := x / 2 ^ f.mb % 2 ^ f.eb
  let m := x % 2 ^ f.mb
  if e = 2 ^ f.eb - 1 then (if m = 0 then .inf neg else .nan)
  else
    let (m', e') := if e = 0 then (m, 1) else (2 ^ f.mb + m, e)
    -- m' × 2^(e' − bias − mb)
    if f.bias + f.mb ≤ e' then .fin neg (m' * 2 ^ (e' - f.bias - f.mb)) 1 else .fin neg m' (2 ^ (f.bias + f.mb - e'))

/-- Whether a magnitude with a remainder moves up in a rounding mode (03 Table 3.2): floor, remainder, divisor. -/
def roundsUp (rm : Nat) (neg : Bool) (q r d : Nat) : Bool :=
  match rm with
  | 0 => decide (d < 2 * r) || (2 * r == d && q % 2 == 1)
  | 1 => false
  | 2 => r != 0 && !neg
  | _ => r != 0 && neg

/-- Round a magnitude n/d to an integer. -/
def roundNat (rm : Nat) (neg : Bool) (n d : Nat) : Nat := if roundsUp rm neg (n / d) (n % d) d then n / d + 1 else n / d

/-- ⌊log2 (n/d)⌋ for n, d > 0. -/
def floorLog2 (n d : Nat) : Int :=
  let e : Int := (Nat.log2 n : Int) - Nat.log2 d
  let below : Bool := if e ≥ 0 then n < d * 2 ^ e.toNat else n * 2 ^ (-e).toNat < d
  if below then e - 1 else e

/-- The code of a magnitude rounded once (03 R28 to R30, R33): a carry out of the fraction moves the exponent, and a code at
or above infinity's is an overflow. -/
def Fmt.roundMag (f : Fmt) (rm : Nat) (sat : Bool) (neg : Bool) (n d : Nat) : Nat :=
  if n = 0 then 0
  else
    let emin : Int := 1 - (f.bias : Int)
    let e := max emin (floorLog2 n d)
    let k : Int := (f.mb : Int) - e
    let q := if k ≥ 0 then roundNat rm neg (n * 2 ^ k.toNat) d else roundNat rm neg n (d * 2 ^ (-k).toNat)
    let code := (e - emin).toNat * 2 ^ f.mb + q
    if code < f.infCode then code
    else if sat || rm == 1 || (rm == 2 && neg) || (rm == 3 && !neg) then f.infCode - 1
    else f.infCode

/-- The code of an exact value rounded once under a mode, with saturation of infinities that arise (03 R31 to R33). -/
def Fmt.round (f : Fmt) (rm : Nat) (sat : Bool) (v : FVal) : Nat :=
  match v with
  | .nan => f.nanCode
  | .inf neg => f.infCode + (if neg then f.signBit else 0)
  | .fin neg n d => f.roundMag rm sat neg n d + (if neg then f.signBit else 0)

/-- The signed numerator of a finite value over a common denominator. -/
def sgn (neg : Bool) (n : Nat) : Int := if neg then -(n : Int) else n

/-- A value from a signed numerator; a zero takes the sign given. -/
def FVal.ofSigned (x : Int) (d : Nat) (zeroNeg : Bool) : FVal := if x = 0 then .fin zeroNeg 0 1 else .fin (x < 0) x.natAbs d

/-- Exact sum (03 R28): opposite zeros and exact cancellation give +0, −0 when rounding down. -/
def FVal.add (rm : Nat) : FVal → FVal → FVal
  | .nan, _ => .nan
  | _, .nan => .nan
  | .inf a, .inf b => if a = b then .inf a else .nan
  | .inf a, _ => .inf a
  | _, .inf b => .inf b
  | .fin a n d, .fin b m e =>
    FVal.ofSigned (sgn a n * e + sgn b m * d) (d * e) (if n = 0 ∧ m = 0 ∧ a = b then a else rm == 3)

def FVal.neg : FVal → FVal
  | .nan => .nan
  | .inf a => .inf !a
  | .fin a n d => .fin (!a) n d

/-- Exact product (03 R28). -/
def FVal.mul : FVal → FVal → FVal
  | .nan, _ => .nan
  | _, .nan => .nan
  | .inf a, .inf b => .inf (a ^^ b)
  | .inf a, .fin b m _ => if m = 0 then .nan else .inf (a ^^ b)
  | .fin a n _, .inf b => if n = 0 then .nan else .inf (a ^^ b)
  | .fin a n d, .fin b m e => .fin (a ^^ b) (n * m) (d * e)

/-- An exact integer as a value; 0 is +0. -/
def FVal.ofInt (x : Int) : FVal := .fin (x < 0) x.natAbs 1

/-- Less-than of finite and infinite values; −0 = +0 (09 Table 9.2). -/
def FVal.key : FVal → Int × Nat
  | .nan => (0, 1)
  | .inf _ => (0, 1)
  | .fin a n d => (sgn a n, d)

def FVal.lt : FVal → FVal → Bool
  | .nan, _ => false
  | _, .nan => false
  | .inf a, .inf b => a && !b
  | .inf a, .fin .. => a
  | .fin .., .inf b => !b
  | .fin a n d, .fin b m e => sgn a n * e < sgn b m * d

def FVal.eq : FVal → FVal → Bool
  | .nan, _ => false
  | _, .nan => false
  | .inf a, .inf b => a == b
  | .fin a n d, .fin b m e => sgn a n * e == sgn b m * d
  | _, _ => false

def FVal.isNan : FVal → Bool
  | .nan => true
  | _ => false

/-- The value of an FP32 register. -/
def f32 (x : Word) : FVal := F32.value x.toNat

/-- Round to an FP32 register. -/
def r32 (rm : Nat) (sat : Bool) (v : FVal) : Word := BitVec.ofNat 32 (F32.round rm sat v)

/-- `fadd`, `fsub`, `fmul`, `ffma` (09 Table 9.1). -/
def fAdd (rm : Nat) (sat : Bool) (a b : Word) : Word := r32 rm sat ((f32 a).add rm (f32 b))
def fSub (rm : Nat) (sat : Bool) (a b : Word) : Word := r32 rm sat ((f32 a).add rm (f32 b).neg)
def fMul (rm : Nat) (sat : Bool) (a b : Word) : Word := r32 rm sat ((f32 a).mul (f32 b))
def fFma (rm : Nat) (sat : Bool) (a b d : Word) : Word := r32 rm sat (((f32 a).mul (f32 b)).add rm (f32 d))

/-- `fmin` (09 R133): −0 below +0; a lone NaN gives the other operand. -/
def fLess (a b : Word) : Bool :=
  (f32 a).lt (f32 b) || ((f32 a).eq (f32 b) && bit a 31 && !bit b 31)
def fMin (a b : Word) : Word :=
  if (f32 a).isNan then (if (f32 b).isNan then 0x7FC00000#32 else b)
  else if (f32 b).isNan then a else if fLess b a then b else a
def fMax (a b : Word) : Word :=
  if (f32 a).isNan then (if (f32 b).isNan then 0x7FC00000#32 else b)
  else if (f32 b).isNan then a else if fLess a b then b else a

/-- `fcmp.f32` (09 Table 9.2): codes 0 to 7. -/
def condF (cc : Nat) (a b : Word) : Bool :=
  let nan := (f32 a).isNan || (f32 b).isNan
  let eq := (f32 a).eq (f32 b)
  let lt := (f32 a).lt (f32 b)
  match cc with
  | 0 => eq
  | 1 => !eq
  | 2 => lt
  | 3 => lt || eq
  | 4 => (f32 b).lt (f32 a)
  | 5 => (f32 b).lt (f32 a) || eq
  | 6 => !nan
  | _ => nan

/-- A packed element, 16 bits wide (03 R24). -/
def half (x : Word) (e : Nat) : Nat := bits x (16 * e) 16
def packHalf (lo hi : Nat) : Word := BitVec.ofNat 32 (lo % 65536 + 65536 * (hi % 65536))

/-- Packed forms: each element rounds on its own, never through FP32 (03 R29). -/
def hAdd (f : Fmt) (rm : Nat) (sat : Bool) (a b : Word) : Word :=
  let op (e : Nat) : Nat := f.round rm sat ((f.value (half a e)).add rm (f.value (half b e)))
  packHalf (op 0) (op 1)
def hMul (f : Fmt) (rm : Nat) (sat : Bool) (a b : Word) : Word :=
  let op (e : Nat) : Nat := f.round rm sat ((f.value (half a e)).mul (f.value (half b e)))
  packHalf (op 0) (op 1)
def hFma (f : Fmt) (rm : Nat) (sat : Bool) (a b d : Word) : Word :=
  let op (e : Nat) : Nat := f.round rm sat (((f.value (half a e)).mul (f.value (half b e))).add rm (f.value (half d e)))
  packHalf (op 0) (op 1)

/-- `fint.f32` (09 Table 9.6): an integral value; a zero keeps the operand's sign. -/
def fInt (rm : Nat) (a : Word) : Word :=
  match f32 a with
  | .nan => 0x7FC00000#32
  | .inf _ => a
  | .fin neg n d => r32 rm false (.fin neg (roundNat rm neg n d) 1)

/-- Clamp an integer to a type of `w` bits (03 R25, Table 3.1). -/
def clampInt (signed : Bool) (w : Nat) (x : Int) : Int :=
  if signed then satS w x else max 0 (min x ((2 ^ w : Nat) - 1))

/-- Conversion of a float to an integer (03 R26): round, clamp; NaN gives 0. -/
def FVal.toInt (rm : Nat) (signed : Bool) (w : Nat) : FVal → Int
  | .nan => 0
  | .inf neg => if neg then clampInt signed w (-(2 ^ 70 : Nat)) else clampInt signed w (2 ^ 70 : Nat)
  | .fin neg n d => clampInt signed w (sgn neg (roundNat rm neg n d))

/-! ### D8 and FP4 (03.5, 03.6) -/

/-- Leading zeros of a 7-bit body. -/
def d8Zeros (body : Nat) : Nat := 6 - Nat.log2 body

/-- Exponent and fraction bits by z (03 Table 3.4). -/
def d8Bits (z : Nat) : Nat × Nat :=
  match z with
  | 0 => (1, 5)
  | 1 => (2, 3)
  | 2 => (2, 2)
  | 3 => (2, 1)
  | 4 => (2, 0)
  | _ => (1, 0)

/-- The decade D (03 Table 3.4). -/
def d8Decade (z e : Nat) : Int :=
  match z with
  | 0 => (e : Int) - 1
  | 5 => if e = 0 then -10 else 9
  | _ => if e < 2 then -(2 * (z : Int) + 1) + e else 2 * (z : Int) - 1 + (e - 2)

/-- D8Value of 03 R37. -/
def d8Value (c : Nat) : FVal :=
  let s := c / 128 % 2 == 1
  let body := c % 128
  if body = 0 then (if s then .nan else .fin false 0 1)
  else if body = 1 then .inf s
  else
    let z := d8Zeros body
    let fb := (d8Bits z).2
    let rest := body % 2 ^ (6 - z)
    let dec := d8Decade z (rest / 2 ^ fb)
    let m := 2 ^ fb + 9 * (rest % 2 ^ fb)
    if 0 ≤ dec then .fin s (m * 10 ^ dec.toNat) (2 ^ fb) else .fin s m (2 ^ fb * 10 ^ (-dec).toNat)

/-- The distance of a magnitude n/d from a body's value, as a fraction. -/
def d8Dist (n d body : Nat) : Nat × Nat :=
  match d8Value body with
  | .fin _ m e => ((sgn false (n * e) - sgn false (m * d)).natAbs, d * e)
  | _ => (1, 1)

def fracLt (a b : Nat × Nat) : Bool := a.1 * b.2 < b.1 * a.2

/-- Of two candidate bodies for n/d, the one 03 R39 takes: nearer; then even where the other is odd; then of smaller value. -/
def d8Better (n d b c : Nat) : Nat :=
  if fracLt (d8Dist n d c) (d8Dist n d b) then c
  else if fracLt (d8Dist n d b) (d8Dist n d c) then b
  else if b % 2 ≠ c % 2 then (if c % 2 = 0 then c else b)
  else match (d8Value b).lt (d8Value c) with
    | true => b
    | false => c

/-- ToD8 of 03 R39. -/
def toD8 (v : FVal) (toInf : Bool) : Nat :=
  match v with
  | .nan => 0x80
  | .inf neg => (if neg then 128 else 0) + 1
  | .fin neg n d =>
    let s := if neg then 128 else 0
    if n = 0 then 0
    else if n > 10 ^ 9 * d then s + (if toInf then 1 else 3)
    else if 2 * n * 10 ^ 10 < d then 0
    else s + ((List.range 125).map (· + 3)).foldl (d8Better n d) 2

/-- The value of an FP4 code other than 0b1000 (03 R42). -/
def fp4Value (c : Nat) : FVal :=
  let e := c / 2 % 4
  let m := c % 2
  .fin (c / 8 % 2 == 1) (if e = 0 then m else (2 + m) * 2 ^ (e - 1)) 2

/-- Conversion into FP4 (03 R43): nearest of the fifteen values, ties to M = 0, never 0b1000. -/
def toFp4 (v : FVal) : Nat :=
  match v with
  | .nan => 0
  | .inf neg => if neg then 15 else 7
  | .fin neg n d =>
    let dist (c : Nat) : Nat × Nat := match fp4Value c with
      | .fin _ m e => ((sgn false (n * e) - sgn false (m * d)).natAbs, d * e)
      | _ => (1, 1)
    let pick := ((List.range 7).map (· + 1)).foldl (fun b c =>
      if fracLt (dist c) (dist b) then c else if fracLt (dist b) (dist c) then b else if c % 2 = 0 then c else b) 0
    if pick = 0 then 0 else pick + (if neg then 8 else 0)

end Sys2Proof.Machine
end

