-- ==== Sys2Proof/Machine/Trans.lean ====
section
/-! DEFINITION. The correctly rounded functions of 03.4: exact cases by exact arithmetic, all others between two rational
bounds that are drawn closer until both round alike. -/
namespace Sys2Proof.Machine

/-- A rational interval with a common sign: lower and upper magnitude over one denominator. -/
structure Ival where
  neg : Bool
  lo : Nat
  hi : Nat
  den : Nat
  deriving DecidableEq, Repr

/-- Round by the first of the intervals whose ends round alike (the bounds are strict: neither end is the value). -/
def roundIvals (rm : Nat) (sat : Bool) : List Ival → Word
  | [] => 0
  | [v] => r32 rm sat (.fin v.neg v.lo v.den)
  | v :: t =>
    let a := r32 rm sat (.fin v.neg v.lo v.den)
    if a = r32 rm sat (.fin v.neg v.hi v.den) ∧ 0 < v.lo then a else roundIvals rm sat t

/-- The precisions tried, in bits. -/
def precisions : List Nat := [256, 512, 1024]

/-- ⌊√n⌋ by bits, from bit `k` down. -/
def isqrtBits : Nat → Nat → Nat → Nat
  | 0, _, r => r
  | k + 1, n, r => if (r + 2 ^ k) * (r + 2 ^ k) ≤ n then isqrtBits k n (r + 2 ^ k) else isqrtBits k n r

def isqrt (n : Nat) : Nat := isqrtBits (Nat.log2 n / 2 + 1) n 0

/-- An inexact root between M and M + 1 is held as M + 1/2: every rounding boundary is a multiple of the unit. -/
def rootVal (m : Nat) (exact : Bool) (den : Nat) : FVal := if exact then .fin false m den else .fin false (2 * m + 1) (2 * den)

/-- `sqrt`: the denominators are powers of two. -/
def sqrtVal (n d : Nat) : FVal :=
  let x := n * d * 4 ^ 64
  let m := isqrt x
  rootVal m (m * m == x) (d * 2 ^ 64)

/-- `rsqrt`: ⌊2^320 / √(n/d)⌋. -/
def rsqrtVal (n d : Nat) : FVal :=
  let m := isqrt (4 ^ 320 * d / n)
  rootVal m (m * m * n == 4 ^ 320 * d) (2 ^ 320)

/-- 2^(f / 2^p) × 2^p for 0 ≤ f < 2^p, from below: `c` is 2^(2^−i), and the bits of f are taken from the top. -/
def exp2Frac (p f : Nat) : Nat → Nat → Nat → Nat
  | 0, _, acc => acc
  | k + 1, c, acc =>
    let c' := isqrt (c * 2 ^ p)
    exp2Frac p f k c' (if f / 2 ^ k % 2 = 1 then acc * c' / 2 ^ p else acc)

/-- Bounds of 2^x for x = i + n/d, 0 < n/d < 1: the error of the loop is below 4 p units, of the cut fraction below 2. -/
def exp2Ival (i : Int) (n d p : Nat) : Ival :=
  let f := n * 2 ^ p / d
  let m := exp2Frac p f p (2 * 2 ^ p) (2 ^ p)
  let lo := max m (2 ^ p)
  if 0 ≤ i then ⟨false, lo * 2 ^ i.toNat * 2 ^ p + 1, (m + 4 * p + 4) * 2 ^ i.toNat * 2 ^ p, 4 ^ p⟩
  else ⟨false, lo * 2 ^ p + 1, (m + 4 * p + 4) * 2 ^ p, 4 ^ p * 2 ^ (-i).toNat⟩

/-- `exp2` of a finite value (03 R35, R36). -/
def exp2Fin (rm : Nat) (sat : Bool) (neg : Bool) (n d : Nat) : Word :=
  let x := sgn neg n
  let i := x / d
  let r := (x % d).toNat
  if 130 ≤ i then r32 rm sat (.fin false (2 ^ 130) 1)
  else if i < -300 then r32 rm sat (.fin false 1 (2 ^ 300))
  else if r = 0 then r32 rm sat (if 0 ≤ i then .fin false (2 ^ i.toNat) 1 else .fin false 1 (2 ^ (-i).toNat))
  else roundIvals rm sat (precisions.map (exp2Ival i r d))

/-- Bits of log2 of a mantissa in [2^p, 2·2^p): both bounds are squared until they disagree (03 R35). -/
def log2Bits (p : Nat) : Nat → Nat → Nat → Nat → Nat → Nat × Nat
  | 0, _, _, acc, k => (acc, k)
  | fuel + 1, lo, hi, acc, k =>
    let lo2 := lo * lo / 2 ^ p
    let hi2 := hi * hi / 2 ^ p + 1
    let two := 2 * 2 ^ p
    if two ≤ lo2 then log2Bits p fuel (lo2 / 2) (hi2 / 2 + 1) (2 * acc + 1) (k + 1)
    else if hi2 ≤ two then log2Bits p fuel lo2 hi2 (2 * acc) (k + 1)
    else (acc, k)

/-- Bounds of log2(m) + e, m = n/d in (1, 2). -/
def log2Ival (e : Int) (n d p : Nat) : Ival :=
  let m := n * 2 ^ (2 * p) / d
  let (acc, k) := log2Bits (2 * p) p m (m + 1) 0 0
  let lo : Int := e * 2 ^ k + acc
  if 0 ≤ lo then ⟨false, lo.toNat * 4 + 1, lo.toNat * 4 + 3, 4 * 2 ^ k⟩
  else ⟨true, (-lo).toNat * 4 - 3, (-lo).toNat * 4 - 1, 4 * 2 ^ k⟩

/-- `log2` of a positive finite value. -/
def log2Fin (rm : Nat) (sat : Bool) (n d : Nat) : Word :=
  let e := floorLog2 n d
  let (n', d') := if 0 ≤ e then (n, d * 2 ^ e.toNat) else (n * 2 ^ (-e).toNat, d)
  if n' = d' then r32 rm sat (.ofInt e)
  else roundIvals rm sat (precisions.map (log2Ival e n' d'))

/-- 2^p × arctan(1/k), truncated terms, from below or above by less than 2 per term. -/
def atanInv (k : Nat) : Nat → Nat → Nat → Bool → Int → Int
  | 0, _, _, _, acc => acc
  | fuel + 1, t, j, neg, acc =>
    if t = 0 then acc else atanInv k fuel (t / (k * k)) (j + 2) (!neg) (acc + sgn neg (t / j))

/-- π × 2^p to within one unit: Machin's formula with 32 guard bits. -/
def piBits (p : Nat) : Nat :=
  let g := p + 32
  ((16 * atanInv 5 g (2 ^ g / 5) 1 false 0 - 4 * atanInv 239 g (2 ^ g / 239) 1 false 0).toNat) / 2 ^ 32

/-- Σ (−1)^j t^(2j+1) / (2j+1)! at scale 2^p. -/
def sinSeries (p t2 : Nat) : Nat → Nat → Nat → Bool → Int → Int
  | 0, _, _, _, acc => acc
  | fuel + 1, term, j, neg, acc =>
    if term = 0 then acc else sinSeries p t2 fuel (term * t2 / 2 ^ p / ((j + 1) * (j + 2))) (j + 2) (!neg) (acc + sgn neg term)

/-- Bounds of sin(π r), r = n/d in (0, 1/2): all errors together are below 2^12 units of 2^−p, and the value is below 1. -/
def sinIval (neg : Bool) (n d p : Nat) : Ival :=
  let t := piBits p * n / d
  let v := (sinSeries p (t * t / 2 ^ p) p t 1 false 0).toNat
  ⟨neg, v - 4096, min (v + 4096) (2 ^ p - 1), 2 ^ p⟩

/-- sin(π x) for x = n/d ≥ 0, with the sign it takes when x is an integer (03 Table 3.3). -/
def sinPiRed (rm : Nat) (sat : Bool) (neg : Bool) (n d : Nat) (zeroNeg : Bool) : Word :=
  let r := n % (2 * d)
  let half := d ≤ r
  let q := r % d
  let q' := if 2 * q > d then d - q else q
  let sg := neg ^^ half
  if q = 0 then r32 rm sat (.fin zeroNeg 0 1)
  else if 2 * q' = d then r32 rm sat (.fin sg 1 1)
  else roundIvals rm sat (precisions.map (sinIval sg q' d))

/-- e^y × 2^p for y = n/d, by halving 2^k times and squaring: all errors together are below 2^(k + 12) units times the value. -/
def expSeries (p y : Nat) : Nat → Nat → Nat → Nat → Nat
  | 0, _, _, acc => acc
  | fuel + 1, term, j, acc => if term = 0 then acc else expSeries p y fuel (term * y / 2 ^ p / j) (j + 1) (acc + term)

def squares (p : Nat) : Nat → Nat → Nat
  | 0, x => x
  | k + 1, x => squares p k (x * x / 2 ^ p)

/-- Bounds of tanh(n/d), 2^-30 ≤ n/d < 20. -/
def tanhIval (neg : Bool) (n d p : Nat) : Ival :=
  let y := 2 * n * 2 ^ p / d / 2 ^ 6
  let e := squares p 6 (expSeries p y p (2 ^ p) 1 0)
  let err := e / 2 ^ (p - 40) + 2 ^ 40
  let one := 2 ^ p
  -- (E − 1) / (E + 1) rises with E
  let lo := (e - err - one) * 2 ^ p / (e - err + one)
  let hi := (e + err - one) * 2 ^ p / (e + err + one) + 1
  ⟨neg, lo, min hi (2 ^ p - 1), 2 ^ p⟩

/-- `tanh` of a finite non-zero value. -/
def tanhFin (rm : Nat) (sat : Bool) (neg : Bool) (n d : Nat) : Word :=
  if 20 * d ≤ n then roundIvals rm sat [⟨neg, 2 ^ 60 - 2 ^ 10, 2 ^ 60 - 1, 2 ^ 60⟩]
  else if n * 2 ^ 30 < d then
    -- x − x³/3 < tanh x < x − x³/4
    roundIvals rm sat [⟨neg, 4 * (3 * n * d * d - n * n * n), 3 * (4 * n * d * d - n * n * n), 12 * d * d * d⟩]
  else roundIvals rm sat (precisions.map (tanhIval neg n d))

/-- The eight functions by fn8 − 0x10 (09 Table 9.6), with the special cases of 03 Table 3.3; an infinity
that arises from 0 saturates as any other (R33). -/
def transFn (fn rm : Nat) (sat : Bool) (x : Word) : Word :=
  let nan := 0x7FC00000#32
  let inf (neg : Bool) : Word := if neg then 0xFF800000#32 else 0x7F800000#32
  let pole (neg : Bool) : Word := if sat then (if neg then 0xFF7FFFFF#32 else 0x7F7FFFFF#32) else inf neg
  let zero (neg : Bool) : Word := if neg then 0x80000000#32 else 0
  match fn, f32 x with
  | _, .nan => nan
  | 0, .inf neg => if neg then zero false else inf false
  | 0, .fin neg n d => exp2Fin rm sat neg n d
  | 1, .inf neg => if neg then nan else inf false
  | 1, .fin neg n d => if n = 0 then pole true else if neg then nan else log2Fin rm sat n d
  | 2, .inf neg => zero neg
  | 2, .fin neg n d => if n = 0 then pole neg else r32 rm sat (.fin neg d n)
  | 3, .inf neg => if neg then nan else zero false
  | 3, .fin neg n d => if n = 0 then pole neg else if neg then nan else r32 rm sat (rsqrtVal n d)
  | 4, .inf neg => if neg then nan else inf false
  | 4, .fin neg n d => if n = 0 then x else if neg then nan else r32 rm sat (sqrtVal n d)
  | 5, .inf _ => nan
  | 5, .fin neg n d => if n = 0 then x else sinPiRed rm sat neg n d neg
  | 6, .inf _ => nan
  | 6, .fin _ n d => sinPiRed rm sat false (2 * n + d) (2 * d) false
  | _, .inf neg => if neg then 0xBF800000#32 else 0x3F800000#32
  | _, .fin neg n d => if n = 0 then x else tanhFin rm sat neg n d

end Sys2Proof.Machine
end

