-- ==== Sys2Proof/Machine/VectorAlu.lean ====
section
/-! DEFINITION. Vector integer, floating-point, compare, immediate, unary and vector-scalar instructions (09.2 to 09.7). -/
namespace Sys2Proof.Machine

/-! ### Operations of 09 Tables 9.1, 9.3, 9.6 and 9.7 -/

/-- `shl`, `shr`, `sar`, `rot` by an amount N(B) (09 Table 9.1). -/
def opShl (a : Word) (n : Nat) : Word := if 32 ≤ n then 0 else a <<< n
def opShr (a : Word) (n : Nat) : Word := if 32 ≤ n then 0 else a >>> n
def opSar (a : Word) (n : Nat) : Word := a.sshiftRight (min 31 n)
def opRot (a : Word) (n : Nat) : Word := a.rotateLeft (n % 32)

def opMulHiS (a b : Word) : Word := BitVec.ofInt 32 (sv a * sv b / 2 ^ 32)
def opMulHiN (a b : Word) : Word := BitVec.ofNat 32 (nv a * nv b / 2 ^ 32)
def opAbd (a b : Word) : Word := BitVec.ofNat 32 (sv a - sv b).natAbs
def opMinS (a b : Word) : Word := if sv b < sv a then b else a
def opMaxS (a b : Word) : Word := if sv a < sv b then b else a
def opMinN (a b : Word) : Word := if nv b < nv a then b else a
def opMaxN (a b : Word) : Word := if nv a < nv b then b else a

/-- `sel` (09 Table 9.1): bits of A where Dold is 1, of B where it is 0. -/
def opSel (a b d : Word) : Word := (a &&& d) ||| (b &&& ~~~d)

/-- `perm.b8` (09 R134). -/
def opPerm (a b d : Word) : Word :=
  BitVec.ofNat 32 (ofBytes ((List.range 4).map fun j =>
    let c := bits d (8 * j) 8
    if 128 ≤ c then 0 else BitVec.ofNat 8 ((b ++ a).toNat / 256 ^ (c % 8))))

/-- Exact dot product of `n` signed elements of `w` bits (03 R24, R50). -/
def dotInt (w n : Nat) (a b : Word) : Int :=
  ((List.range n).map fun i => signedOf w (bits a (w * i) w) * signedOf w (bits b (w * i) w)).sum

def opPopc (a : Word) : Word := BitVec.ofNat 32 (lanesOf a).length
/-- Leading and trailing zeros; 32 for 0 (09 Table 9.6). -/
def opClz (a : Word) : Word := BitVec.ofNat 32 (if a = 0 then 32 else 31 - Nat.log2 a.toNat)
def opCtz (a : Word) : Word := BitVec.ofNat 32 ((lanesOf a).headD 32)
def opBrev (a : Word) : Word := maskOf ((lanesOf a).map fun i => 31 - i)
def opFneg (a : Word) : Word := if (f32 a).isNan then 0x7FC00000#32 else a ^^^ 0x80000000#32
def opFabs (a : Word) : Word := if (f32 a).isNan then 0x7FC00000#32 else a &&& 0x7FFFFFFF#32

/-- Rng of 09 R141. -/
def rngRound : Nat → Nat → Nat → Nat
  | 0, x, _ => x
  | n + 1, x, k =>
    let x1 := ((x ^^^ k) * 0x9E3779B1) % 2 ^ 32
    rngRound n (x1 ^^^ (x1 / 2 ^ 15)) ((k + 0x7F4A7C15) % 2 ^ 32)

def rng (x k : Nat) : Word := BitVec.ofNat 32 (rngRound 3 x k)

/-! ### Drivers -/

/-- A V3 word (09 R132): Op of A, B and Dold in each participating lane. -/
def v3op (word : Nat) (x : V3) (mods : Mods) (op : Hints → Word → Word → Word → Word) (s : State) :
    Host.Outcome State Fault Refusal :=
  issueReg { word := word, vr := [x.d.toNat, x.a.toNat, x.b.toNat], vw := [x.d.toNat], mods := mods, rep := true }
    (vlanes x.g.toNat x.d.toNat fun c g l => op c.h (g.getV x.a.toNat l) (g.getV x.b.toNat l) (g.getV x.d.toNat l)) s

def modS : Mods := { s := true }
def modRS : Mods := { r := true, s := true }
def modRSL : Mods := { r := true, s := true, l := true }

/-- A compare (09 R135); condition codes above `top` are reserved. -/
def vcmp (word : Nat) (x : VC) (top : Nat) (t : Word → Word → Bool) (s : State) : Host.Outcome State Fault Refusal :=
  issueReg { word := word, wf := x.pd != 7 && decide (x.cc.toNat ≤ top), vr := [x.a.toNat, x.b.toNat], rep := true }
    (fun c g => g.combineP (c.part x.g.toNat) x.pd.toNat x.cm.toNat fun l => t (g.getV x.a.toNat l) (g.getV x.b.toNat l)) s

/-- An immediate form; I is extended by `hint.imm` under 05 R65 (09 R137). -/
def viop (word : Nat) (g : BitVec 3) (d : BitVec 7) (vr : List Nat) (imm : BitVec 8) (sgnd : Bool) (mods : Mods)
    (op : Hints → Group → Nat → Int → Word) (s : State) : Host.Outcome State Fault Refusal :=
  issue { word := word, vr := d.toNat :: vr, vw := [d.toNat], mods := mods, imm := true, rep := true }
    (fun c _ => if (c.h.extImm imm.toNat 8 sgnd).isNone then some { code := ILLEGAL, pc := some c.h.immPc } else none)
    (fun c s => s.updGr c.who (vlanes g.toNat d.toNat (fun c gr l => op c.h gr l ((c.h.extImm imm.toNat 8 sgnd).getD 0)) c)) s

/-- A shift by a constant: payload bits of a hint lie above imm8[7] and must be zero (09 R137). -/
def vnop (word : Nat) (x : VN) (op : Word → Nat → Word) (s : State) : Host.Outcome State Fault Refusal :=
  issue { word := word, vr := [x.d.toNat, x.a.toNat], vw := [x.d.toNat], imm := true, rep := true }
    (fun c _ => if c.h.imm.any (· != 0) then some { code := ILLEGAL } else none)
    (fun c s => s.updGr c.who (vlanes x.g.toNat x.d.toNat (fun _ g l => op (g.getV x.a.toNat l) x.n.toNat) c)) s

/-- A unary V2 word (09 R140). -/
def v2op (word : Nat) (x : V2) (mods : Mods) (op : Hints → Word → Word) (s : State) : Host.Outcome State Fault Refusal :=
  issueReg { word := word, vr := [x.d.toNat, x.a.toNat], vw := [x.d.toNat], mods := mods, rep := true }
    (vlanes x.g.toNat x.d.toNat fun c g l => op c.h (g.getV x.a.toNat l)) s

/-- A transcendental form: long-latency under `hint.mod la=N` (05 R71, 09 R140). The lookahead count is known from the
chain, so the request is formed from the issuing split. -/
def transOp (word : Nat) (x : V2) (fn : Nat) (s : State) : Host.Outcome State Fault Refusal :=
  let la := match s.ctx? with
    | none => 0
    | some c => c.h.la
  let q : Req := { word := word, vr := [x.d.toNat, x.a.toNat], vw := [x.d.toNat], mods := modRSL, rep := true, look := la }
  issueReg q (fun c g =>
    let ls := lanesOf (c.part x.g.toNat)
    g.result c.who.si { c.window q x.d.toNat 1 (c.part x.g.toNat) with
      vals := laneVals ls [x.d.toNat] fun _ l => transFn fn c.h.rm c.h.sat (g.getV x.a.toNat l) }) s

/-- The lowest participating lane whose counter lies outside the stream (09 R141). -/
def rngLane (c : Ctx) (x : V2) : Option Nat :=
  (lanesOf (c.part x.g.toNat)).find? fun l =>
    let n := nv (c.gr.getV x.a.toNat l)
    decide (n < hClo c.co.hdr) || decide (hChi c.co.hdr < n)

/-- A draw from the launch's stream (09 R141). A Headframe core runs in no launch, so that it has no stream, as a launch with STRM = 0
has none: ILLEGAL_INSTRUCTION (DESIGN CHOICE, log entry 83). -/
def rngOp (word : Nat) (x : V2) (f : Word → Word) (s : State) : Host.Outcome State Fault Refusal :=
  issue { word := word, vr := [x.d.toNat, x.a.toNat], vw := [x.d.toNat], rep := true }
    (fun c _ =>
      if c.co.isHF || !hStrm c.co.hdr then some { code := ILLEGAL }
      else (rngLane c x).map fun l => { code := STREAM_OVERLAP, lane := some l, detail := (c.gr.getV x.a.toNat l).setWidth 48 })
    (fun c s => s.updGr c.who (vlanes x.g.toNat x.d.toNat (fun c g l => f (rng (nv (g.getV x.a.toNat l)) (hSeed c.co.hdr))) c)) s

/-- A vector-scalar word (09 R142). -/
def vsop (word : Nat) (x : VS) (mods : Mods) (op : Hints → Word → Word → Word → Word) (s : State) :
    Host.Outcome State Fault Refusal :=
  issueReg { word := word, vr := [x.d.toNat, x.a.toNat], vw := [x.d.toNat], mods := mods, rep := true }
    (vlanes x.g.toNat x.d.toNat fun c g l => op c.h (g.getV x.a.toNat l) (g.getS x.s.toNat) (g.getV x.d.toNat l)) s

/-! ### Three-register instructions (09 Table 9.1) -/

/-- `iadd` (R132): Per-lane 32-bit wrapping add of v[a] and v[b], or a saturating add under SAT. -/
def execIadd (x : V3) (s : State) : Host.Outcome State Fault Refusal :=
  v3op (encIadd x) x modS (fun h a b _ => narrow h.sat (sv a + sv b)) s

/-- `isub` (R132): Per-lane 32-bit wrapping subtract, or a saturating subtract under SAT. -/
def execIsub (x : V3) (s : State) : Host.Outcome State Fault Refusal :=
  v3op (encIsub x) x modS (fun h a b _ => narrow h.sat (sv a - sv b)) s

/-- `imul.lo` (R132): Per-lane low 32 bits of the product. -/
def execImulLo (x : V3) (s : State) : Host.Outcome State Fault Refusal :=
  v3op (encImulLo x) x modS (fun h a b _ => narrow h.sat (sv a * sv b)) s

/-- `imul.hi.s` (R132): Per-lane high 32 bits of the signed 64-bit product. -/
def execImulHiS (x : V3) (s : State) : Host.Outcome State Fault Refusal :=
  v3op (encImulHiS x) x {} (fun _ a b _ => opMulHiS a b) s

/-- `imac` (R132): Per-lane multiply-accumulate into the destination, as one exact sum. -/
def execImac (x : V3) (s : State) : Host.Outcome State Fault Refusal :=
  v3op (encImac x) x modS (fun h a b d => narrow h.sat (sv d + sv a * sv b)) s

/-- `iabd` (R132): Per-lane absolute difference of the signed operands. -/
def execIabd (x : V3) (s : State) : Host.Outcome State Fault Refusal :=
  v3op (encIabd x) x {} (fun _ a b _ => opAbd a b) s

/-- `imin.s` (R132): Per-lane signed minimum. -/
def execIminS (x : V3) (s : State) : Host.Outcome State Fault Refusal :=
  v3op (encIminS x) x {} (fun _ a b _ => opMinS a b) s

/-- `imax.s` (R132): Per-lane signed maximum. -/
def execImaxS (x : V3) (s : State) : Host.Outcome State Fault Refusal :=
  v3op (encImaxS x) x {} (fun _ a b _ => opMaxS a b) s

/-- `imin.n` (R132): Per-lane unsigned minimum. -/
def execIminN (x : V3) (s : State) : Host.Outcome State Fault Refusal :=
  v3op (encIminN x) x {} (fun _ a b _ => opMinN a b) s

/-- `imax.n` (R132): Per-lane unsigned maximum. -/
def execImaxN (x : V3) (s : State) : Host.Outcome State Fault Refusal :=
  v3op (encImaxN x) x {} (fun _ a b _ => opMaxN a b) s

/-- `and` (R132): Per-lane bitwise AND. -/
def execAnd (x : V3) (s : State) : Host.Outcome State Fault Refusal :=
  v3op (encAnd x) x {} (fun _ a b _ => a &&& b) s

/-- `or` (R132): Per-lane bitwise OR. -/
def execOr (x : V3) (s : State) : Host.Outcome State Fault Refusal :=
  v3op (encOr x) x {} (fun _ a b _ => a ||| b) s

/-- `xor` (R132): Per-lane bitwise XOR. -/
def execXor (x : V3) (s : State) : Host.Outcome State Fault Refusal :=
  v3op (encXor x) x {} (fun _ a b _ => a ^^^ b) s

/-- `andn` (R132): Per-lane A AND NOT B. -/
def execAndn (x : V3) (s : State) : Host.Outcome State Fault Refusal :=
  v3op (encAndn x) x {} (fun _ a b _ => a &&& ~~~b) s

/-- `shl` (R132): Per-lane logical left shift; an amount of 32 or more gives 0. -/
def execShl (x : V3) (s : State) : Host.Outcome State Fault Refusal :=
  v3op (encShl x) x {} (fun _ a b _ => opShl a (nv b)) s

/-- `shr` (R132): Per-lane logical right shift; an amount of 32 or more gives 0. -/
def execShr (x : V3) (s : State) : Host.Outcome State Fault Refusal :=
  v3op (encShr x) x {} (fun _ a b _ => opShr a (nv b)) s

/-- `sar` (R132): Per-lane arithmetic right shift, with the amount capped at 31. -/
def execSar (x : V3) (s : State) : Host.Outcome State Fault Refusal :=
  v3op (encSar x) x {} (fun _ a b _ => opSar a (nv b)) s

/-- `rot` (R132): Per-lane rotate left by the amount modulo 32. -/
def execRot (x : V3) (s : State) : Host.Outcome State Fault Refusal :=
  v3op (encRot x) x {} (fun _ a b _ => opRot a (nv b)) s

/-- `fadd` (R132): Per-lane FP32 add, rounded under the mode in force. -/
def execFadd (x : V3) (s : State) : Host.Outcome State Fault Refusal :=
  v3op (encFadd x) x modRS (fun h a b _ => fAdd h.rm h.sat a b) s

/-- `fsub` (R132): Per-lane FP32 subtract. -/
def execFsub (x : V3) (s : State) : Host.Outcome State Fault Refusal :=
  v3op (encFsub x) x modRS (fun h a b _ => fSub h.rm h.sat a b) s

/-- `fmul` (R132): Per-lane FP32 multiply. -/
def execFmul (x : V3) (s : State) : Host.Outcome State Fault Refusal :=
  v3op (encFmul x) x modRS (fun h a b _ => fMul h.rm h.sat a b) s

/-- `ffma` (R132): Per-lane fused multiply-add into the destination, with one rounding. -/
def execFfma (x : V3) (s : State) : Host.Outcome State Fault Refusal :=
  v3op (encFfma x) x modRS (fun h a b d => fFma h.rm h.sat a b d) s

/-- `fmin` (R133): Per-lane FP32 minimum, with NaN and signed-zero rules. -/
def execFmin (x : V3) (s : State) : Host.Outcome State Fault Refusal :=
  v3op (encFmin x) x {} (fun _ a b _ => fMin a b) s

/-- `fmax` (R133): Per-lane FP32 maximum, with NaN and signed-zero rules. -/
def execFmax (x : V3) (s : State) : Host.Outcome State Fault Refusal :=
  v3op (encFmax x) x {} (fun _ a b _ => fMax a b) s

/-- `hadd.bf16x2` (R132): Packed BF16 add, each element rounded directly to BF16. -/
def execHaddBf16x2 (x : V3) (s : State) : Host.Outcome State Fault Refusal :=
  v3op (encHaddBf16x2 x) x modRS (fun h a b _ => hAdd BF16 h.rm h.sat a b) s

/-- `hmul.bf16x2` (R132): Packed BF16 multiply. -/
def execHmulBf16x2 (x : V3) (s : State) : Host.Outcome State Fault Refusal :=
  v3op (encHmulBf16x2 x) x modRS (fun h a b _ => hMul BF16 h.rm h.sat a b) s

/-- `hfma.bf16x2` (R132): Packed BF16 fused multiply-add. -/
def execHfmaBf16x2 (x : V3) (s : State) : Host.Outcome State Fault Refusal :=
  v3op (encHfmaBf16x2 x) x modRS (fun h a b d => hFma BF16 h.rm h.sat a b d) s

/-- `hfma.f16x2` (R132): Packed FP16 fused multiply-add. -/
def execHfmaF16x2 (x : V3) (s : State) : Host.Outcome State Fault Refusal :=
  v3op (encHfmaF16x2 x) x modRS (fun h a b d => hFma F16 h.rm h.sat a b d) s

/-- `sel` (R134): Per-lane bit select between A and B under the prior destination mask. -/
def execSel (x : V3) (s : State) : Host.Outcome State Fault Refusal :=
  v3op (encSel x) x {} (fun _ a b d => opSel a b d) s

/-- `perm.b8` (R134): Per-lane byte permute of B:A under the selector bytes of the prior destination. -/
def execPermB8 (x : V3) (s : State) : Host.Outcome State Fault Refusal :=
  v3op (encPermB8 x) x {} (fun _ a b d => opPerm a b d) s

/-- `dot4.s8` (R132): Per-lane 4-way signed 8-bit dot product, accumulated into the destination. -/
def execDot4S8 (x : V3) (s : State) : Host.Outcome State Fault Refusal :=
  v3op (encDot4S8 x) x modS (fun h a b d => narrow h.sat (sv d + dotInt 8 4 a b)) s

/-- `dot8.s4` (R132): Per-lane 8-way signed 4-bit dot product, accumulated into the destination. -/
def execDot8S4 (x : V3) (s : State) : Host.Outcome State Fault Refusal :=
  v3op (encDot8S4 x) x modS (fun h a b d => narrow h.sat (sv d + dotInt 4 8 a b)) s

/-! ### Compares and predicate logic (09.3) -/

/-- `icmp.s32` (R135): Per-lane signed compare, combined into a predicate. -/
def execIcmpS32 (x : VC) (s : State) : Host.Outcome State Fault Refusal :=
  vcmp (encIcmpS32 x) x 5 (condS x.cc.toNat) s

/-- `icmp.n32` (R135): Per-lane unsigned compare, combined into a predicate. -/
def execIcmpN32 (x : VC) (s : State) : Host.Outcome State Fault Refusal :=
  vcmp (encIcmpN32 x) x 5 (condN x.cc.toNat) s

/-- `fcmp.f32` (R135): Per-lane FP32 compare, combined into a predicate. -/
def execFcmpF32 (x : VC) (s : State) : Host.Outcome State Fault Refusal :=
  vcmp (encFcmpF32 x) x 7 (condF x.cc.toNat) s

/-- `plog` (R136): Per-lane logic function of two predicates, combined into a predicate. -/
def execPlog (g : BitVec 3) (p : BitVec 3) (f : BitVec 3) (a : BitVec 3) (b : BitVec 3) (m : BitVec 2) (s : State) : Host.Outcome State Fault Refusal :=
  issueReg { word := (encPlog g p f a b m), wf := p != 7, rep := true }
    (fun c gr => gr.combineP (c.part g.toNat) p.toNat m.toNat fun l =>
      plogFn f.toNat ((gr.getP a.toNat).getLsbD l) ((gr.getP b.toNat).getLsbD l)) s

/-! ### Immediate forms (09.4) -/

/-- `iaddi` (R137): Per-lane add of a signed immediate. -/
def execIaddi (x : VI) (s : State) : Host.Outcome State Fault Refusal :=
  viop (encIaddi x) x.g x.d [x.a.toNat] x.imm true modS (fun h g l i => narrow h.sat (sv (g.getV x.a.toNat l) + i)) s

/-- `shli` (R137): Per-lane left shift by an immediate amount. -/
def execShli (x : VN) (s : State) : Host.Outcome State Fault Refusal :=
  vnop (encShli x) x opShl s

/-- `shri` (R137): Per-lane logical right shift by an immediate amount. -/
def execShri (x : VN) (s : State) : Host.Outcome State Fault Refusal :=
  vnop (encShri x) x opShr s

/-- `sari` (R137): Per-lane arithmetic right shift by an immediate amount. -/
def execSari (x : VN) (s : State) : Host.Outcome State Fault Refusal :=
  vnop (encSari x) x opSar s

/-- `roti` (R137): Per-lane rotate left by an immediate amount. -/
def execRoti (x : VN) (s : State) : Host.Outcome State Fault Refusal :=
  vnop (encRoti x) x opRot s

/-- `movi` (R137): Per-lane load of a signed immediate. -/
def execMovi (g : BitVec 3) (d : BitVec 7) (i : BitVec 8) (s : State) : Host.Outcome State Fault Refusal :=
  viop (encMovi g d i) g d [] i true {} (fun _ _ _ v => narrow false v) s

/-- `andi` (R137): Per-lane AND with an unsigned immediate. -/
def execAndi (x : VI) (s : State) : Host.Outcome State Fault Refusal :=
  viop (encAndi x) x.g x.d [x.a.toNat] x.imm false {} (fun _ g l i => g.getV x.a.toNat l &&& BitVec.ofInt 32 i) s

/-! ### Unary, transcendental and counter-generator forms (09.6) -/

/-- `mov.b32` (R140): Per-lane bit copy. -/
def execMovB32 (x : V2) (s : State) : Host.Outcome State Fault Refusal :=
  v2op (encMovB32 x) x {} (fun _ a => a) s

/-- `not.b32` (R140): Per-lane bitwise NOT. -/
def execNotB32 (x : V2) (s : State) : Host.Outcome State Fault Refusal :=
  v2op (encNotB32 x) x {} (fun _ a => ~~~a) s

/-- `ineg.s32` (R140): Per-lane wrapping negate. -/
def execInegS32 (x : V2) (s : State) : Host.Outcome State Fault Refusal :=
  v2op (encInegS32 x) x modS (fun h a => narrow h.sat (-(sv a))) s

/-- `iabs.s32` (R140): Per-lane wrapping absolute value. -/
def execIabsS32 (x : V2) (s : State) : Host.Outcome State Fault Refusal :=
  v2op (encIabsS32 x) x modS (fun h a => narrow h.sat (sv a).natAbs) s

/-- `popc.b32` (R140): Per-lane population count. -/
def execPopcB32 (x : V2) (s : State) : Host.Outcome State Fault Refusal :=
  v2op (encPopcB32 x) x {} (fun _ a => opPopc a) s

/-- `clz.b32` (R140): Per-lane count of leading zeros. -/
def execClzB32 (x : V2) (s : State) : Host.Outcome State Fault Refusal :=
  v2op (encClzB32 x) x {} (fun _ a => opClz a) s

/-- `ctz.b32` (R140): Per-lane count of trailing zeros. -/
def execCtzB32 (x : V2) (s : State) : Host.Outcome State Fault Refusal :=
  v2op (encCtzB32 x) x {} (fun _ a => opCtz a) s

/-- `brev.b32` (R140): Per-lane bit reversal. -/
def execBrevB32 (x : V2) (s : State) : Host.Outcome State Fault Refusal :=
  v2op (encBrevB32 x) x {} (fun _ a => opBrev a) s

/-- `fneg.f32` (R140): Per-lane sign inversion; a NaN gives the canonical NaN. -/
def execFnegF32 (x : V2) (s : State) : Host.Outcome State Fault Refusal :=
  v2op (encFnegF32 x) x {} (fun _ a => opFneg a) s

/-- `fabs.f32` (R140): Per-lane sign clearing; a NaN gives the canonical NaN. -/
def execFabsF32 (x : V2) (s : State) : Host.Outcome State Fault Refusal :=
  v2op (encFabsF32 x) x {} (fun _ a => opFabs a) s

/-- `fint.f32` (R140): Per-lane rounding to an integral FP32 value. -/
def execFintF32 (x : V2) (s : State) : Host.Outcome State Fault Refusal :=
  v2op (encFintF32 x) x { r := true } (fun h a => fInt h.rm a) s

/-- `exp2.f32` (R35): Per-lane correctly rounded 2^x. -/
def execExp2 (x : V2) (s : State) : Host.Outcome State Fault Refusal :=
  transOp (encExp2 x) x 0 s

/-- `log2.f32` (R35): Per-lane correctly rounded log2. -/
def execLog2 (x : V2) (s : State) : Host.Outcome State Fault Refusal :=
  transOp (encLog2 x) x 1 s

/-- `rcp.f32` (R35): Per-lane correctly rounded reciprocal. -/
def execRcp (x : V2) (s : State) : Host.Outcome State Fault Refusal :=
  transOp (encRcp x) x 2 s

/-- `rsqrt.f32` (R35): Per-lane correctly rounded reciprocal square root. -/
def execRsqrt (x : V2) (s : State) : Host.Outcome State Fault Refusal :=
  transOp (encRsqrt x) x 3 s

/-- `sqrt.f32` (R35): Per-lane correctly rounded square root. -/
def execSqrt (x : V2) (s : State) : Host.Outcome State Fault Refusal :=
  transOp (encSqrt x) x 4 s

/-- `sinpi.f32` (R35): Per-lane correctly rounded sin(pi x). -/
def execSinpi (x : V2) (s : State) : Host.Outcome State Fault Refusal :=
  transOp (encSinpi x) x 5 s

/-- `cospi.f32` (R35): Per-lane correctly rounded cos(pi x). -/
def execCospi (x : V2) (s : State) : Host.Outcome State Fault Refusal :=
  transOp (encCospi x) x 6 s

/-- `tanh.f32` (R35): Per-lane correctly rounded tanh. -/
def execTanh (x : V2) (s : State) : Host.Outcome State Fault Refusal :=
  transOp (encTanh x) x 7 s

/-- `rng.b32` (R141): Per-lane counter-keyed random draw from the launch stream. -/
def execRngB32 (x : V2) (s : State) : Host.Outcome State Fault Refusal :=
  rngOp (encRngB32 x) x (fun r => r) s

/-- `rngu.f32` (R141): Per-lane counter-keyed uniform FP32 draw in [0, 1). -/
def execRnguF32 (x : V2) (s : State) : Host.Outcome State Fault Refusal :=
  rngOp (encRnguF32 x) x (fun r => r32 0 false (.fin false (nv r / 2 ^ 8) (2 ^ 24))) s

/-- `packh.bf16x2` (R140): Per-lane packing of two FP32 values into two BF16 elements. -/
def execPackhBf16x2 (x : V2) (s : State) : Host.Outcome State Fault Refusal :=
  issueReg { word := (encPackhBf16x2 x), wf := even x.a, vr := [x.d.toNat, x.a.toNat, x.a.toNat + 1], vw := [x.d.toNat], mods := modRS, rep := true }
    (vlanes x.g.toNat x.d.toNat fun c g l => packHalf (BF16.round c.h.rm c.h.sat (f32 (g.getV x.a.toNat l)))
      (BF16.round c.h.rm c.h.sat (f32 (g.getV (x.a.toNat + 1) l)))) s

/-- `packh.f16x2` (R140): Per-lane packing of two FP32 values into two FP16 elements. -/
def execPackhF16x2 (x : V2) (s : State) : Host.Outcome State Fault Refusal :=
  issueReg { word := (encPackhF16x2 x), wf := even x.a, vr := [x.d.toNat, x.a.toNat, x.a.toNat + 1], vw := [x.d.toNat], mods := modRS, rep := true }
    (vlanes x.g.toNat x.d.toNat fun c g l => packHalf (F16.round c.h.rm c.h.sat (f32 (g.getV x.a.toNat l)))
      (F16.round c.h.rm c.h.sat (f32 (g.getV (x.a.toNat + 1) l)))) s

/-- `unpackh.bf16x2` (R140): Per-lane unpacking of two BF16 elements into an FP32 pair. -/
def execUnpackhBf16x2 (x : V2) (s : State) : Host.Outcome State Fault Refusal :=
  issueReg { word := (encUnpackhBf16x2 x), wf := even x.d, vr := [x.d.toNat, x.d.toNat + 1, x.a.toNat], vw := [x.d.toNat, x.d.toNat + 1], rep := true }
    (vlanes2 x.g.toNat x.d.toNat fun _ g l => r32 0 false (BF16.value (half (g.getV x.a.toNat l) 1)) ++
      r32 0 false (BF16.value (half (g.getV x.a.toNat l) 0))) s

/-- `unpackh.f16x2` (R140): Per-lane unpacking of two FP16 elements into an FP32 pair. -/
def execUnpackhF16x2 (x : V2) (s : State) : Host.Outcome State Fault Refusal :=
  issueReg { word := (encUnpackhF16x2 x), wf := even x.d, vr := [x.d.toNat, x.d.toNat + 1, x.a.toNat], vw := [x.d.toNat, x.d.toNat + 1], rep := true }
    (vlanes2 x.g.toNat x.d.toNat fun _ g l => r32 0 false (F16.value (half (g.getV x.a.toNat l) 1)) ++
      r32 0 false (F16.value (half (g.getV x.a.toNat l) 0))) s

/-! ### Vector-scalar forms (09.7) -/

/-- `iadd.s32` (R142): Per-lane add of a uniform scalar register. -/
def execIaddVs (x : VS) (s : State) : Host.Outcome State Fault Refusal :=
  vsop (encIaddVs x) x modS (fun h a b _ => narrow h.sat (sv a + sv b)) s

/-- `imul.lo.s32` (R142): Per-lane low product with a scalar register. -/
def execImulLoVs (x : VS) (s : State) : Host.Outcome State Fault Refusal :=
  vsop (encImulLoVs x) x modS (fun h a b _ => narrow h.sat (sv a * sv b)) s

/-- `imul.hi.n32` (R142): Per-lane high unsigned product with a scalar register. -/
def execImulHiN32Vs (x : VS) (s : State) : Host.Outcome State Fault Refusal :=
  vsop (encImulHiN32Vs x) x {} (fun _ a b _ => opMulHiN a b) s

/-- `fadd.f32` (R142): Per-lane FP32 add of a scalar register. -/
def execFaddVs (x : VS) (s : State) : Host.Outcome State Fault Refusal :=
  vsop (encFaddVs x) x modRS (fun h a b _ => fAdd h.rm h.sat a b) s

/-- `fsub.f32` (R142): Per-lane FP32 subtract of a scalar register. -/
def execFsubVs (x : VS) (s : State) : Host.Outcome State Fault Refusal :=
  vsop (encFsubVs x) x modRS (fun h a b _ => fSub h.rm h.sat a b) s

/-- `fmul.f32` (R142): Per-lane FP32 multiply by a scalar register. -/
def execFmulVs (x : VS) (s : State) : Host.Outcome State Fault Refusal :=
  vsop (encFmulVs x) x modRS (fun h a b _ => fMul h.rm h.sat a b) s

/-- `ffma.f32` (R142): Per-lane fused multiply by a scalar register and add to the destination. -/
def execFfmaVs (x : VS) (s : State) : Host.Outcome State Fault Refusal :=
  vsop (encFfmaVs x) x modRS (fun h a b d => fFma h.rm h.sat a b d) s

/-- `iaddw.s64` (R142): Per-lane 64-bit pair add of a signed scalar offset. -/
def execIaddwS64 (x : VS) (s : State) : Host.Outcome State Fault Refusal :=
  issueReg { word := encIaddwS64 x, wf := even x.d && even x.a, vr := [x.d.toNat, x.d.toNat + 1, x.a.toNat, x.a.toNat + 1],
                 vw := [x.d.toNat, x.d.toNat + 1], mods := modS, rep := true }
    (vlanes2 x.g.toNat x.d.toNat fun c g l => narrow64 c.h.sat ((g.getV2 x.a.toNat l).toInt + sv (g.getS x.s.toNat))) s

end Sys2Proof.Machine
end

