-- ==== Sys2Proof/Machine/ScalarAlu.lean ====
section
/-! DEFINITION. Scalar instructions (09.8): they run once each time they issue, whatever the active mask (09 R127). -/
namespace Sys2Proof.Machine

/-- A scalar word of three operands (09 R143): f of A, B and the old D. -/
def s3op (word : Nat) (x : S3) (mods : Mods) (op : Hints → Word → Word → Word → Word) (s : State) :
    Host.Outcome State Fault Refusal :=
  issueReg { word := word, mods := mods, rep := true }
    (fun c g => g.setS x.d.toNat (op c.h (g.getS x.a.toNat) (g.getS x.b.toNat) (g.getS x.d.toNat))) s

/-- A unary scalar word. -/
def s2op (word : Nat) (x : S2) (mods : Mods) (op : Hints → Word → Word) (s : State) : Host.Outcome State Fault Refusal :=
  issueReg { word := word, mods := mods, rep := true } (fun c g => g.setS x.d.toNat (op c.h (g.getS x.a.toNat))) s

/-- A 64-bit scalar word: even pairs (09 R128). -/
def s64op (word : Nat) (x : S3) (op : Int → Int → Int) (s : State) : Host.Outcome State Fault Refusal :=
  issueReg { word := word, wf := even x.d && even x.a && even x.b, mods := modS, rep := true }
    (fun c g => g.setS2 x.d.toNat (narrow64 c.h.sat (op (g.getS2 x.a.toNat).toInt (g.getS2 x.b.toNat).toInt))) s

/-- A scalar compare: 1 or 0 (09 Table 9.8). -/
def scmp (word : Nat) (x : SC) (top : Nat) (t : Nat → Word → Word → Bool) (s : State) : Host.Outcome State Fault Refusal :=
  issueReg { word := word, wf := decide (x.cc.toNat ≤ top), rep := true }
    (fun _ g => g.setS x.d.toNat (if t x.cc.toNat (g.getS x.a.toNat) (g.getS x.b.toNat) then 1 else 0)) s

/-- A 10-bit immediate form (09 R144). -/
def siop (word : Nat) (d : BitVec 6) (imm : BitVec 10) (sgnd : Bool) (mods : Mods) (op : Hints → Group → Int → Word) (s : State) :
    Host.Outcome State Fault Refusal :=
  issue { word := word, mods := mods, imm := true, rep := true }
    (fun c _ => if (c.h.extImm imm.toNat 10 sgnd).isNone then some { code := ILLEGAL, pc := some c.h.immPc } else none)
    (fun c s => s.updGr c.who fun g => g.setS d.toNat (op c.h g ((c.h.extImm imm.toNat 10 sgnd).getD 0))) s

/-- A scalar shift by a constant (09 R144): payload bits of a hint are reserved. -/
def snop (word : Nat) (x : SN) (op : Word → Nat → Word) (s : State) : Host.Outcome State Fault Refusal :=
  issue { word := word, imm := true, rep := true }
    (fun c _ => if c.h.imm.any (· != 0) then some { code := ILLEGAL } else none)
    (fun c s => s.updGr c.who fun g => g.setS x.d.toNat (op (g.getS x.a.toNat) x.n.toNat)) s

/-- `movw.z` and `movw.s` (09 R145): n = 16. -/
def swop (word : Nat) (x : SW) (sgnd : Bool) (s : State) : Host.Outcome State Fault Refusal :=
  issue { word := word, imm := true }
    (fun c _ => if (c.h.extImm x.imm.toNat 16 sgnd).isNone then some { code := ILLEGAL, pc := some c.h.immPc } else none)
    (fun c s => s.updGr c.who fun g => g.setS x.d.toNat (BitVec.ofInt 32 ((c.h.extImm x.imm.toNat 16 sgnd).getD 0))) s

/-- `iadd` (R143): Scalar wrapping add. -/
def execSIadd (x : S3) (s : State) : Host.Outcome State Fault Refusal :=
  s3op (encSIadd x) x modS (fun h a b _ => narrow h.sat (sv a + sv b)) s

/-- `isub` (R143): Scalar wrapping subtract. -/
def execSIsub (x : S3) (s : State) : Host.Outcome State Fault Refusal :=
  s3op (encSIsub x) x modS (fun h a b _ => narrow h.sat (sv a - sv b)) s

/-- `imul.lo` (R143): Scalar low product. -/
def execSImulLo (x : S3) (s : State) : Host.Outcome State Fault Refusal :=
  s3op (encSImulLo x) x modS (fun h a b _ => narrow h.sat (sv a * sv b)) s

/-- `imul.hi.s` (R143): Scalar high signed product. -/
def execSImulHiS (x : S3) (s : State) : Host.Outcome State Fault Refusal :=
  s3op (encSImulHiS x) x {} (fun _ a b _ => opMulHiS a b) s

/-- `imul.hi.n` (R143): Scalar high unsigned product. -/
def execSImulHiN (x : S3) (s : State) : Host.Outcome State Fault Refusal :=
  s3op (encSImulHiN x) x {} (fun _ a b _ => opMulHiN a b) s

/-- `imin.s` (R143): Scalar signed minimum. -/
def execSIminS (x : S3) (s : State) : Host.Outcome State Fault Refusal :=
  s3op (encSIminS x) x {} (fun _ a b _ => opMinS a b) s

/-- `imax.s` (R143): Scalar signed maximum. -/
def execSImaxS (x : S3) (s : State) : Host.Outcome State Fault Refusal :=
  s3op (encSImaxS x) x {} (fun _ a b _ => opMaxS a b) s

/-- `imin.n` (R143): Scalar unsigned minimum. -/
def execSIminN (x : S3) (s : State) : Host.Outcome State Fault Refusal :=
  s3op (encSIminN x) x {} (fun _ a b _ => opMinN a b) s

/-- `imax.n` (R143): Scalar unsigned maximum. -/
def execSImaxN (x : S3) (s : State) : Host.Outcome State Fault Refusal :=
  s3op (encSImaxN x) x {} (fun _ a b _ => opMaxN a b) s

/-- `and` (R143): Scalar AND. -/
def execSAnd (x : S3) (s : State) : Host.Outcome State Fault Refusal :=
  s3op (encSAnd x) x {} (fun _ a b _ => a &&& b) s

/-- `or` (R143): Scalar OR. -/
def execSOr (x : S3) (s : State) : Host.Outcome State Fault Refusal :=
  s3op (encSOr x) x {} (fun _ a b _ => a ||| b) s

/-- `xor` (R143): Scalar XOR. -/
def execSXor (x : S3) (s : State) : Host.Outcome State Fault Refusal :=
  s3op (encSXor x) x {} (fun _ a b _ => a ^^^ b) s

/-- `andn` (R143): Scalar AND NOT. -/
def execSAndn (x : S3) (s : State) : Host.Outcome State Fault Refusal :=
  s3op (encSAndn x) x {} (fun _ a b _ => a &&& ~~~b) s

/-- `shl` (R143): Scalar logical left shift. -/
def execSShl (x : S3) (s : State) : Host.Outcome State Fault Refusal :=
  s3op (encSShl x) x {} (fun _ a b _ => opShl a (nv b)) s

/-- `shr` (R143): Scalar logical right shift. -/
def execSShr (x : S3) (s : State) : Host.Outcome State Fault Refusal :=
  s3op (encSShr x) x {} (fun _ a b _ => opShr a (nv b)) s

/-- `sar` (R143): Scalar arithmetic right shift. -/
def execSSar (x : S3) (s : State) : Host.Outcome State Fault Refusal :=
  s3op (encSSar x) x {} (fun _ a b _ => opSar a (nv b)) s

/-- `rot` (R143): Scalar rotate left. -/
def execSRot (x : S3) (s : State) : Host.Outcome State Fault Refusal :=
  s3op (encSRot x) x {} (fun _ a b _ => opRot a (nv b)) s

/-- `fadd.f32` (R143): Scalar FP32 add. -/
def execSFadd (x : S3) (s : State) : Host.Outcome State Fault Refusal :=
  s3op (encSFadd x) x modRS (fun h a b _ => fAdd h.rm h.sat a b) s

/-- `fsub.f32` (R143): Scalar FP32 subtract. -/
def execSFsub (x : S3) (s : State) : Host.Outcome State Fault Refusal :=
  s3op (encSFsub x) x modRS (fun h a b _ => fSub h.rm h.sat a b) s

/-- `fmul.f32` (R143): Scalar FP32 multiply. -/
def execSFmul (x : S3) (s : State) : Host.Outcome State Fault Refusal :=
  s3op (encSFmul x) x modRS (fun h a b _ => fMul h.rm h.sat a b) s

/-- `ffma.f32` (R143): Scalar FP32 fused multiply-add into s[d]. -/
def execSFfma (x : S3) (s : State) : Host.Outcome State Fault Refusal :=
  s3op (encSFfma x) x modRS (fun h a b d => fFma h.rm h.sat a b d) s

/-- `fmin.f32` (R143): Scalar FP32 minimum. -/
def execSFmin (x : S3) (s : State) : Host.Outcome State Fault Refusal :=
  s3op (encSFmin x) x {} (fun _ a b _ => fMin a b) s

/-- `fmax.f32` (R143): Scalar FP32 maximum. -/
def execSFmax (x : S3) (s : State) : Host.Outcome State Fault Refusal :=
  s3op (encSFmax x) x {} (fun _ a b _ => fMax a b) s

/-- `csel` (R143): Scalar select of s[a] or s[b] by s[d]. -/
def execCsel (x : S3) (s : State) : Host.Outcome State Fault Refusal :=
  s3op (encCsel x) x {} (fun _ a b d => if d ≠ 0 then a else b) s

/-- `popc` (R143): Scalar population count. -/
def execSPopc (x : S2) (s : State) : Host.Outcome State Fault Refusal :=
  s2op (encSPopc x) x {} (fun _ a => opPopc a) s

/-- `clz` (R143): Scalar count of leading zeros. -/
def execSClz (x : S2) (s : State) : Host.Outcome State Fault Refusal :=
  s2op (encSClz x) x {} (fun _ a => opClz a) s

/-- `ctz` (R143): Scalar count of trailing zeros. -/
def execSCtz (x : S2) (s : State) : Host.Outcome State Fault Refusal :=
  s2op (encSCtz x) x {} (fun _ a => opCtz a) s

/-- `brev` (R143): Scalar bit reversal. -/
def execSBrev (x : S2) (s : State) : Host.Outcome State Fault Refusal :=
  s2op (encSBrev x) x {} (fun _ a => opBrev a) s

/-- `not` (R143): Scalar bitwise NOT. -/
def execSNot (x : S2) (s : State) : Host.Outcome State Fault Refusal :=
  s2op (encSNot x) x {} (fun _ a => ~~~a) s

/-- `cvt.f32.s32` (R143): Scalar conversion from signed integer to FP32. -/
def execSCvtF32S32 (x : S2) (s : State) : Host.Outcome State Fault Refusal :=
  s2op (encSCvtF32S32 x) x modRS (fun h a => r32 h.rm h.sat (.ofInt (sv a))) s

/-- `cvt.f32.n32` (R143): Scalar conversion from unsigned integer to FP32. -/
def execSCvtF32N32 (x : S2) (s : State) : Host.Outcome State Fault Refusal :=
  s2op (encSCvtF32N32 x) x modRS (fun h a => r32 h.rm h.sat (.ofInt (nv a))) s

/-- `cvt.s32.f32` (R143): Scalar conversion from FP32 to signed integer, clamped. -/
def execSCvtS32F32 (x : S2) (s : State) : Host.Outcome State Fault Refusal :=
  s2op (encSCvtS32F32 x) x modRS (fun h a => BitVec.ofInt 32 ((f32 a).toInt h.rm true 32)) s

/-- `cvt.n32.f32` (R143): Scalar conversion from FP32 to unsigned integer, clamped. -/
def execSCvtN32F32 (x : S2) (s : State) : Host.Outcome State Fault Refusal :=
  s2op (encSCvtN32F32 x) x modRS (fun h a => BitVec.ofInt 32 ((f32 a).toInt h.rm false 32)) s

/-- `iadd.s64` (R143): Scalar 64-bit pair add. -/
def execSIaddS64 (x : S3) (s : State) : Host.Outcome State Fault Refusal :=
  s64op (encSIaddS64 x) x (fun a b => a + b) s

/-- `isub.s64` (R143): Scalar 64-bit pair subtract. -/
def execSIsubS64 (x : S3) (s : State) : Host.Outcome State Fault Refusal :=
  s64op (encSIsubS64 x) x (fun a b => a - b) s

/-- `icmp.s32` (R143): Scalar signed compare into 1 or 0. -/
def execSIcmpS32 (x : SC) (s : State) : Host.Outcome State Fault Refusal :=
  scmp (encSIcmpS32 x) x 5 condS s

/-- `icmp.n32` (R143): Scalar unsigned compare into 1 or 0. -/
def execSIcmpN32 (x : SC) (s : State) : Host.Outcome State Fault Refusal :=
  scmp (encSIcmpN32 x) x 5 condN s

/-- `fcmp.f32` (R143): Scalar FP32 compare into 1 or 0. -/
def execSFcmpF32 (x : SC) (s : State) : Host.Outcome State Fault Refusal :=
  scmp (encSFcmpF32 x) x 7 condF s

/-- `iaddi` (R144): Scalar add of a signed immediate. -/
def execSIaddi (x : SI) (s : State) : Host.Outcome State Fault Refusal :=
  siop (encSIaddi x) x.d x.imm true modS (fun h g i => narrow h.sat (sv (g.getS x.a.toNat) + i)) s

/-- `andi` (R144): Scalar AND with an immediate. -/
def execSAndi (x : SI) (s : State) : Host.Outcome State Fault Refusal :=
  siop (encSAndi x) x.d x.imm false {} (fun _ g i => g.getS x.a.toNat &&& BitVec.ofInt 32 i) s

/-- `ori` (R144): Scalar OR with an immediate. -/
def execSOri (x : SI) (s : State) : Host.Outcome State Fault Refusal :=
  siop (encSOri x) x.d x.imm false {} (fun _ g i => g.getS x.a.toNat ||| BitVec.ofInt 32 i) s

/-- `xori` (R144): Scalar XOR with an immediate. -/
def execSXori (x : SI) (s : State) : Host.Outcome State Fault Refusal :=
  siop (encSXori x) x.d x.imm false {} (fun _ g i => g.getS x.a.toNat ^^^ BitVec.ofInt 32 i) s

/-- `shli` (R144): Scalar left shift by an immediate. -/
def execSShli (x : SN) (s : State) : Host.Outcome State Fault Refusal :=
  snop (encSShli x) x opShl s

/-- `shri` (R144): Scalar logical right shift by an immediate. -/
def execSShri (x : SN) (s : State) : Host.Outcome State Fault Refusal :=
  snop (encSShri x) x opShr s

/-- `sari` (R144): Scalar arithmetic right shift by an immediate. -/
def execSSari (x : SN) (s : State) : Host.Outcome State Fault Refusal :=
  snop (encSSari x) x opSar s

/-- `movi` (R144): Scalar load of a signed immediate. -/
def execSMovi (d : BitVec 6) (i : BitVec 10) (s : State) : Host.Outcome State Fault Refusal :=
  siop (encSMovi d i) d i true {} (fun _ _ v => narrow false v) s

/-- `movw.z` (R145): Scalar load of a zero-extended 16-bit immediate. -/
def execMovwZ (x : SW) (s : State) : Host.Outcome State Fault Refusal :=
  swop (encMovwZ x) x false s

/-- `movw.s` (R145): Scalar load of a sign-extended 16-bit immediate. -/
def execMovwS (x : SW) (s : State) : Host.Outcome State Fault Refusal :=
  swop (encMovwS x) x true s

/-- `movw.hi` (R145): Writes the high halfword of a scalar register. -/
def execMovwHi (x : SW) (s : State) : Host.Outcome State Fault Refusal :=
  issueReg { word := encMovwHi x } (fun _ g => g.setS x.d.toNat (x.imm ++ (g.getS x.d.toNat).extractLsb' 0 16)) s

/-- `movw.lo` (R145): Writes the low halfword of a scalar register. -/
def execMovwLo (x : SW) (s : State) : Host.Outcome State Fault Refusal :=
  issueReg { word := encMovwLo x } (fun _ g => g.setS x.d.toNat ((g.getS x.d.toNat).extractLsb' 16 16 ++ x.imm)) s

end Sys2Proof.Machine
end

