-- ==== Sys2Proof/Machine/Convert.lean ====
section
/-! DEFINITION. Conversion between the formats (09.5). -/
namespace Sys2Proof.Machine

/-- Integer types of 09 Table 9.4: signedness and width. -/
def intType (t : Nat) : Option (Bool × Nat) :=
  match t with
  | 0 => some (true, 8)
  | 1 => some (false, 8)
  | 2 => some (true, 16)
  | 3 => some (false, 16)
  | 4 => some (true, 32)
  | 5 => some (false, 32)
  | 6 => some (true, 64)
  | 7 => some (false, 64)
  | 13 => some (true, 4)
  | 14 => some (false, 4)
  | _ => none

/-- Binary float types of 09 Table 9.4. -/
def floatType (t : Nat) : Option Fmt :=
  match t with
  | 8 => some F32
  | 9 => some F16
  | 10 => some BF16
  | _ => none

/-- Element width in bits of a type (03 Table 3.1). -/
def typeWidth (t : Nat) : Nat :=
  match intType t with
  | some (_, w) => w
  | none => if t = 8 then 32 else if t = 9 ∨ t = 10 then 16 else if t = 11 then 8 else 4

/-- The exact value of an element's bits (09 R139); FP4's extra value is not decoded here. -/
def typeValue (t x : Nat) : FVal :=
  match intType t with
  | some (sg, w) => .ofInt (if sg then signedOf w x else (x % 2 ^ w : Nat))
  | none => match floatType t with
    | some f => f.value (x % 2 ^ typeWidth t)
    | none => if t = 11 then d8Value (x % 256) else fp4Value (x % 16)

/-- Convert(dt, x) of 09 Table 9.5, as the bits of dt; `st` is the source type. -/
def convert (dt st : Nat) (rm : Nat) (sat ovf : Bool) (x : Nat) : Nat :=
  let v := typeValue st x
  match intType dt with
  | some (sg, w) =>
    let y : Int := match intType st with
      | some (ss, ws) =>
        let i : Int := if ss then signedOf ws x else (x % 2 ^ ws : Nat)
        if sat then clampInt sg w i else i
      | none => v.toInt (if st = 11 then 0 else rm) sg w
    (y % (2 ^ w : Nat)).toNat
  | none => match floatType dt with
    | some f => f.round rm sat v
    | none => if dt = 11 then toD8 v ovf else toFp4 v

/-- Modifiers a conversion accepts (09 Table 9.5; 03 R34). -/
def cvtMods (dt st : Nat) : Mods :=
  if dt = st then {}
  else if dt = 11 then { o := true }
  else if dt = 12 then {}
  else if (intType dt).isSome && ((intType st).isSome || st == 11) then { s := true }
  else { r := true, s := true }

/-- Registers of an operand of a type: a pair for 64 bits. -/
def typeRegs (t r : Nat) : List Nat := if typeWidth t = 64 then [r, r + 1] else [r]

/-- The source bits of a lane. -/
def cvtSource (t a : Nat) (g : Group) (l : Nat) : Nat :=
  if typeWidth t = 64 then (g.getV2 a l).toNat else (g.getV a l).toNat % 2 ^ typeWidth t

/-- The value written, as 64 bits: a sign copy above `.s4`, `.s8`, `.s16`, zero above all others (09 R139). -/
def cvtWrite (t y : Nat) : BitVec 64 :=
  match intType t with
  | some (true, w) => BitVec.ofInt 64 (signedOf w y)
  | _ => BitVec.ofNat 64 y

/-- One lane of `cvt`: bits unchanged for one type, else converted (09 R139). -/
def cvtLane (dt st a : Nat) (c : Ctx) (g : Group) (l : Nat) : BitVec 64 :=
  let x := cvtSource st a g l
  cvtWrite dt (if dt = st then x else convert dt st c.h.rm c.h.sat c.h.ovf x)

/-- `cvt` (R138, R139): Converts each participating lane between two types of 09 Table 9.4. -/
def execCvt (g : BitVec 3) (d a : BitVec 7) (t sc : BitVec 4) (s : State) : Host.Outcome State Fault Refusal :=
  let dt := t.toNat
  let st := sc.toNat
  issueReg { word := encCvt g d a t sc, wf := cvtWf d a t sc, vr := typeRegs dt d.toNat ++ typeRegs st a.toNat,
             vw := typeRegs dt d.toNat, mods := cvtMods dt st, rep := true }
    (fun c gr => if typeWidth dt = 64 then vlanes2 g.toNat d.toNat (cvtLane dt st a.toNat) c gr
                 else vlanes g.toNat d.toNat (fun c gr l => (cvtLane dt st a.toNat c gr l).extractLsb' 0 32) c gr) s

end Sys2Proof.Machine
end

