-- ==== Sys2Proof/Machine/Lane.lean ====
section
/-! DEFINITION. Lane operations and special register moves (11.5, 11.6). They see only participating lanes (11 R170). -/
namespace Sys2Proof.Machine

/-! ### Movement (11 R171) -/

/-- The source lane of a lane, and whether it is in range: kinds 0 to 4 of 11 Table 11.5; `k` is the control value. -/
def laneSource (kind sub : Nat) (l : Nat) (k : Word) : Option Nat :=
  let seg := 32 / 2 ^ sub
  let base := l / seg * seg
  let r := l % seg
  match kind with
  | 0 => some (base + nv k % seg)
  | 1 => some (base + (r + nv k) % seg)
  | 2 => let t := (l : Int) + sv k
         if (base : Int) ≤ t ∧ t < base + seg then some t.toNat else none
  | 3 => some (base + (r ^^^ (nv k % seg)))
  | _ => some (base + seg - 1 - r)

/-- A movement word: out of range gives 0, a source that takes no part leaves v[d] (11 R171). -/
def laneMove (word kind : Nat) (x : LM) (s : State) : Host.Outcome State Fault Refusal :=
  issueReg { word := word, vr := [x.d.toNat, x.a.toNat], vw := [x.d.toNat], rep := true }
    (fun c g =>
      let p := c.part x.g.toNat
      let src (l : Nat) : Option Nat := laneSource kind x.sub.toNat l (g.getV x.d.toNat l)
      let ok (l : Nat) : Bool := (src l).any fun t => p.getLsbD t
      let g1 := g.writeV (lanesOf p) x.d.toNat fun l => match src l with
        | none => 0
        | some t => if p.getLsbD t then g.getV x.a.toNat t else g.getV x.d.toNat l
      g1.setP x.pv.toNat p (maskIf p ok)) s

/-! ### Folds and prefixes (11 R172) -/

/-- A fold over values in ascending lane order: one value is returned unchanged. -/
def foldLanes (f : Word → Word → Word) : List Word → Option Word
  | [] => none
  | x :: t => some (t.foldl f x)

/-- The fold of `iadd`: it wraps, or under S clamps the exact sum. -/
def foldAdd (sat : Bool) (l : List Word) : Word := narrow sat (l.map sv).sum

/-- A fold word: every lane of P receives the fold over P; the predicate marks its lowest lane. -/
def laneFold (word : Nat) (x : LF) (mods : Mods) (f : Hints → List Word → Word) (s : State) :
    Host.Outcome State Fault Refusal :=
  issueReg { word := word, vr := [x.d.toNat, x.a.toNat], vw := [x.d.toNat], mods := mods, rep := true }
    (fun c g =>
      let p := c.part x.g.toNat
      let ls := lanesOf p
      let r := f c.h (ls.map fun l => g.getV x.a.toNat l)
      (g.writeV ls x.d.toNat fun _ => r).setP x.pv.toNat p (maskIf p fun l => ls.head? == some l)) s

/-- A prefix word: inclusive or exclusive of the lane itself; the predicate marks the highest lane. -/
def lanePre (word : Nat) (x : LF) (mods : Mods) (incl : Bool) (f : Hints → List Word → Word) (s : State) :
    Host.Outcome State Fault Refusal :=
  issueReg { word := word, vr := [x.d.toNat, x.a.toNat], vw := [x.d.toNat], mods := mods, rep := true }
    (fun c g =>
      let p := c.part x.g.toNat
      let ls := lanesOf p
      (g.writeV ls x.d.toNat fun l => f c.h ((ls.filter fun t => decide (t < l) || (incl && t == l)).map fun t => g.getV x.a.toNat t)).setP
        x.pv.toNat p (maskIf p fun l => ls.getLast? == some l)) s

/-! ### Census (11 R172) and grouping (11 R173) -/

/-- B: the lanes of P where Pa holds. -/
def census (c : Ctx) (g : Group) (x : LC) : Word := c.part x.g.toNat &&& g.getP x.pa.toNat

/-- A census word: the value and the predicate from B, P. -/
def laneCensus (word : Nat) (x : LC) (val : Word → Word) (pred : Word → Word → Nat → Bool) (s : State) :
    Host.Outcome State Fault Refusal :=
  issueReg { word := word, vr := [x.d.toNat], vw := [x.d.toNat], rep := true }
    (fun c g =>
      let p := c.part x.g.toNat
      let b := census c g x
      (g.writeV (lanesOf p) x.d.toNat fun _ => val b).setP x.pv.toNat p (maskIf p (pred b p))) s

/-- A grouping word: the value and the predicate of a lane, from P and the lanes of P with the lane's own value. -/
def laneGroup (word : Nat) (x : LF) (wide : Bool) (val : Word → Word → Nat → Word) (pred : Word → Word → Nat → Bool) (s : State) :
    Host.Outcome State Fault Refusal :=
  issueReg { word := word, wf := !wide || even x.a, vr := x.d.toNat :: x.a.toNat :: (if wide then [x.a.toNat + 1] else []),
             vw := [x.d.toNat], rep := true }
    (fun c g =>
      let p := c.part x.g.toNat
      let v (l : Nat) : BitVec 64 := if wide then g.getV2 x.a.toNat l else (g.getV x.a.toNat l).setWidth 64
      let same (l : Nat) : Word := maskIf p fun t => v t == v l
      (g.writeV (lanesOf p) x.d.toNat fun l => val p (same l) l).setP x.pv.toNat p (maskIf p fun l => pred p (same l) l)) s

/-- The number of lanes of a mask below a lane. -/
def below (m : Word) (l : Nat) : Nat := ((lanesOf m).filter fun t => decide (t < l)).length


/-- `lpick.b32` (R171): Lane pick within segments, chosen by the control value. -/
def execLpick (x : LM) (s : State) : Host.Outcome State Fault Refusal :=
  laneMove (encLpick x) 0 x s

/-- `lrot.b32` (R171): Lane rotate within segments. -/
def execLrot (x : LM) (s : State) : Host.Outcome State Fault Refusal :=
  laneMove (encLrot x) 1 x s

/-- `lslide.b32` (R171): Lane slide within segments, filling with zero. -/
def execLslide (x : LM) (s : State) : Host.Outcome State Fault Refusal :=
  laneMove (encLslide x) 2 x s

/-- `lflip.b32` (R171): Lane exchange at an XOR rank distance within segments. -/
def execLflip (x : LM) (s : State) : Host.Outcome State Fault Refusal :=
  laneMove (encLflip x) 3 x s

/-- `lrev.b32` (R171): Lane reversal within segments. -/
def execLrev (x : LM) (s : State) : Host.Outcome State Fault Refusal :=
  laneMove (encLrev x) 4 x s

/-- `lfold.iadd.s32` (R172): Integer add fold over the participating lanes. -/
def execLfoldIaddS32 (x : LF) (s : State) : Host.Outcome State Fault Refusal :=
  laneFold (encLfoldIaddS32 x) x modS (fun h l => foldAdd h.sat l) s

/-- `lpre.iadd.s32` (R172): Inclusive integer add prefix. -/
def execLpreIaddS32 (x : LF) (s : State) : Host.Outcome State Fault Refusal :=
  lanePre (encLpreIaddS32 x) x modS true (fun h l => foldAdd h.sat l) s

/-- `lprex.iadd.s32` (R172): Exclusive integer add prefix. -/
def execLprexIaddS32 (x : LF) (s : State) : Host.Outcome State Fault Refusal :=
  lanePre (encLprexIaddS32 x) x modS false (fun h l => foldAdd h.sat l) s

/-- `lfold.imin.s32` (R172): Signed minimum fold over the participating lanes. -/
def execLfoldIminS32 (x : LF) (s : State) : Host.Outcome State Fault Refusal :=
  laneFold (encLfoldIminS32 x) x {} (fun _ l => (foldLanes opMinS l).getD 0x7FFFFFFF#32) s

/-- `lpre.imin.s32` (R172): Inclusive signed minimum prefix. -/
def execLpreIminS32 (x : LF) (s : State) : Host.Outcome State Fault Refusal :=
  lanePre (encLpreIminS32 x) x {} true (fun _ l => (foldLanes opMinS l).getD 0x7FFFFFFF#32) s

/-- `lprex.imin.s32` (R172): Exclusive signed minimum prefix. -/
def execLprexIminS32 (x : LF) (s : State) : Host.Outcome State Fault Refusal :=
  lanePre (encLprexIminS32 x) x {} false (fun _ l => (foldLanes opMinS l).getD 0x7FFFFFFF#32) s

/-- `lfold.imax.s32` (R172): Signed maximum fold over the participating lanes. -/
def execLfoldImaxS32 (x : LF) (s : State) : Host.Outcome State Fault Refusal :=
  laneFold (encLfoldImaxS32 x) x {} (fun _ l => (foldLanes opMaxS l).getD 0x80000000#32) s

/-- `lpre.imax.s32` (R172): Inclusive signed maximum prefix. -/
def execLpreImaxS32 (x : LF) (s : State) : Host.Outcome State Fault Refusal :=
  lanePre (encLpreImaxS32 x) x {} true (fun _ l => (foldLanes opMaxS l).getD 0x80000000#32) s

/-- `lprex.imax.s32` (R172): Exclusive signed maximum prefix. -/
def execLprexImaxS32 (x : LF) (s : State) : Host.Outcome State Fault Refusal :=
  lanePre (encLprexImaxS32 x) x {} false (fun _ l => (foldLanes opMaxS l).getD 0x80000000#32) s

/-- `lfold.fadd.f32` (R172): FP32 add fold in ascending lane order. -/
def execLfoldFaddF32 (x : LF) (s : State) : Host.Outcome State Fault Refusal :=
  laneFold (encLfoldFaddF32 x) x modRS (fun h l => (foldLanes (fAdd h.rm h.sat) l).getD 0x80000000#32) s

/-- `lpre.fadd.f32` (R172): Inclusive FP32 add prefix. -/
def execLpreFaddF32 (x : LF) (s : State) : Host.Outcome State Fault Refusal :=
  lanePre (encLpreFaddF32 x) x modRS true (fun h l => (foldLanes (fAdd h.rm h.sat) l).getD 0x80000000#32) s

/-- `lprex.fadd.f32` (R172): Exclusive FP32 add prefix, with identity −0. -/
def execLprexFaddF32 (x : LF) (s : State) : Host.Outcome State Fault Refusal :=
  lanePre (encLprexFaddF32 x) x modRS false (fun h l => (foldLanes (fAdd h.rm h.sat) l).getD 0x80000000#32) s

/-- `lfold.imin.n32` (R172): Unsigned minimum fold. -/
def execLfoldIminN32 (x : LF) (s : State) : Host.Outcome State Fault Refusal :=
  laneFold (encLfoldIminN32 x) x {} (fun _ l => (foldLanes opMinN l).getD 0) s

/-- `lfold.imax.n32` (R172): Unsigned maximum fold. -/
def execLfoldImaxN32 (x : LF) (s : State) : Host.Outcome State Fault Refusal :=
  laneFold (encLfoldImaxN32 x) x {} (fun _ l => (foldLanes opMaxN l).getD 0) s

/-- `lfold.fmin.f32` (R172): FP32 minimum fold. -/
def execLfoldFminF32 (x : LF) (s : State) : Host.Outcome State Fault Refusal :=
  laneFold (encLfoldFminF32 x) x {} (fun _ l => (foldLanes fMin l).getD 0) s

/-- `lfold.fmax.f32` (R172): FP32 maximum fold. -/
def execLfoldFmaxF32 (x : LF) (s : State) : Host.Outcome State Fault Refusal :=
  laneFold (encLfoldFmaxF32 x) x {} (fun _ l => (foldLanes fMax l).getD 0) s

/-- `lfold.and.b32` (R172): Bitwise AND fold. -/
def execLfoldAndB32 (x : LF) (s : State) : Host.Outcome State Fault Refusal :=
  laneFold (encLfoldAndB32 x) x {} (fun _ l => (foldLanes (· &&& ·) l).getD 0) s

/-- `lfold.or.b32` (R172): Bitwise OR fold. -/
def execLfoldOrB32 (x : LF) (s : State) : Host.Outcome State Fault Refusal :=
  laneFold (encLfoldOrB32 x) x {} (fun _ l => (foldLanes (· ||| ·) l).getD 0) s

/-- `lfold.xor.b32` (R172): Bitwise XOR fold. -/
def execLfoldXorB32 (x : LF) (s : State) : Host.Outcome State Fault Refusal :=
  laneFold (encLfoldXorB32 x) x {} (fun _ l => (foldLanes (· ^^^ ·) l).getD 0) s

/-- `pmask` (R172): Census: the mask of participating lanes where a predicate holds. -/
def execPmask (x : LC) (s : State) : Host.Outcome State Fault Refusal :=
  laneCensus (encPmask x) x (fun b => b) (fun b _ _ => b != 0) s

/-- `pcount` (R172): Census: the count of participating lanes where a predicate holds. -/
def execPcount (x : LC) (s : State) : Host.Outcome State Fault Refusal :=
  laneCensus (encPcount x) x (fun b => opPopc b) (fun b p _ => b == p) s

/-- `pfirst` (R172): Census: the lowest participating lane where a predicate holds. -/
def execPfirst (x : LC) (s : State) : Host.Outcome State Fault Refusal :=
  laneCensus (encPfirst x) x (fun b => if b = 0 then 0xFFFFFFFF#32 else opCtz b) (fun b _ l => b != 0 && (lanesOf b).head? == some l) s

/-- `pparity` (R172): Census: the parity of the count of lanes where a predicate holds. -/
def execPparity (x : LC) (s : State) : Host.Outcome State Fault Refusal :=
  laneCensus (encPparity x) x (fun b => opPopc b % 2) (fun b p _ => b == 0 || b == p) s

/-- `lpeers.b32` (R173): Mask of the lanes holding an equal 32-bit value. -/
def execLpeersB32 (x : LF) (s : State) : Host.Outcome State Fault Refusal :=
  laneGroup (encLpeersB32 x) x false (fun _ m _ => m) (fun _ m l => below m l == 0) s

/-- `lrank.b32` (R173): Rank of each lane among the lanes holding an equal 32-bit value. -/
def execLrankB32 (x : LF) (s : State) : Host.Outcome State Fault Refusal :=
  laneGroup (encLrankB32 x) x false (fun _ m l => BitVec.ofNat 32 (below m l)) (fun _ m l => below m l == 0) s

/-- `lsame.b32` (R173): Test that every participating lane holds one 32-bit value. -/
def execLsameB32 (x : LF) (s : State) : Host.Outcome State Fault Refusal :=
  laneGroup (encLsameB32 x) x false (fun p m _ => if m = p then p else 0) (fun p m _ => m == p) s

/-- `lpeers.b64` (R173): Mask of the lanes holding an equal 64-bit value. -/
def execLpeersB64 (x : LF) (s : State) : Host.Outcome State Fault Refusal :=
  laneGroup (encLpeersB64 x) x true (fun _ m _ => m) (fun _ m l => below m l == 0) s

/-- `lrank.b64` (R173): Rank of each lane among the lanes holding an equal 64-bit value. -/
def execLrankB64 (x : LF) (s : State) : Host.Outcome State Fault Refusal :=
  laneGroup (encLrankB64 x) x true (fun _ m l => BitVec.ofNat 32 (below m l)) (fun _ m l => below m l == 0) s

/-- `lsame.b64` (R173): Test that every participating lane holds one 64-bit value. -/
def execLsameB64 (x : LF) (s : State) : Host.Outcome State Fault Refusal :=
  laneGroup (encLsameB64 x) x true (fun p m _ => if m = p then p else 0) (fun p m _ => m == p) s

/-! ### Special registers (07 Table 7.7, 19 Table 19.8, 21 Table 21.2, 23 Table 23.12) -/

/-- Coordinate i of a lane identity (07 R95); 0 for i ≥ n. -/
def coordOf (h : BitVec 1024) (iid : BitVec 64) (i : Nat) : Nat :=
  if i < hNdim h then iid.toNat / 2 ^ hOff h i % 2 ^ hWid h i else 0

/-- Low and high halves of a number. -/
def lo32 (x : Nat) : Word := BitVec.ofNat 32 x
def hi32 (x : Nat) : Word := BitVec.ofNat 32 (x / 2 ^ 32)

/-- The task item whose `%cut` values a lane reads (19 R270); none outside task groups. -/
def Ctx.item (c : Ctx) (l : Nat) : Option CradleItem := Sparse.get none c.gr.items l

/-- The cut registers as a lane reads them: its own cohort's, or those carried by its task item. -/
def Ctx.cutOrg (c : Ctx) (l i : Nat) : Nat := ((c.item l).map (·.org)).getD c.co.org |>.getD i 0
def Ctx.cutExt (c : Ctx) (l i : Nat) : Nat := ((c.item l).map (·.ext)).getD c.co.ext |>.getD i 1
def Ctx.cutSeq (c : Ctx) (l : Nat) : Nat := ((c.item l).map (·.cseq)).getD c.co.cseq
def Ctx.cutVol (c : Ctx) (l : Nat) : Nat := ((c.item l).map (·.vol)).getD c.co.vol
def Ctx.cutWave (c : Ctx) (l : Nat) : Nat := ((c.item l).map (·.wave)).getD c.co.wave

/-- Items left in a receiver's share: items t with t mod |O| = r, not yet taken (19 R277, R278). -/
def Expansion.left (e : Expansion) (i : Nat) (r : Recv) : Nat :=
  if e.owners.isEmpty then 0 else (e.t + e.owners.length - 1 - i) / e.owners.length - r.taken

/-- The Sluice registers of a lane (19 R278, R290). -/
def Ctx.sluiceReg (c : Ctx) (n l : Nat) : Word :=
  match c.co.sluiceItem c.gr.index l with
  | none => if n = 4 then 0 else 0xFFFFFFFF#32
  | some (_, e, r, o, i) =>
    match n with
    | 0 => lo32 o.lane
    | 1 => lo32 o.g
    | 2 => lo32 i
    | 3 => o.start + lo32 i
    | _ => lo32 (e.left (e.recvs.findIdx fun x => x.g == r.g && x.lane == r.lane) r)

/-- A frame of the cohort's Winze run. -/
def WinzeRun.frame? (w : WinzeRun) (f : Nat) : Option Frame := Sparse.get none w.frames f

/-- Address of a frame's payload (19 R284). -/
def WinzeRun.payload (w : WinzeRun) (f : Nat) : Nat := w.arena + f * (32 + w.fsz) + 32

/-- The Winze registers of a lane (19 Table 19.8): 0xFFFF_FFFF outside a Winze group. -/
def Ctx.winzeReg (c : Ctx) (n l : Nat) : Word :=
  match Sparse.get none c.gr.wz l, c.co.run with
  | some i, some w =>
    let kf := ((w.frame? i.frame).map fun f => f.kid0 + i.kid).getD 0
    let comb (x : Word) : Word := if i.rout = 2 then x else 0xFFFFFFFF#32
    match n with
    | 0 => lo32 i.frame
    | 1 => lo32 (((w.frame? i.frame).map (·.depth)).getD 0)
    | 2 => lo32 i.rout
    | 3 => comb (lo32 i.kid)
    | 4 => comb (lo32 kf)
    | 5 => lo32 (w.payload i.frame)
    | 6 => hi32 (w.payload i.frame)
    | 7 => comb (lo32 (w.payload kf))
    | 8 => comb (hi32 (w.payload kf))
    | _ => match ((w.frame? i.frame).bind (·.worker)) with
      | none => 0xFFFFFFFF#32
      | some k => lo32 k
  | _, _ => 0xFFFFFFFF#32

/-- The trap registers (21 Table 21.2): 0 in a split that is not a handler split. -/
def Ctx.trapReg (c : Ctx) (n : Nat) : Word :=
  match c.sp.handler, c.gr.trap with
  | true, some r =>
    match n with
    | 0x80 => lo32 r.code
    | 0x81 => match r.lane with
      | none => 0xFFFFFFFF#32
      | some l => lo32 l
    | 0x82 => lo32 r.pc.toNat
    | 0x83 => hi32 r.pc.toNat
    | 0x84 => lo32 r.pos.toNat
    | 0x85 => r.word
    | 0x86 => lo32 r.addr.toNat
    | 0x87 => hi32 r.addr.toNat
    | 0x88 => lo32 r.detail.toNat
    | 0x89 => hi32 r.detail.toNat
    | 0x8A => match r.own with
      | none => 0
      | some (g, l, _) => lo32 (2 ^ 31 + l % 32 * 256 + g % 16)
    | 0x8B => match r.own with
      | none => 0
      | some (_, _, i) => i
    | 0x8C => match r.wz with
      | none => 0
      | some (_, f) => f
    | 0x8D => match r.wz with
      | none => 0
      | some (k, _) => lo32 (2 ^ 31 + k % 4)
    | 0x90 => lo32 r.rpc.toNat
    | 0x91 => hi32 r.rpc.toNat
    | _ => lo32 r.rpos.toNat
  | _, _ => 0

/-- A lane's current digest context (23 R328). -/
def Ctx.digest (c : Ctx) (l : Nat) : Option DigestCtx := Sparse.get none c.gr.dg l

/-- The value of a special register for a lane; a uniform register has one value for all lanes, which a task group reads
from each lane's item (log entry 15). -/
def special (c : Ctx) (s : State) (n l : Nat) : Word :=
  let iid := Sparse.get 0 c.gr.iids l
  let args := hArgs c.co.hdr
  if n = 0x00 then lo32 l
  else if n = 0x01 then lo32 c.gr.index
  else if n = 0x02 then c.gr.valid
  else if n = 0x03 then lo32 c.gr.role
  else if n = 0x04 then lo32 c.co.ngroups
  else if n = 0x05 then lo32 c.co.lcell
  else if n = 0x06 then lo32 c.co.die
  else if n = 0x07 then lo32 (hPrio c.co.hdr)
  else if n = 0x08 then lo32 iid.toNat
  else if n = 0x09 then hi32 iid.toNat
  else if n < 0x18 then lo32 (coordOf c.co.hdr iid (n - 0x10))
  else if n < 0x20 then hi32 (coordOf c.co.hdr iid (n - 0x18))
  else if n < 0x28 then lo32 (c.cutOrg l (n - 0x20))
  else if n < 0x30 then hi32 (c.cutOrg l (n - 0x28))
  else if n < 0x38 then lo32 (c.cutExt l (n - 0x30))
  else if n = 0x38 then lo32 (c.cutSeq l)
  else if n = 0x39 then hi32 (c.cutSeq l)
  else if n = 0x3A then lo32 (c.cutVol l)
  else if n = 0x3B then lo32 (c.cutWave l)
  else if n = 0x40 then (if c.gr.marks.getLsbD l && c.co.kind != .task then 1 else 0)
  else if n = 0x41 then lo32 c.who.si
  else if n = 0x42 then lo32 s.time
  else if n = 0x43 then hi32 s.time
  else if n = 0x44 then lo32 args
  else if n = 0x45 then hi32 args
  else if n = 0x46 then lo32 (s.cell (c.cell s)).lls
  else if n < 0x55 then c.sluiceReg (n - 0x50) l
  else if n = 0x55 then lo32 (((c.co.setOf c.gr.index).bind (·.exp)).map (·.t) |>.getD 0)
  else if n = 0x56 then hi32 (((c.co.setOf c.gr.index).bind (·.exp)).map (·.t) |>.getD 0)
  else if n = 0x58 then ((c.item l).map (·.arg0)).getD 0
  else if n = 0x59 then ((c.item l).map (·.arg1)).getD 0
  else if n = 0x5A then lo32 (((c.item l).map (·.depth)).getD 0)
  else if n < 0x70 then c.winzeReg (n - 0x60) l
  else if n < 0x98 then c.trapReg n
  else if n = 0x98 then c.co.tvec
  else if n = 0x99 then (if c.sp.handler then 1 else 0)
  else if n = 0x9A then (if c.sp.handler then lo32 (c.gr.hcyc + (s.now c.co - c.gr.hstart)) else 0)
  else if n = 0xA0 then lo32 c.co.ctx.toNat
  else if n = 0xA1 then hi32 c.co.ctx.toNat
  else if n = 0x100 then lo32 (((c.digest l).map (·.d.toNat)).getD 0)
  else if n = 0x101 then hi32 (((c.digest l).map (·.d.toNat)).getD 0)
  else if n = 0x102 then lo32 (((c.digest l).map (·.x.toNat)).getD 0)
  else if n = 0x103 then (if ((c.co.launch.bind s.launch?).bind (·.dslot)).isSome then 1 else 0)
  else if n = 0x104 then c.co.ltag.setWidth 32
  else if n = 0x105 then (if c.gr.stepped then 1 else 0)
  else 0

/-- `movs` (R174): Reads a special register into a vector or scalar register. -/
def execMovsRead (g : BitVec 3) (d : BitVec 7) (k : BitVec 1) (s' : BitVec 14) (st : State) : Host.Outcome State Fault Refusal :=
  issue { word := (encMovsRead g d k s'), wf := movsReadWf g d k s', vr := if k == 0 then [d.toNat] else [], vw := if k == 0 then [d.toNat] else [] }
    (fun _ _ => none)
    (fun c st => if k == 0 then st.updGr c.who (vlanes g.toNat d.toNat (fun c _ l => special c st s'.toNat l) c)
      else st.updGr c.who fun gr => gr.setS d.toNat (special c st s'.toNat ((lanesOf c.gr.valid).headD 0))) st

/-- Write a writable special register (21 Table 21.2): `%tvec` ignores bits [1:0]; the resume registers set the TRAP
entry (21 R298). -/
def writeSpecial (c : Ctx) (n : Nat) (x : Word) (s : State) : State :=
  if n = 0x98 then s.updCo c.who.co fun co => { co with tvec := x &&& ~~~(3#32) }
  else
    let pcf (pc : VAddr) : VAddr :=
      if n = 0x90 then putBits pc 0 32 (nv x / 4 * 4) else if n = 0x91 then putBits pc 32 24 (nv x) else pc
    let posf (p : BitVec 6) : BitVec 6 := if n = 0x92 then x.setWidth 6 else p
    s.updGr c.who fun g =>
      match (g.view c.who.si).find? fun e => e.kind = .trap with
      | none => g
      | some e =>
        { g with
          stack := g.stack.replace e { e with pc := pcf e.pc, pos := posf e.pos }
          trap := g.trap.map fun r => { r with rpc := pcf r.rpc, rpos := posf r.rpos } }

/-- The value a `movs` write takes: s[d], or v[d] of the lowest participating lane, none with an empty Part (11 R176). -/
def movsSource (c : Ctx) (g : BitVec 3) (d : BitVec 7) (k : BitVec 1) : Option Word :=
  if k == 1 then some (c.gr.getS d.toNat) else ((lanesOf (c.part g.toNat)).head?).map fun l => c.gr.getV d.toNat l

/-- `movs` (R176): Writes a writable special register from a vector or scalar register. -/
def execMovsWrite (g : BitVec 3) (d : BitVec 7) (k : BitVec 1) (s' : BitVec 12) (st : State) : Host.Outcome State Fault Refusal :=
  issue { word := (encMovsWrite g d k s'), wf := movsWriteWf g d k s', vr := if k == 0 then [d.toNat] else [] }
    (fun c _ => if s' != 0x98 && !c.sp.handler then some { code := PROTECTION } else none)
    (fun c st => match movsSource c g d k with
      | none => st
      | some x => writeSpecial c s'.toNat x st) st

/-- `bcast.b32` (R175): Broadcasts a scalar register to the participating lanes. -/
def execBcastB32 (g : BitVec 3) (d : BitVec 7) (k : BitVec 6) (s : State) : Host.Outcome State Fault Refusal :=
  issueReg { word := (encBcastB32 g d k), vr := [d.toNat], vw := [d.toNat] } (vlanes g.toNat d.toNat fun _ gr _ => gr.getS k.toNat) s

/-- `rdlane.b32` (R175): Reads one named lane of a vector register into a scalar register. -/
def execRdlaneB32 (g : BitVec 3) (d : BitVec 7) (k : BitVec 6) (n : BitVec 5) (s : State) : Host.Outcome State Fault Refusal :=
  issueReg { word := (encRdlaneB32 g d k n), vr := [d.toNat] }
    (fun c gr => gr.setS k.toNat (if (c.part g.toNat).getLsbD n.toNat then gr.getV d.toNat n.toNat else 0)) s

/-- `rdlane.first.b32` (R175): Reads the lowest participating lane of a vector register into a scalar register. -/
def execRdlaneFirstB32 (g : BitVec 3) (d : BitVec 7) (k : BitVec 6) (s : State) : Host.Outcome State Fault Refusal :=
  issueReg { word := (encRdlaneFirstB32 g d k), vr := [d.toNat] }
    (fun c gr => gr.setS k.toNat (match (lanesOf (c.part g.toNat)).head? with
      | none => 0
      | some l => gr.getV d.toNat l)) s

end Sys2Proof.Machine
end

