-- ==== Sys2Proof/Machine/Sluice.lean ====
section
/-! DEFINITION. The Sluice: expansions, their items, folds and results (19.4). -/
namespace Sys2Proof.Machine

/-! ### Folds (19 Table 19.3, R278) -/

/-- The fold step of an operation. -/
def sluiceFold (op : Nat) (x y : Word) : Word :=
  match op with
  | 0 => narrow false (sv x + sv y)
  | 1 => fAdd 0 false x y
  | 2 => fMin x y
  | 3 => fMax x y
  | 4 => opMinS x y
  | _ => opMaxS x y

/-- The identity of an operation. -/
def sluiceIdent (op : Nat) : Word :=
  match op with
  | 2 => 0x7F800000#32
  | 3 => 0xFF800000#32
  | 4 => 0x7FFFFFFF#32
  | 5 => 0x80000000#32
  | _ => 0

/-- Item t as owner index and inner index: items run owner by owner (19 R277). -/
def itemAt : List Owner → Nat → Option (Nat × Nat)
  | [], _ => none
  | o :: l, t => if t < o.len then some (0, t) else (itemAt l (t - o.len)).map fun p => (p.1 + 1, p.2)

/-- Fold the held pairs of owner i that are next in order (19 R278). -/
def Expansion.drain (i : Nat) : Nat → Expansion → Expansion
  | 0, e => e
  | n + 1, e =>
    match e.owners[i]? with
    | none => e
    | some o =>
      match e.held.find? fun h => h.1 == i && h.2.1 == o.next with
      | none => e
      | some h =>
        let acc := match h.2.2, o.acc with
          | none, a => a
          | some v, none => some v
          | some v, some a => some (sluiceFold e.op a v)
        Expansion.drain i n { e with
          held := e.held.erase h
          owners := e.owners.modify i fun o => { o with acc := acc, next := o.next + 1 } }

/-- Close(item) with its value (19 R278). -/
def Expansion.close (e : Expansion) (i n : Nat) (v : Option Word) : Expansion :=
  Expansion.drain i (e.held.length + 1) { e with held := e.held ++ [(i, n, v)] }

/-- A receiver's index. -/
def Expansion.recvIx (e : Expansion) (g l : Nat) : Option Nat := e.recvs.findIdx? fun r => r.g == g && r.lane == l

/-- A receiver closes its current item. -/
def Expansion.closeCur (e : Expansion) (ix : Nat) : Expansion :=
  match (e.recvs[ix]?).bind fun r => r.cur.map fun p => (p, r.posted) with
  | none => e
  | some (p, v) => { e.close p.1 p.2 v with recvs := e.recvs.modify ix fun r => { r with cur := none, posted := none } }

/-- A receiver takes the next item of its share: items t with t mod |O| = r, ascending (19 R277). -/
def Expansion.fetch (e : Expansion) (ix : Nat) : Expansion :=
  match e.recvs[ix]? with
  | none => e
  | some r =>
    let t := ix + r.taken * e.recvs.length
    if t < e.t then { e with recvs := e.recvs.modify ix fun r => { r with cur := itemAt e.owners t, taken := r.taken + 1 } }
    else { e with recvs := e.recvs.modify ix fun r => { r with done := true } }

/-- A receiver lane exits: its current item and the rest of its share close, in ascending order, with no value of their own
(19 R278). -/
def Expansion.leaveAll (ix : Nat) : Nat → Expansion → Expansion
  | 0, e => e
  | n + 1, e =>
    let e1 := (e.closeCur ix).fetch ix
    if (e1.recvs[ix]?).any fun r => r.done then e1 else Expansion.leaveAll ix n e1

/-- The expansion is over: every receiver is done and every pair is folded (19 R280). -/
def Expansion.isOver (e : Expansion) : Bool := e.held.isEmpty && e.recvs.all fun r => r.done && r.cur.isNone

/-- A lane leaves every expansion that it receives in (19 R278). -/
def SluiceSet.leave (gidx l : Nat) (st : SluiceSet) : SluiceSet := { st with exp := st.exp.map fun e => match e.recvIx gidx l with
  | some ix => Expansion.leaveAll ix (e.t + 2) e
  | none => e }

/-- Change the expansion of a group's set. -/
def Cohort.updExp (c : Cohort) (gidx : Nat) (f : Expansion → Expansion) : Cohort :=
  match c.setOf gidx with
  | none => c
  | some st => { c with sets := c.sets.replace st { st with exp := st.exp.map f } }

/-! ### `xpand` (19 R276, R277) -/

/-- The set of a group: its size and first member; a task or Winze group is a set of one (19 R276). -/
def Ctx.setSize (c : Ctx) (k : Nat) : Nat × Nat :=
  if c.co.kind == .task || decide (c.co.ngroups ≤ c.who.gi) then (1, c.gr.index) else (k, c.gr.index / k * k)

/-- The contribution of a group that is recorded. -/
def Cohort.contrib (c : Cohort) (gidx : Nat) : Option Contrib := c.sets.findSome? fun st => st.contribs.find? fun x => x.g == gidx

/-- Owners that a group brings: its participating lanes. -/
def Ctx.owners (c : Ctx) (a : Nat) : List Owner :=
  (lanesOf c.partH).map fun l => { g := c.gr.index, lane := l, start := c.gr.getV a l, len := (c.gr.getV (a + 1) l).toNat }

/-- The other members of the set that the group waits for: dispatched, not finished. -/
def Ctx.members (c : Ctx) (k : Nat) : List Nat :=
  let (n, first) := c.setSize k
  ((c.co.groups.take c.co.ngroups).filter fun g => n != 1 && first ≤ g.index && decide (g.index < first + n) && g.index != c.gr.index && !g.fin).map
    fun g => g.index

/-- Every other member has issued its `xpand`. -/
def Ctx.lastMember (c : Ctx) (k : Nat) : Bool := (c.members k).all fun h => (c.co.contrib h).isSome

/-- The members' contributions with the group's own, by group (19 R277). -/
def Ctx.allOwners (c : Ctx) (k a : Nat) : List Owner :=
  let (_, first) := c.setSize k
  let os := (c.members k).flatMap fun h => ((c.co.contrib h).map (·.owners)).getD []
  (List.range k).flatMap fun i => (os ++ c.owners a).filter fun o => o.g == first + i

/-- The check of Expand at the last member: ENGINE_FAULT. -/
def Ctx.expandBad (c : Ctx) (k op a : Nat) : Bool :=
  c.lastMember k &&
  ((c.members k).any (fun h => (c.co.contrib h).any fun x => x.k != k || x.op != op) ||
   decide (2 ^ 24 < ((c.allOwners k a).map fun o => o.len).sum))

/-- Record a contribution, in place of an earlier one of the group. -/
def Cohort.addContrib (c : Cohort) (k first : Nat) (x : Contrib) : Cohort :=
  let drop (st : SluiceSet) : SluiceSet := { st with contribs := st.contribs.filter fun y => y.g != x.g }
  let sets := c.sets.map drop
  if sets.any fun st => st.k == k && st.first == first then
    { c with sets := sets.map fun st => if st.k = k ∧ st.first = first then { st with contribs := st.contribs ++ [x] } else st }
  else { c with sets := { k := k, first := first, contribs := [x] } :: sets }

/-- Form the expansion: the set, most recent first, with its contributions used up (19 R277). -/
def Cohort.expand (c : Cohort) (k first op : Nat) (gs : List Nat) (os : List Owner) : Cohort :=
  let sets := (c.sets.filter fun st => !(st.k == k && st.first == first)).map fun st =>
    { st with contribs := st.contribs.filter fun y => !gs.contains y.g }
  let e : Expansion := { t := (os.map fun o => o.len).sum, op := op, k := k, owners := os,
                         recvs := os.map fun o => { g := o.g, lane := o.lane } }
  { c with sets := { k := k, first := first, exp := some e } :: sets }

/-- `xpand.op vS, k` (19 R277). -/
def execXpand (k : BitVec 3) (a : BitVec 6) (o : BitVec 6) (s : State) : Host.Outcome State Fault Refusal :=
  let kk := 2 ^ k.toNat
  issue { word := encXpand k a o, wf := even a && decide (k.toNat ≤ 2) && decide (o.toNat ≤ 5), vr := [a.toNat, a.toNat + 1],
          guard := true, noMod := true, noHandler := true, hold := true }
    (fun c _ => if 1 < c.gr.liveCount then some { code := ILLEGAL }
      else if c.expandBad kk o.toNat a.toNat then some { code := ENGINE_FAULT } else none)
    (fun c s =>
      let (n, first) := c.setSize kk
      if c.lastMember kk then
        let gs := c.gr.index :: c.members kk
        let os := c.allOwners kk a.toNat
        s.updCo c.who.co fun co =>
          let co1 := co.expand n first o.toNat gs os
          { co1 with groups := co1.groups.map fun g => if gs.contains g.index then
              { g with splits := (g.splits.zipIdx).map fun p => if p.1.wait = .xpand ∨ (g.index = c.gr.index ∧ p.2 = c.who.si) then p.1.next else p.1 } else g }
      else
        (s.updCo c.who.co fun co => co.addContrib n first { g := c.gr.index, si := c.who.si, k := kk, op := o.toNat, owners := c.owners a.toNat, word := BitVec.ofNat 32 (encXpand k a o) }).updSp
          c.who fun x => { x with wait := .xpand }) s

/-! ### `xnext`, `sred`, `sred.get` (19 R278 to R281) -/

/-- IID of a lane of a group of the cohort. -/
def Cohort.iidOf (c : Cohort) (gidx l : Nat) : BitVec 64 :=
  match c.groups.find? fun g => g.index == gidx with
  | none => 0
  | some g => Sparse.get 0 g.iids l

/-- A lane's `xnext` (19 R278), with its digest contexts (23 R328). -/
def xnextLane (w : Who) (gidx : Nat) (dig : Bool) (s : State) (l : Nat) : State :=
  match s.cohort? w.co with
  | none => s
  | some c =>
    match ((c.setOf gidx).bind (·.exp)).bind fun e => e.recvIx gidx l with
    | none => s
    | some ix =>
      let had := (c.sluiceItem gidx l).isSome
      let s1 := (if dig && had then s.closeLane w.co w.gi l else s).updCo w.co fun c =>
        c.updExp gidx fun e => (e.closeCur ix).fetch ix
      match (s1.cohort? w.co).bind fun c => (c.sluiceItem gidx l).map fun x => (c, x.2.2.2.1, x.2.2.2.2) with
      | none => s1
      | some (c1, o, n) =>
        if dig then s1.updGr w fun g => g.openCtx l (c1.iidOf o.g o.lane) (BitVec.ofNat 64 (2 ^ 32 + n)) true else s1

/-- `xnext pD` (19 R278). -/
def execXnext (p : BitVec 3) (s : State) : Host.Outcome State Fault Refusal :=
  issue { word := encXnext p, wf := p != 7, guard := true, noMod := true, noHandler := true } (fun _ _ => none)
    (fun c s =>
      let ls := lanesOf c.partH
      let s1 := ls.foldl (xnextLane c.who c.gr.index (s.dslotOf c.co).isSome) s
      s1.updGr c.who fun g => g.setP p.toNat c.partH (maskIf c.partH fun l =>
        ((s1.cohort? c.who.co).bind fun co => co.sluiceItem c.gr.index l).isSome)) s

/-- `sred vA` (19 R279): a full queue 2 stalls the split; a group whose request stands there already adds to it (log entry 61). -/
def execSred (a : BitVec 6) (s : State) : Host.Outcome State Fault Refusal :=
  issueFull { word := encSred a, vr := [a.toNat], guard := true, noMod := true, noHandler := true, reads := true }
    (fun c s => !c.co.posted c.gr.index && s.queueFull c.co 2) (fun _ _ => none)
    (fun c s => s.updCo c.who.co fun co => (lanesOf c.partH).foldl (fun co l => co.updExp c.gr.index fun e =>
      { e with recvs := e.recvs.map fun r => if r.g = c.gr.index ∧ r.lane = l ∧ r.cur.isSome then
          { r with posted := some (c.gr.getV a.toNat l) } else r }) co)
    (fun _ s => s) s

/-- The values that `sred.get` returns: owners' folds, or the identity (19 R280). -/
def Expansion.results (e : Expansion) (gidx : Nat) (m : Word) (d : Nat) : Sparse Word :=
  (lanesOf m).filterMap fun l => (e.owners.find? fun o => o.g == gidx && o.lane == l).map fun o =>
    (32 * d + l, o.acc.getD (sluiceIdent e.op))

/-- `sred.get vD` (19 R280): its result comes when the expansion is over; with no expansion it writes nothing. -/
def execSredGet (d : BitVec 6) (l : BitVec 4) (s : State) : Host.Outcome State Fault Refusal :=
  let q : Req := { word := encSredGet d l, vr := [d.toNat], vw := [d.toNat], guard := true, noMod := true, noHandler := true, look := l.toNat }
  issue q (fun _ _ => none)
    (fun c s => match (c.co.setOf c.gr.index).bind (·.exp) with
      | none => s
      | some e => s.updGr c.who fun g => g.result c.who.si
          { c.window q d.toNat 1 c.partH with ready := e.isOver, vals := if e.isOver then e.results c.gr.index c.partH d.toNat else [] }) s

end Sys2Proof.Machine
end

