-- ==== Sys2Proof/Machine/LaneMem.lean ====
section
/-! DEFINITION. The lanes path: the checks of 15 R216, translation, loads, stores and atomic operations at their places. -/
namespace Sys2Proof.Machine

/-- A lane's access: lane and 64-bit address. -/
abbrev LaneAt := Nat × Nat

/-- The first fault of a global access of w bytes by one lane (15 R216): its translation when there is none. -/
def State.laneAccess (s : State) (c : Cohort) (k : Access) (w a : Nat) : Except Code Phys :=
  if 2 ^ 56 ≤ a then .error PROTECTION
  else if a % w ≠ 0 then .error ALIGNMENT
  else match s.laneXlate c a k with
    | .error e => .error e
    | .ok p => if isRegKey p.key ∧ w ≠ 8 then .error PROTECTION
      else if k == .read && s.spoilt (s.clusterOf c) p.key w then .error ECC_UNCORRECTED else .ok p

/-- The trap of the lowest lane that faults. -/
def State.gcheck (s : State) (c : Cohort) (k : Access) (w : Nat) (as : List LaneAt) : Option Trap :=
  as.findSome? fun p => match s.laneAccess c k w p.2 with
    | .ok _ => none
    | .error e => some { code := e, lane := some p.1, addr := BitVec.ofNat 64 p.2 }

/-- The byte key of a checked access. -/
def State.keyAt (s : State) (c : Cohort) (k : Access) (a : Nat) : Nat := match s.laneXlate c a k with
  | .ok p => p.key
  | .error _ => 0

/-- A lane's access goes to another module and no link port is UP (25 R347). A read of bytes that the cluster cache holds goes
nowhere. -/
def State.noPort (s : State) (c : Cohort) (k : Access) (w a : Nat) : Bool :=
  let key := s.keyAt c k a
  s.noRoute key && !(k == .read && (s.clusterOf c).any fun u => (List.range w).all fun j => (s.cached? u (key + j)).isSome)

/-- The instruction waits for a port (25 R347). -/
def State.noLink (s : State) (c : Cohort) (k : Access) (w : Nat) (as : List LaneAt) : Bool :=
  (s.gcheck c k w as).isNone && as.any fun p => s.noPort c k w p.2

/-- The same for accesses that no lane is named for. -/
def State.noLinkAt (s : State) (c : Cohort) (k : Access) (w : Nat) (as : List Nat) : Bool := s.noLink c k w (as.map fun a => (0, a))

/-- The trap of the lowest lane whose scratch access breaks 15 R216. -/
def scratchCheck (c : Cohort) (w : Nat) (as : List (Nat × Int)) : Option Trap :=
  as.findSome? fun p =>
    if p.2 < 0 ∨ (c.z : Int) < p.2 + w then some { code := SCRATCH_BOUNDS, lane := some p.1, addr := BitVec.ofInt 64 p.2 }
    else if p.2 % (w : Int) ≠ 0 then some { code := ALIGNMENT, lane := some p.1, addr := BitVec.ofInt 64 p.2 } else none

/-- The trap of the lowest lane of an atomic whose read meets an uncorrectable error (21 R295; log entry 59). -/
def State.atomSpoilt (s : State) (c : Cohort) (k : Access) (w : Nat) (as : List LaneAt) : Option Trap :=
  if s.bad.isEmpty then none
  else (as.find? fun p => s.spoilt (s.clusterOf c) (s.keyAt c k p.2) w).map fun p =>
    { code := ECC_UNCORRECTED, lane := some p.1, addr := BitVec.ofNat 64 p.2 }

/-- The caches of the cluster keep the translation and the sector of a lane's access (13 R182, R193). -/
def State.touch (s : State) (c : Cohort) (k : Access) (a : Nat) : State :=
  match s.laneXlate c a k with
  | .ok p => if isRegKey p.key then s else (s.laneTlbFill c p).laneFill (s.clusterOf c) (s.pcell c.lcell) p.key
  | .error _ => s

/-- The bytes that a lane reads: the cluster's copy, else the home slice's (13 R204). -/
def State.loadBytes (s : State) (c : Cohort) (a w : Nat) : List Byte := s.laneBytes (s.clusterOf c) (s.keyAt c .read a) w

/-- The number under which a cohort's requests go to the home slices (13 R198). -/
def State.source (s : State) (c : Cohort) : Nat := match c.kind with
  | .headframe n => s.unit (72 + n)
  | _ => s.unit (s.pcell c.lcell / 8)

/-- A lane's store: into the cluster cache, or from a Headframe core, as a request of its own, to the home slice. -/
def State.storeBytes (s : State) (c : Cohort) (a : Nat) (bs : List Byte) : State :=
  match s.laneXlate c a .write with
  | .ok p =>
    let s1 := if c.isHF then s.numbered (s.source c) p.key else s
    (s1.laneTlbFill c p).laneStore (s1.clusterOf c) (s1.pcell c.lcell) p.key bs (s1.vdTag c.root)
  | .error _ => s

/-- Counter h: the cell's victim tags hold a line of the access (07 Table 7.3, R117). -/
def State.victims (s : State) (c : Ctx) (k : Access) (as : List LaneAt) : State :=
  if c.co.isHF then s
  else
    let cell := s.pcell c.co.lcell
    let tags := (s.cell cell).vtags
    if as.any fun p => match s.laneXlate c.co p.2 k with
        | .ok q => tags.contains (q.key / 128)
        | .error _ => false then
      (s.updCo c.who.co fun co => { co with ctr := { co.ctr with h := co.ctr.h + 1 } }).updCell cell fun x => { x with h := x.h + 1 }
    else s

/-- The words that loaded bytes put into registers d, d + 1, …, zero-extended (15 R218). -/
def loadWords (d l n : Nat) (bs : List Byte) : Sparse Word :=
  (List.range n).map fun i => (32 * (d + i) + l, BitVec.ofNat 32 (ofBytes ((bs.drop (4 * i)).take 4)))

/-- Bytes of an M access by sz and B8, and its registers (15 Table 15.1). -/
def mWidth (z : Nat) (b8 : Bool) : Nat := match z with
  | 0 => if b8 then 1 else 4
  | 1 => 8
  | 2 => 16
  | _ => 2
def mRegs (z : Nat) : Nat := if z = 1 then 2 else if z = 2 then 4 else 1

/-- The values that a load brings into registers d, d + 1, … (15 R218, R219). -/
def State.loadVals (s : State) (c : Cohort) (scr : Bool) (w nreg d : Nat) (as : List LaneAt) : Sparse Word :=
  as.flatMap fun p => loadWords d p.1 nreg (if scr then c.scratchBytes p.2 w else s.loadBytes c p.2 w)

/-- Displacement of the chain's IMM hints (05 R65): signed, n = 0. -/
def Hints.disp (h : Hints) : Int := if h.imm.isEmpty then 0 else (h.extImm 0 0 true).getD 0

/-- Payload bits above bit 31 trap at the first IMM hint (05 R65). -/
def Hints.badDisp (h : Hints) : Option Trap :=
  if !h.imm.isEmpty && (h.extImm 0 0 true).isNone then some { code := ILLEGAL, pc := some h.immPc } else none

/-! ### Atomic operations (15 Table 15.2) -/

/-- Bytes of an operation. -/
def atomWidth (op : Nat) : Nat := if op = 8 ∨ op = 11 then 8 else 4

/-- The new value of a location, from the old one and the operands. -/
def atomNew (op : Nat) (old d x : BitVec 64) : BitVec 64 :=
  let o : Word := old.setWidth 32
  let e : Word := d.setWidth 32
  let w (r : Word) : BitVec 64 := r.setWidth 64
  match op with
  | 0 => w (o + e)
  | 1 => w (fAdd 0 false o e)
  | 2 => w (opMinS o e)
  | 3 => w (opMaxS o e)
  | 4 => w (o &&& e)
  | 5 => w (o ||| e)
  | 6 => w e
  | 7 => w (if o = e then x.setWidth 32 else o)
  | 8 => old + d
  | 9 => w (o + e)
  | 10 => w (fAdd 0 false o e)
  | 11 => old + d
  | 12 => old
  | 13 => w e
  | 14 => w (o + e)
  | _ => w (if o = e then x.setWidth 32 else o)

/-- An operation at the home slice (13 R196): the old value and the state after. -/
def State.atomHome (s : State) (key vd op : Nat) (d x : BitVec 64) : BitVec 64 × State :=
  let old := BitVec.ofNat 64 (s.homeRead key (atomWidth op))
  (old, if op = 12 then s else s.homeWrite key (bytesOf (atomWidth op) (atomNew op old d x).toNat) vd)

/-- An operation at a cluster atomic unit (13 R197): it reads the location as the cluster cache holds it and stores its
result there. -/
def State.atomCluster (s : State) (k cell key vd op : Nat) (d x : BitVec 64) : BitVec 64 × State :=
  let old := BitVec.ofNat 64 (ofBytes (s.laneBytes (some k) key (atomWidth op)))
  let s1 := s.fillSector k cell key
  (old, if op = 12 then s1 else s1.cacheStore k cell key (bytesOf (atomWidth op) (atomNew op old d x).toNat) vd)

/-- An operation at the scratch bank (15 R227). -/
def Cohort.atomScratch (c : Cohort) (a op : Nat) (d x : BitVec 64) : BitVec 64 × Cohort :=
  let old := BitVec.ofNat 64 (ofBytes (c.scratchBytes a (atomWidth op)))
  (old, if op = 12 then c else c.scratchWrite a (bytesOf (atomWidth op) (atomNew op old d x).toNat))

/-! ### Sequenced requests (13 R198) -/

/-- Perform an operation at its home, with the old value of an atomic. -/
def State.perform (s : State) (key vd : Nat) : MemOp → BitVec 64 × State
  | .write bs => (0, s.homeWrite key bs vd)
  | .atom op d x => s.atomHome key vd op d x

/-- Apply the early requests whose turn has come. -/
def State.applyEarly (slice src : Nat) : Nat → State → State
  | 0, s => s
  | n + 1, s =>
    let r := s.sliceRec slice src
    match r.early.find? fun q => BitVec.ofNat 32 q.seq == r.last + 1 with
    | none => s
    | some q =>
      let (v, s1) := s.perform q.key q.vd q.op
      State.applyEarly slice src n (s1.setSliceRec { r with
        last := r.last + 1
        results := ((BitVec.ofNat 32 q.seq, v) :: r.results).take 16
        early := r.early.erase q })

/-- A request reaches its slice (13 R198): applied when its sequence is the next of its source, acknowledged when it has been
applied, else kept until its turn. A source has at most 16 outstanding, so one further ahead is none of its requests. -/
def State.request (s : State) (q : SliceReq) : Option (BitVec 64) × State :=
  let sl := sliceOf q.key
  let r := s.sliceRec sl q.src
  let n := BitVec.ofNat 32 q.seq
  if n = r.last + 1 then
    let (v, s1) := s.perform q.key q.vd q.op
    let s2 := s1.setSliceRec { r with last := n, results := ((n, v) :: r.results).take 16 }
    (some v, State.applyEarly sl q.src (r.early.length + 1) s2)
  else
    match r.results.find? fun p => p.1 == n with
    | some p => (some p.2, s)
    | none =>
      if (n - r.last).toNat ≤ 16 ∧ !r.early.contains q then (none, s.setSliceRec { r with early := r.early ++ [q] }) else (none, s)

/-- A source sends its next request to a slice and it arrives (13 R198). -/
def State.send (s : State) (src key vd : Nat) (op : MemOp) : BitVec 64 × State :=
  let ix := sentAt (sliceOf key) src
  let n := Sparse.get 0 s.sent ix + 1
  let (v, s1) := { s with sent := Sparse.set 0 s.sent ix n }.request { src := src, seq := n.toNat, key := key, op := op, vd := vd }
  (v.getD 0, s1)

/-- `HOME_SLICE_REQUEST`: a sequenced request arrives at its home slice (13 R198). -/
def execHomeSliceRequest (r : SliceReq) (s : State) : Host.Outcome State Fault Refusal :=
  .next { (s.request r).2 with stalled := [] }

/-- `REQUEST_RETRY`: a source sends a request again with the same sequence: it has been applied, so the slice acknowledges
it with the recorded result, or it waits for its turn and still does (13 R198). -/
def execRequestRetry (src seq : Nat) (s : State) : Host.Outcome State Fault Refusal :=
  .next (match s.slices.findSome? fun r => if r.src = src then r.early.find? fun q => q.seq == seq else none with
    | some q => (s.request q).2
    | none => s)

/-- `CLUSTER_ATOMIC_APPLY`: the cluster atomic unit performs an operation (13 R197). -/
def execClusterAtomicApply (k : Nat) (r : AtomReq) (s : State) : Host.Outcome State Fault Refusal :=
  .next { (s.atomCluster k (8 * k) r.key r.vd r.op r.d r.x).2 with stalled := [] }

end Sys2Proof.Machine
end

