-- ==== Sys2Proof/Machine/Atomic.lean ====
section
/-! DEFINITION. Atomics and reductions (15.4), the SC sequencers (13 R208) and ordered operations (13 R211). -/
namespace Sys2Proof.Machine

/-- The operands of an operation, read at issue (15 Table 15.2). -/
def atomOperands (op : Nat) (g : Group) (d l : Nat) : BitVec 64 × BitVec 64 :=
  if op = 7 ∨ op = 15 then ((g.getV d l).setWidth 64, (g.getV (d + 1) l).setWidth 64)
  else if op = 8 ∨ op = 11 then (g.getV2 d l, 0)
  else ((g.getV d l).setWidth 64, 0)

/-- Registers that an operation names, and those that it writes. -/
def atomRegs (op d a : Nat) : List Nat := a :: (a + 1) :: d :: (if op = 7 ∨ op = 8 ∨ op = 11 ∨ op = 15 then [d + 1] else [])
def atomDst (op d : Nat) : List Nat := if !atomReturns op then [] else if op = 8 then [d, d + 1] else [d]

/-- AAddr (15 R215). -/
def Ctx.aaddr (c : Ctx) (a l : Nat) : Nat := (((c.gr.getV2 a l).toNat + c.h.disp) % 2 ^ 64).toNat

/-- The request of an A word. -/
def atomReq (word op : Nat) (d a : BitVec 7) (look : Nat) (wf : Bool) : Req :=
  { word := word, wf := wf && even a && (!(op == 7 || op == 8 || op == 11 || op == 15) || even d),
    vr := atomRegs op d.toNat a.toNat, vw := atomDst op d.toNat, imm := true, mods := { cp := true }, guard := true, mem := true,
    look := look }

/-- Whether an access reads and writes, for watchpoints (23 R316). -/
def atomWr (op : Nat) : Bool := op != 12
def atomRd (op : Nat) : Bool := op != 13

/-- Values that lanes receive, by register and lane. -/
def atomVals (op d : Nat) (vs : List (Nat × BitVec 64)) : Sparse Word :=
  (atomDst op d).zipIdx.flatMap fun r => vs.map fun p => (32 * r.1 + p.1, p.2.extractLsb' (32 * r.2) 32)

/-! ### Scratch atomics (major 0x36) -/

/-- An access of a lane that would overtake an ordered operation of the lane which returns a value and is not yet applied (13 R203, R205,
Table 13.12): a later store or atomic anywhere, a later load of one of its bytes. An operation that returns no value is complete at
its issue as far as the lane is concerned (R211): a later load of its byte may read the older value (DESIGN CHOICE, log entry 97). -/
def State.ordHeld (s : State) (c : Ctx) (load : Bool) (w : Nat) (as : List LaneAt) : Bool :=
  s.ords.any fun o => o.who.co == c.who.co && o.who.gi == c.who.gi && atomReturns o.op &&
    as.any fun p => p.1 == o.lane && (!load || (decide (p.2 < o.va.toNat + atomWidth o.op) && decide (o.va.toNat < p.2 + w)))

/-- Effect at the scratch bank, in ascending lane order. -/
def scrEffect (op d a : Nat) (q : Req) (c : Ctx) (s : State) : State :=
  match s.cohort? c.who.co with
  | none => s
  | some co0 =>
    let step (r : Cohort × List (Nat × BitVec 64)) (l : Nat) : Cohort × List (Nat × BitVec 64) :=
      let o := atomOperands op c.gr d l
      let (old, co) := r.1.atomScratch (c.aaddr a l) op o.1 o.2
      (co, r.2 ++ [(l, old)])
    let (co, vs) := (lanesOf c.partH).foldl step (co0, [])
    let s1 := s.updCo c.who.co fun _ => co
    if atomReturns op then s1.updGr c.who fun g => g.result c.who.si
      { c.window q d (atomDst op d).length c.partH with vals := atomVals op d vs } else s1

/-- A scratch atomic word (15 R223, R224, R227). -/
def scrAtom (word op : Nat) (d a : BitVec 7) (look : Nat) (s : State) : Host.Outcome State Fault Refusal :=
  let q := atomReq word op d a look true
  let at_ (c : Ctx) : List (Nat × Int) := (lanesOf c.partH).map fun l => (l, (c.aaddr a.toNat l : Int))
  let accs (c : Ctx) : List Acc := (at_ c).map fun p => ⟨p.1, p.2.toNat, atomWidth op⟩
  issueLog q (fun c s => if (s.wpAll c.co true (atomWr op) (atomRd op) (accs c)).isEmpty then [] else [(6, 1)])
    (fun c s => c.h.badDisp.isNone && s.ordHeld c (op == 12) 0 ((lanesOf c.partH).map fun l => (l, 0)))
    (fun c s => match c.h.badDisp with
      | some t => some t
      | none => match orTrap (scratchCheck c.co (atomWidth op) (at_ c)) (if atomRd op then scratchSpoilt c.co (atomWidth op) (at_ c) else none) with
        | some t => some t
        | none => if (s.wpAll c.co true (atomWr op) (atomRd op) (accs c)).isEmpty then none
          else s.logRoom ((s.clusterOf c.co).getD 0 / 16) [(6, 1)])
    (fun c s => scrEffect op d.toNat a.toNat q c s)
    (fun c s => wpAct (s.wpAll c.co true (atomWr op) (atomRd op) (accs c)) true (atomWr op) (atomRd op) word c s) s

/-! ### Global atomics (major 0x35) -/

/-- A device- or system-scope operation first writes back the cluster's dirty bytes of its location; its copy there goes
(13 R197). -/
def State.flushLoc (s : State) (k : Option Nat) (key n : Nat) : State :=
  match k with
  | none => s
  | some k => (s.backLine k (key / 128)).updCluster k fun c => c.updLine (key / 128) fun l =>
      { l with bytes := l.bytes.filter fun p => !(decide (key % 128 ≤ p.1) && decide (p.1 < key % 128 + n)) }

/-- One lane's operation at its place (13 Table 13.8), outside ORDERED launches. -/
def State.atomAt (s : State) (c : Cohort) (scope key op : Nat) (d x : BitVec 64) : BitVec 64 × State :=
  let k := s.clusterOf c
  if 2 ≤ scope ∨ 2 ^ 40 ≤ key ∨ k = none then
    (s.flushLoc k key (atomWidth op)).send (s.source c) key (s.vdTag c.root) (.atom op d x)
  else s.atomCluster (k.getD 0) (s.pcell c.lcell) key (s.vdTag c.root) op d x

/-- A release by a lane at issue (13 R206): `st.rel` and `sc` of device or system scope. -/
def atomRelease (op scope : Nat) : Bool := 2 ≤ scope && (op == 13 || op == 14 || op == 15)
def atomAcquire (op scope : Nat) : Bool := 2 ≤ scope && (op == 12 || op == 14 || op == 15)

/-- The operations held for their tickets or their turn (13 R208, R211). -/
def atomHeld (op scope : Nat) (c : Cohort) : Bool := decide (14 ≤ op) || (c.ordered && decide (2 ≤ scope))

/-- Hold one lane's operation. -/
def State.holdOp (s : State) (c : Ctx) (scope op d key va l ord : Nat) : State :=
  let o := atomOperands op c.gr d l
  let iid := Sparse.get 0 c.gr.iids l
  let i := Sparse.get 0 c.gr.opi l
  let j := Sparse.get 0 c.gr.sci l
  let s1 : State := if c.co.ordered then
      { s with ords := s.ords ++ [{ launch := c.co.launch.getD 0, k := c.cutSeq l, e := c.co.epoch, g := c.gr.index, lane := l, i := i,
                                    who := c.who, die := c.co.die, iid := iid, scIdx := j, va := BitVec.ofNat 56 va, key := key,
                                    vd := s.vdTag c.co.root, op := op, sys := scope == 3, d := o.1, x := o.2, ord := ord,
                                    dst := BitVec.ofNat 7 d, src := s.source c.co, rsv := decide (14 ≤ op) && s.kindOn c.co.die 3,
                                    rsvRed := s.kindOn c.co.die 4 }] }
    else { s with sc := s.sc ++ [{ sys := scope == 3, who := c.who, launch := c.co.launch, die := c.co.die, lane := l, iid := iid,
                                   idx := j, key := key, vd := s.vdTag c.co.root, op := op, d := o.1, x := o.2, ord := ord,
                                   dst := BitVec.ofNat 7 d, src := s.source c.co, rsv := s.kindOn c.co.die 3 }] }
  let opi (g : Group) : Sparse Nat := if c.co.ordered then Sparse.set 0 g.opi l (i + 1) else g.opi
  let sci (g : Group) : Sparse Nat := if 14 ≤ op then Sparse.set 0 g.sci l (j + 1) else g.sci
  s1.updGr c.who fun g => { g with opi := opi g, sci := sci g }

/-- Log entries that an A word needs, by kind (23 R324). -/
def atomNeeds (op scope : Nat) (c : Ctx) (hit : Bool) : List (Nat × Nat) :=
  let n := (lanesOf c.partH).length
  [(3, if 14 ≤ op then n else 0), (4, if c.co.ordered ∧ 2 ≤ scope then n else 0), (6, if hit then 1 else 0)]

/-- Reserve the TICKET and RED entries. -/
def atomReserve (op scope : Nat) (c : Ctx) (s : State) : State :=
  ((atomNeeds op scope c false).filter fun p => s.kindOn c.co.die p.1).foldl (fun s p => s.logReserve c.co.die p.2) s

/-- The effect of a global atomic, in ascending lane order (15 R224). -/
def globEffect (op scope d a : Nat) (q : Req) (c : Ctx) (s : State) : State :=
  let ls := lanesOf c.partH
  let k := s.clusterOf c.co
  let kind := if op = 12 then Access.read else Access.write
  let s0 := ls.foldl (fun (s : State) l => s.keepXlate c.co kind (c.aaddr a l)) (s.victims c kind (ls.map fun l => (l, c.aaddr a l)))
  let s1 := if atomRelease op scope then s0.release k else s0
  if atomHeld op scope c.co then
    let ord := c.sp.nextOrd
    let s2 := ls.foldl (fun s l => s.holdOp c scope op d (s1.keyAt c.co kind (c.aaddr a l)) (c.aaddr a l) l ord) (atomReserve op scope c s1)
    if atomReturns op then s2.updGr c.who fun g => g.result c.who.si
      { c.window q d (atomDst op d).length c.partH with
        ready := ls.isEmpty, addrs := ls.map fun l => (l, BitVec.ofNat 64 (c.aaddr a l)) } else s2
  else
    let step (r : State × List (Nat × BitVec 64)) (l : Nat) : State × List (Nat × BitVec 64) :=
      let o := atomOperands op c.gr d l
      let (old, s) := r.1.atomAt c.co scope (s1.keyAt c.co kind (c.aaddr a l)) op o.1 o.2
      (s, r.2 ++ [(l, old)])
    let (s2, vs) := ls.foldl step (s1, [])
    let s3 := if atomAcquire op scope then s2.acquire k else s2
    if atomReturns op then s3.updGr c.who fun g => g.result c.who.si
      { c.window q d (atomDst op d).length c.partH with vals := atomVals op d vs } else s3

/-- `st.rel` folds into the digest of a digested launch (23 R329). -/
def globFold (op d a : Nat) (c : Ctx) (s : State) : State :=
  if op = 13 ∧ (s.dslotOf c.co).isSome then s.updGr c.who fun g => (lanesOf c.partH).foldl (fun g l =>
    g.foldCtx l (c.aaddr a l) 4 (c.gr.getV d l).toNat) g else s

/-- An atomic on a register frame or a page of host memory is refused (25 R336, R338). -/
def atomOnReg (s : State) (kind : Access) (c : Cohort) (as : List LaneAt) : Option Trap :=
  as.findSome? fun p => if isRegKey (s.keyAt c kind p.2) || isHostKey (s.keyAt c kind p.2) then some { code := PROTECTION, lane := some p.1, addr := BitVec.ofNat 64 p.2 } else none

/-- A global atomic word (15 R223, R224). -/
def globAtom (word op : Nat) (scope : BitVec 3) (d a : BitVec 7) (look : Nat) (s : State) : Host.Outcome State Fault Refusal :=
  let q := { atomReq word op d a look (decide (scope.toNat ≤ 3) && (decide (op < 14) || decide (2 ≤ scope.toNat))) with
    joins := decide (2 ≤ scope.toNat), rel := atomRelease op scope.toNat }
  let kind := if op = 12 then Access.read else Access.write
  let at_ (c : Ctx) : List LaneAt := (lanesOf c.partH).map fun l => (l, c.aaddr a.toNat l)
  let accs (c : Ctx) : List Acc := (at_ c).map fun p => ⟨p.1, p.2, atomWidth op⟩
  let joins (c : Ctx) : Bool := c.co.ordered && decide (2 ≤ scope.toNat)
  issueLog q (fun c s => atomNeeds op scope.toNat c !(s.wpAll c.co false (atomWr op) (atomRd op) (accs c)).isEmpty)
    (fun c s => c.h.badDisp.isNone && (s.noLink c.co kind (atomWidth op) (at_ c) ||
      (!joins c && s.ordHeld c (op == 12) (atomWidth op) (at_ c))))
    (fun c s => match c.h.badDisp with
      | some t => some t
      | none => match s.gcheck c.co kind (atomWidth op) (at_ c) with
        | some t => some t
        | none => match orTrap (atomOnReg s kind c.co (at_ c)) (if atomRd op then s.atomSpoilt c.co kind (atomWidth op) (at_ c) else none) with
          | some t => some t
          | none => s.logRoom c.co.die (atomNeeds op scope.toNat c !(s.wpAll c.co false (atomWr op) (atomRd op) (accs c)).isEmpty))
    (fun c s => globEffect op scope.toNat d.toNat a.toNat q c (globFold op d.toNat a.toNat c s))
    (fun c s => wpAct (s.wpAll c.co false (atomWr op) (atomRd op) (accs c)) false (atomWr op) (atomRd op) word c s) s

/-! ### Tickets (13 R208; 23 R326) -/

/-- A value returns into a held window: lanes are added as they come, and the window is ready when none is held for it. What the
splits of the group waited for is looked at again. -/
def State.giveValue (s : State) (w : Who) (ord l op d : Nat) (v : BitVec 64) (more : Bool) : State :=
  ({ s with stalled := [] }.updGr w fun g => { g with splits := g.splits.map fun (x : Split) => { x with why := .other } }).updSp w fun x =>
    { x with windows := x.windows.map fun (y : Window) =>
      if y.ord = ord ∧ !y.ready then { y with vals := y.vals ++ atomVals op d [(l, v)], ready := !more } else y }

/-- TICKET entry (23 Table 23.6). -/
def ticketPay (t : Nat) (o : ScOp) : Nat :=
  t % 2 ^ 64 + o.iid.toNat * 2 ^ 64 + o.idx % 2 ^ 16 * 2 ^ 128 + (if o.sys then 2 ^ 144 else 0)

/-- The ticket comes from a domain sequencer on another module (01 R19). -/
def State.ticketAway (s : State) (sys : Bool) : Bool := sys && bits (s.reg 0x0008) 16 15 != s.modNum

/-- The reserved entry of an operation is written, or given up when its kind has been turned off since (23 R323, R324). -/
def State.writeRsv (s : State) (rsv : Bool) (d kind lcell : Nat) (ltag : BitVec 16) (pay : Nat) : State :=
  let s1 := s.logWrite d kind lcell ltag pay
  if rsv then s1.logReserve d (-1) else s1

/-- Grant a ticket: the operation is performed, logged, returned, and the lane acquires (13 R208). Of another module's domain
sequencer the module sees ascending tickets, a free number of them granted elsewhere between two of its own. -/
def State.grant (s : State) (o : ScOp) (held : Bool) : State :=
  let away := s.ticketAway o.sys
  let s0 := if away then s.draw.2 else s
  let t := if away then s.ticketSys + s.draw.1 else if o.sys then s.ticketSys else s.ticketDev
  let s1 := { (if o.sys then { s0 with ticketSys := t + 1 } else { s0 with ticketDev := t + 1 } : State) with
    launches := s0.launches.map fun (l : Launch) => if some l.num = o.launch ∧ hReplay l.hdr = true then { l with granted := l.granted ++ [(o.iid, o.idx)] } else l }
  let co := s.cohort? o.who.co
  let (v, s2) := s1.send o.src o.key o.vd (.atom o.op o.d o.x)
  let s3 := match co with
    | some c => (s2.writeRsv o.rsv o.die 3 c.lcell c.ltag (ticketPay t o)).acquire (s2.clusterOf c)
    | none => s2
  s3.giveValue o.who o.ord o.lane o.op o.dst.toNat v held

/-- The recorded log of a die, RLOGB, in ascending SEQ (23 R325, R326; Table 23.4). -/
def State.recorded (s : State) (die : Nat) : List Nat :=
  let base := bits (s.reg (dieReg die 0x0438)) 0 56
  sortKey (fun e => [e % 2 ^ 64]) ((List.range (bits (s.reg (dieReg die 0x0440)) 0 32)).map fun w => s.homeRead (base + 32 * w) 32)

/-- The recorded entry is of a kind, and carries the tag that RLTAG names. -/
def State.isRecorded (s : State) (die kind e : Nat) : Bool :=
  e / 2 ^ 64 % 16 == kind && e / 2 ^ 80 % 2 ^ 16 == bits (s.reg (dieReg die 0x0448)) 0 16

/-- Recorded TICKET entries of a REPLAY launch: (IID, index) in log order (23 R326). -/
def State.tickets (s : State) (die : Nat) : List (BitVec 64 × Nat) :=
  ((s.recorded die).filter (s.isRecorded die 3)).map fun e => (BitVec.ofNat 64 (e / 2 ^ 160), e / 2 ^ 224 % 2 ^ 16)

/-- The operation may have the next ticket of its sequencer: a link carries the requests to another module's sequencer and home
slice (25 R347); in a REPLAY launch every recorded grant before its own has been made (23 R326). -/
def State.mayGrant (s : State) (o : ScOp) : Bool :=
  (!s.ticketAway o.sys || s.linkUp) && !s.noRoute o.key &&
  match (o.launch.bind s.launch?) with
  | none => true
  | some l => !hReplay l.hdr || ((s.tickets o.die).takeWhile fun p => p != (o.iid, o.idx)).all fun p => l.granted.contains p

/-- `SC_TICKET_GRANT`: the next SC operation of a sequencer that may be granted (13 R208). -/
def execScTicketGrant (sys : Bool) (s : State) : Host.Outcome State Fault Refusal :=
  .next (match s.sc.find? fun o => o.sys == sys && s.mayGrant o with
    | none => s
    | some o =>
      let rest := s.sc.erase o
      { s with sc := rest }.grant o (rest.any fun p => p.who == o.who && p.ord == o.ord))

/-! ### Ordered operations (13 R211) -/

/-- The split waits at an ordered operation that returns a value: it can issue nothing further before the value comes, which its last
attempt to issue showed (log entry 97), be it before a halt; or it waits for the value at a fence of its own accesses (15 R229,
R230). -/
def State.waitsOrd (s : State) (w : Who) (x : Split) : Bool :=
  x.windows.any (s.windowHeld w) &&
  ((s.stalled.contains w || (s.group? w.co w.gi).any fun g => g.halt) && x.why == .order || match x.wait with
    | .fence _ => true
    | .xfence _ _ m _ => m.getLsbD 0
    | _ => false)

/-- Every live split of the cohort waits (13 R211). -/
def State.allWait (s : State) (c : Cohort) : Bool :=
  (c.groups.zipIdx).all fun p => (p.1.splits.zipIdx).all fun q => !q.1.live || s.waitsOrd ⟨c.id, p.2, q.2⟩ q.1 ||
    (match q.1.wait with
     | .barc => true
     | .barp _ _ => true
     | .join => true
     | .waitj _ _ => true
     | .waitc _ _ _ => true
     | _ => false)

/-- The epoch of a cohort is over (13 R211): it holds an ordered operation that returns a value, and every live split waits. The
operations of the epoch before have been applied and their values returned. -/
def State.epochOver (s : State) (c : Cohort) : Bool :=
  c.ordered && s.ords.any (fun o => o.who.co == c.id && o.e == c.epoch && atomReturns o.op) &&
  s.ords.all (fun o => o.who.co != c.id || decide (c.epoch ≤ o.e)) && s.allWait c

/-- `EPOCH_END` (13 R211). -/
def execEpochEnd (co : Nat) (s : State) : Host.Outcome State Fault Refusal :=
  .next (match s.cohort? co with
    | none => s
    | some c => if s.epochOver c then s.updCo co fun c => { c with epoch := c.epoch + 1 } else s)

/-- Key order of ordered operations. -/
def OrdOp.key' (o : OrdOp) : List Nat := [o.k, o.e, o.g, o.lane, o.i]

/-- The lowest operation that a launch holds. -/
def State.lowestOrd (s : State) (l : Nat) : Option OrdOp :=
  let os := s.ords.filter fun o => o.launch == l
  os.find? fun o => os.all fun p => !natsLt p.key' o.key'

/-- Every cohort of lower cut sequence than the one of an operation has finished (13 R211). -/
def State.ordFirst (s : State) (o : OrdOp) : Bool :=
  (s.cohorts.all fun c => c.launch != some o.launch || c.kind != .cut || c.status == .held || decide (o.k ≤ c.cseq)) &&
  ((s.launch? o.launch).bind fun l => l.share? o.die).all fun x => decide (o.k < x.cseq) && x.waiting.all fun p => decide (o.k ≤ p.1)

/-- Its epoch has ended, and every cohort of lower cut sequence has finished (13 R211). -/
def State.ordDue (s : State) (o : OrdOp) : Bool :=
  (match s.cohort? o.who.co with
   | none => true
   | some c => decide (o.e < c.epoch) || c.status == .held) && s.ordFirst o

/-- Ordered operations of a cohort complete before a save (05 R75; 21 R308): those of epochs that have ended, or end now, with every
cohort of lower cut sequence finished. -/
def State.ordPending (s : State) (c : Cohort) : Bool :=
  s.ords.any fun o => o.who.co == c.id && s.ordFirst o && (decide (o.e < c.epoch) || s.epochOver c)

/-- RED entry (23 Table 23.6). -/
def redPay (o : OrdOp) : Nat :=
  o.k % 2 ^ 32 + o.e % 2 ^ 16 * 2 ^ 32 + o.g % 16 * 2 ^ 48 + o.lane % 32 * 2 ^ 52 + o.i % 2 ^ 32 * 2 ^ 57 + o.va.toNat * 2 ^ 89

/-- An ordered operation as an SC operation takes its ticket (15 R226). -/
def OrdOp.toSc (o : OrdOp) : ScOp :=
  { sys := o.sys, who := o.who, launch := some o.launch, die := o.die, lane := o.lane, iid := o.iid, idx := o.scIdx,
    key := o.key, vd := o.vd, op := o.op, d := o.d, x := o.x, ord := o.ord, dst := o.dst, src := o.src, rsv := o.rsv }

/-- A link carries the operation, and an SC operation may have its ticket (25 R347; 23 R326). -/
def State.ordGoes (s : State) (o : OrdOp) : Bool := if 14 ≤ o.op then s.mayGrant o.toSc else !s.noRoute o.key

/-- ORDER_STALL at the lowest live split of the lowest group of a cohort, at its first instruction not yet issued (21 R294). -/
def State.orderStall (s : State) (c : Cohort) : State :=
  match (c.groups.zipIdx).findSome? fun p => (p.1.splits.zipIdx).findSome? fun q =>
      if q.1.live then some (⟨c.id, p.2, q.2⟩ : Who) else none with
  | none => s
  | some w => match { s with focus := some w }.ctx? with
    | none => s
    | some x => { s.raise x 0 { code := ORDER_STALL, after := true, detail := BitVec.ofNat 48 c.cseq } with focus := s.focus }

/-- The cohort of lowest unfinished cut sequence of a launch, when it is resident: a saved one traps nothing until it is
restored. -/
def State.lowestCohort (s : State) (l : Nat) : Option Cohort :=
  let cs := s.cohorts.filter fun c => c.launch == some l && c.kind == .cut && c.status != .held
  (cs.find? fun c => cs.all fun d => decide (c.cseq ≤ d.cseq)).filter fun c => c.status == .resident

/-- `ORDER_STALL` (13 R211): operations are held, and 2^24 cell cycles pass with none applied. -/
def execOrderStall (l : Nat) (s : State) : Host.Outcome State Fault Refusal :=
  .next (match s.lowestOrd l, s.lowestCohort l with
    | some o, some c => if s.ordDue o ∨ s.stopped c then s else { s with time := s.time + 2 ^ 24 }.orderStall c
    | _, _ => s)

/-- `REPLAY_SC_STALL` (23 R326): SC operations of a REPLAY launch wait and none may be granted; the cohort that holds the
earliest-recorded of them traps. -/
def execReplayScStall (l : Nat) (s : State) : Host.Outcome State Fault Refusal :=
  .next (
    let ws := (s.sc.filter fun o => o.launch == some l) ++
      ((s.lowestOrd l).filter fun o => decide (14 ≤ o.op) && s.ordDue o).toList.map OrdOp.toSc
    if !((s.launch? l).any fun x => hReplay x.hdr) || ws.isEmpty || ws.any s.mayGrant then s
    else match ws.head? with
      | none => s
      | some o0 =>
        let ts := s.tickets o0.die
        let rank (o : ScOp) : Nat := ts.findIdx fun p => p == (o.iid, o.idx)
        match (ws.find? fun o => ws.all fun p => decide (rank o ≤ rank p)).bind fun o => s.cohort? o.who.co with
        | none => s
        | some c => if s.stopped c ∨ c.status ≠ .resident then s else { s with time := s.time + 2 ^ 24 }.orderStall c)

/-- `atom.add.s32` (R224): Global relaxed 32-bit atomic add, returning the old value. -/
def execAtomAddS32 (x : AL) (s : State) : Host.Outcome State Fault Refusal :=
  globAtom (encAtomAddS32 x) 0 x.scope x.d x.a x.l.toNat s

/-- `atom.fadd.f32` (R224): Global relaxed FP32 atomic add (RNE), returning the old value. -/
def execAtomFaddF32 (x : AL) (s : State) : Host.Outcome State Fault Refusal :=
  globAtom (encAtomFaddF32 x) 1 x.scope x.d x.a x.l.toNat s

/-- `atom.min.s32` (R224): Global relaxed signed atomic minimum. -/
def execAtomMinS32 (x : AL) (s : State) : Host.Outcome State Fault Refusal :=
  globAtom (encAtomMinS32 x) 2 x.scope x.d x.a x.l.toNat s

/-- `atom.max.s32` (R224): Global relaxed signed atomic maximum. -/
def execAtomMaxS32 (x : AL) (s : State) : Host.Outcome State Fault Refusal :=
  globAtom (encAtomMaxS32 x) 3 x.scope x.d x.a x.l.toNat s

/-- `atom.and.b32` (R224): Global relaxed atomic AND. -/
def execAtomAndB32 (x : AL) (s : State) : Host.Outcome State Fault Refusal :=
  globAtom (encAtomAndB32 x) 4 x.scope x.d x.a x.l.toNat s

/-- `atom.or.b32` (R224): Global relaxed atomic OR. -/
def execAtomOrB32 (x : AL) (s : State) : Host.Outcome State Fault Refusal :=
  globAtom (encAtomOrB32 x) 5 x.scope x.d x.a x.l.toNat s

/-- `atom.xchg.b32` (R224): Global relaxed atomic exchange. -/
def execAtomXchgB32 (x : AL) (s : State) : Host.Outcome State Fault Refusal :=
  globAtom (encAtomXchgB32 x) 6 x.scope x.d x.a x.l.toNat s

/-- `atom.cas.b32` (R224): Global relaxed atomic compare-and-swap. -/
def execAtomCasB32 (x : AL) (s : State) : Host.Outcome State Fault Refusal :=
  globAtom (encAtomCasB32 x) 7 x.scope x.d x.a x.l.toNat s

/-- `atom.add.n64` (R224): Global relaxed 64-bit atomic add. -/
def execAtomAddN64 (x : AL) (s : State) : Host.Outcome State Fault Refusal :=
  globAtom (encAtomAddN64 x) 8 x.scope x.d x.a x.l.toNat s

/-- `red.add.s32` (R224): Global 32-bit reduction add that returns nothing. -/
def execRedAddS32 (x : AS) (s : State) : Host.Outcome State Fault Refusal :=
  globAtom (encRedAddS32 x) 9 x.scope x.d x.a 0 s

/-- `red.fadd.f32` (R224): Global FP32 reduction add that returns nothing. -/
def execRedFaddF32 (x : AS) (s : State) : Host.Outcome State Fault Refusal :=
  globAtom (encRedFaddF32 x) 10 x.scope x.d x.a 0 s

/-- `red.add.n64` (R224): Global 64-bit reduction add that returns nothing. -/
def execRedAddN64 (x : AS) (s : State) : Host.Outcome State Fault Refusal :=
  globAtom (encRedAddN64 x) 11 x.scope x.d x.a 0 s

/-- `ld.acq.b32` (R224): Global load-acquire of the named scope. -/
def execLdAcqB32 (x : AL) (s : State) : Host.Outcome State Fault Refusal :=
  globAtom (encLdAcqB32 x) 12 x.scope x.d x.a x.l.toNat s

/-- `st.rel.b32` (R224): Global store-release of the named scope. -/
def execStRelB32 (x : AS) (s : State) : Host.Outcome State Fault Refusal :=
  globAtom (encStRelB32 x) 13 x.scope x.d x.a 0 s

/-- `sc.add.s32` (R208): Sequentially consistent atomic add that takes a sequencer ticket. -/
def execScAddS32 (x : AL) (s : State) : Host.Outcome State Fault Refusal :=
  globAtom (encScAddS32 x) 14 x.scope x.d x.a x.l.toNat s

/-- `sc.cas.b32` (R208): Sequentially consistent compare-and-swap that takes a sequencer ticket. -/
def execScCasB32 (x : AL) (s : State) : Host.Outcome State Fault Refusal :=
  globAtom (encScCasB32 x) 15 x.scope x.d x.a x.l.toNat s

/-- `atom.add.s32.scr` (R227): Scratch atomic add, returning the old value. -/
def execAtomAddS32Scr (x : ALs) (s : State) : Host.Outcome State Fault Refusal :=
  scrAtom (encAtomAddS32Scr x) 0 x.d x.a x.l.toNat s

/-- `atom.fadd.f32.scr` (R227): Scratch FP32 atomic add. -/
def execAtomFaddF32Scr (x : ALs) (s : State) : Host.Outcome State Fault Refusal :=
  scrAtom (encAtomFaddF32Scr x) 1 x.d x.a x.l.toNat s

/-- `atom.min.s32.scr` (R227): Scratch signed atomic minimum. -/
def execAtomMinS32Scr (x : ALs) (s : State) : Host.Outcome State Fault Refusal :=
  scrAtom (encAtomMinS32Scr x) 2 x.d x.a x.l.toNat s

/-- `atom.max.s32.scr` (R227): Scratch signed atomic maximum. -/
def execAtomMaxS32Scr (x : ALs) (s : State) : Host.Outcome State Fault Refusal :=
  scrAtom (encAtomMaxS32Scr x) 3 x.d x.a x.l.toNat s

/-- `atom.and.b32.scr` (R227): Scratch atomic AND. -/
def execAtomAndB32Scr (x : ALs) (s : State) : Host.Outcome State Fault Refusal :=
  scrAtom (encAtomAndB32Scr x) 4 x.d x.a x.l.toNat s

/-- `atom.or.b32.scr` (R227): Scratch atomic OR. -/
def execAtomOrB32Scr (x : ALs) (s : State) : Host.Outcome State Fault Refusal :=
  scrAtom (encAtomOrB32Scr x) 5 x.d x.a x.l.toNat s

/-- `atom.xchg.b32.scr` (R227): Scratch atomic exchange. -/
def execAtomXchgB32Scr (x : ALs) (s : State) : Host.Outcome State Fault Refusal :=
  scrAtom (encAtomXchgB32Scr x) 6 x.d x.a x.l.toNat s

/-- `atom.cas.b32.scr` (R227): Scratch atomic compare-and-swap. -/
def execAtomCasB32Scr (x : ALs) (s : State) : Host.Outcome State Fault Refusal :=
  scrAtom (encAtomCasB32Scr x) 7 x.d x.a x.l.toNat s

/-- `atom.add.n64.scr` (R227): Scratch 64-bit atomic add. -/
def execAtomAddN64Scr (x : ALs) (s : State) : Host.Outcome State Fault Refusal :=
  scrAtom (encAtomAddN64Scr x) 8 x.d x.a x.l.toNat s

/-- `red.add.s32.scr` (R227): Scratch 32-bit reduction add. -/
def execRedAddS32Scr (x : ASs) (s : State) : Host.Outcome State Fault Refusal :=
  scrAtom (encRedAddS32Scr x) 9 x.d x.a 0 s

/-- `red.fadd.f32.scr` (R227): Scratch FP32 reduction add. -/
def execRedFaddF32Scr (x : ASs) (s : State) : Host.Outcome State Fault Refusal :=
  scrAtom (encRedFaddF32Scr x) 10 x.d x.a 0 s

/-- `red.add.n64.scr` (R227): Scratch 64-bit reduction add. -/
def execRedAddN64Scr (x : ASs) (s : State) : Host.Outcome State Fault Refusal :=
  scrAtom (encRedAddN64Scr x) 11 x.d x.a 0 s

/-- `ld.acq.b32.scr` (R227): Scratch load-acquire of cohort scope. -/
def execLdAcqB32Scr (x : ALs) (s : State) : Host.Outcome State Fault Refusal :=
  scrAtom (encLdAcqB32Scr x) 12 x.d x.a x.l.toNat s

/-- `st.rel.b32.scr` (R227): Scratch store-release of cohort scope. -/
def execStRelB32Scr (x : ASs) (s : State) : Host.Outcome State Fault Refusal :=
  scrAtom (encStRelB32Scr x) 13 x.d x.a 0 s

end Sys2Proof.Machine
end

