-- ==== Sys2Proof/Machine/Block.lean ====
section
/-! DEFINITION. The context block of a cohort (21.6): its layout, its records, and the free lists of blocks and pages. -/
namespace Sys2Proof.Machine

/-! ### Free lists (21 R311) -/

/-- Offsets of the pool registers of a die: CTXPOOLc, and EXTPOOL as c = 5. -/
def poolReg (die c : Nat) : Nat := dieReg die (0x0300 + 8 * c)

/-- The head of a list, 0 when it is empty. -/
def State.poolHead (s : State) (die c : Nat) : Nat := bits (s.reg (poolReg die c)) 0 56

/-- Push a block or page: the device links it through its first 8 bytes. -/
def State.poolPush (s : State) (die c a : Nat) : State :=
  (s.dieWrite die a (bytesOf 8 (s.poolHead die c)) 0).setReg (poolReg die c) (BitVec.ofNat 64 a)

/-- Take the head of a list. -/
def State.poolPop (s : State) (die c : Nat) : Option (Nat × State) :=
  let a := s.poolHead die c
  if a = 0 then none else some (a, s.setReg (poolReg die c) (BitVec.ofNat 64 (s.homeRead a 8 % 2 ^ 56)))

/-! ### Layout (21 Tables 21.5, 21.6) -/

/-- The RB of a cohort's Winze groups: the launch's, a task group's too (19 R285; DEDUCED, log entry 77: where Table 21.5 speaks of
the entry's RB, that is the budget of the task group's own slot). -/
def Cohort.rb (c : Cohort) : Nat := hRb c.hdr

/-- G of 21 Table 21.5. -/
def Cohort.slotsG (c : Cohort) : Nat := if c.kind == .task then 1 else if hRoles c.hdr = 0 then 16 else hRoles c.hdr

/-- GW of 19 R285, for G groups. -/
def winzeGroups (g rb : Nat) : Nat := max 1 (min 16 (min (48 - g) (512 / max rb 1 - g)))

/-- NG. -/
def Cohort.ng (c : Cohort) : Nat := c.slotsG + winzeGroups c.slotsG c.rb

/-- The role of a group (07 R103). -/
def roleOf (h : BitVec 1024) (g : Nat) : Nat :=
  if hRoles h = 0 then 0 else if g < hNcopy h then 1 else if g < hNcopy h + hNmat h then 2 else 3

/-- The budget of a slot. -/
def Cohort.slotBudget (c : Cohort) (i : Nat) : Nat :=
  if c.slotsG ≤ i then c.rb else if c.kind == .task then ((c.groups.head?).map fun g => g.budget).getD 0 else hBudget c.hdr (roleOf c.hdr i)

/-- Section sizes up to SLU, WNZ and SCR, in address order. -/
def Cohort.sections (c : Cohort) : List Nat :=
  let n := c.ng
  [256, n * 1024, n * 2048, n * 18432, ((List.range n).map fun i => 1024 * c.slotBudget i).sum, 4096, 540672, 16896, 8320,
   (c.z + 4095) / 4096 * 4096]

/-- Offset of section i: 0 HDR, 1 GRP, 2 STK, 3 WVAL, 4 VREG, 5 TTAB, 6 ACC, 7 SLU, 8 WNZ, 9 SCR. -/
def Cohort.sect (c : Cohort) (i : Nat) : Nat := (c.sections.take i).sum

/-- S, the size of the block. -/
def Cohort.blockSize (c : Cohort) : Nat := c.sections.sum

/-- The least class whose blocks hold S bytes (21 R305). -/
def blockClass (size : Nat) : Nat :=
  if size ≤ 2 ^ 20 then 0 else if size ≤ 2 ^ 21 then 1 else if size ≤ 2 ^ 22 then 2 else if size ≤ 2 ^ 23 then 3 else 4

/-- The slot of a group: a dispatched group by its index, a Winze group from G on. -/
def Cohort.slotOf (c : Cohort) (gi : Nat) (g : Group) : Nat := if gi < c.ngroups then g.index else c.slotsG + (gi - c.ngroups)

/-- The base of a group's record in its cohort's block. -/
def Cohort.recordAt (c : Cohort) (gi : Nat) (g : Group) : Nat := c.ctx.toNat + c.sect 1 + 1024 * c.slotOf gi g

/-! ### Records (21 Tables 21.7 to 21.10) -/

/-- A field at a place. -/
def fld (lo len v : Nat) : Nat := v % 2 ^ len * 2 ^ lo

/-- Read a field. -/
def fget (x lo len : Nat) : Nat := x / 2 ^ lo % 2 ^ len

def Bool.n (b : Bool) : Nat := if b then 1 else 0

/-- WAIT of a split record. -/
def Wait.code : Wait → Nat
  | .none => 0
  | .join => 1
  | .waitj _ _ => 2
  | .barc => 3
  | .barp _ _ => 4
  | .waitc _ _ _ => 5
  | .svc _ => 0
  | _ => 6

/-- The split waits in a word that it has issued and does not issue again: a `barp` that has arrived, a `svc` that has been sent
(21 R307, R313; log entry 47). -/
def Wait.issued : Wait → Bool
  | .barp _ _ => true
  | .svc _ => true
  | _ => false

/-- WAIT of a split: 6 also for one that `afree` or `fclaim` keeps at its word (21 R307). -/
def Split.waitCode (x : Split) : Nat := if x.wait = .none ∧ x.why = .engine then 6 else x.wait.code

/-- A split record (21 Table 21.8): its PC is that of its first instruction not issued (05 R64). -/
def Split.record (x : Split) (now : Nat) : Nat :=
  if !x.live then 0 else
  let n := x.windows.length
  let tleft : Nat := match x.wait with
    | .waitj _ t => t - now
    | _ => 0
  let wt : Nat := match x.wait with
    | .waitc _ _ (some t) => t - now
    | .waitc _ _ none => 0xFFFFFFFF
    | _ => 0
  let bend : Nat := match x.wait with
    | .barp _ k => k
    | _ => 0
  let sv : Nat := match x.wait with
    | .svc d => 1 + d.toNat * 2
    | _ => 0
  let mon : Nat := match x.mon.st with
    | .none => 0
    | .armed => 1
    | .fired => 2
  1 + fld 1 1 (Bool.n x.handler) + fld 2 1 (Bool.n x.nfirst) + fld 3 3 x.waitCode + fld 8 6 x.past.2.toNat + fld 16 56 x.past.1.toNat +
  fld 72 32 x.mask.toNat + fld 104 19 tleft + fld 123 2 bend + fld 128 32 wt + fld 160 2 mon + fld 162 1 (Bool.n x.mon.poll) +
  fld 163 3 x.mon.cond.toNat + fld 166 1 (Bool.n x.mon.wide) + fld 168 56 x.mon.addr.toNat + fld 256 64 x.mon.cmp.toNat +
  fld 351 1 (Bool.n (n == 16)) + fld 352 4 n + fld 384 7 sv

/-- Reserved bits of a split record. -/
def splitReserved (x : Nat) : Bool :=
  fget x 6 2 != 0 || fget x 14 2 != 0 || fget x 125 3 != 0 || fget x 167 1 != 0 || fget x 224 32 != 0 || fget x 320 31 != 0 ||
  fget x 356 28 != 0 || fget x 391 121 != 0 || fget x 160 2 == 3 || fget x 3 3 == 7

/-- A split from its record; what the record does not hold comes from the split as it was saved, and from `was`, what it waits for. -/
def Split.ofRecord (old : Split) (was : Wait) (x now : Nat) : Split :=
  let pc := BitVec.ofNat 56 (fget x 16 56)
  let svc := fget x 384 1 == 1
  let wait : Wait := match fget x 3 3, was with
    | 1, _ => .join
    | 2, .waitj p _ => .waitj p (now + fget x 104 19)
    | 3, _ => .barc
    | 4, .barp o _ => .barp o (fget x 123 2)
    | 5, .waitc sc d _ => .waitc sc d (if fget x 128 32 = 0xFFFFFFFF then none else some (now + fget x 128 32))
    | 0, _ => if svc then .svc (BitVec.ofNat 6 (fget x 385 6)) else .none
    | _, _ => .none
  if fget x 0 1 = 0 then {} else
  { live := true
    pc := if wait.issued then pc - 4 else pc
    pos := BitVec.ofNat 6 (fget x 8 6)
    mask := BitVec.ofNat 32 (fget x 72 32)
    nfirst := fget x 2 1 == 1
    handler := fget x 1 1 == 1
    wait := wait
    wakeRsv := old.wakeRsv
    owed := old.owed
    mon := if fget x 160 2 = 0 then {} else
      { st := if fget x 160 2 = 1 then .armed else .fired, addr := BitVec.ofNat 56 (fget x 168 56), key := old.mon.key,
        cmp := BitVec.ofNat 64 (fget x 256 64), wide := fget x 166 1 == 1, cond := BitVec.ofNat 3 (fget x 163 3),
        poll := fget x 162 1 == 1 } }

/-- A trap record (21 Table 21.9). -/
def TrapRec.record (r : TrapRec) : Nat :=
  let own : Nat := match r.own with
    | some (g, l, n) => fld 180 1 1 + fld 320 4 g + fld 324 5 l + fld 352 32 n.toNat
    | none => 0
  let wz : Nat := match r.wz with
    | some (k, f) => fld 181 1 1 + fld 182 2 k + fld 384 32 f.toNat
    | none => 0
  let lane : Nat := match r.lane with
    | some l => fld 174 5 l + fld 179 1 1
    | none => 0
  fld 0 56 r.pc.toNat + fld 56 6 r.pos.toNat + fld 64 56 r.rpc.toNat + fld 128 32 r.word.toNat + fld 160 8 r.code + fld 168 4 r.cause +
  fld 172 2 r.split + lane + own + wz + fld 192 64 r.addr.toNat + fld 256 48 r.detail.toNat + fld 416 32 r.hcyc + fld 448 8 r.escn.toNat

/-- A trap from its record; the resume position stands in the TRAP entry, or with the split. -/
def TrapRec.ofRecord (x : Nat) (rpos : BitVec 6) : TrapRec where
  code := fget x 160 8
  cause := fget x 168 4
  split := fget x 172 2
  lane := if fget x 179 1 = 1 then some (fget x 174 5) else none
  word := BitVec.ofNat 32 (fget x 128 32)
  pc := BitVec.ofNat 56 (fget x 0 56)
  pos := BitVec.ofNat 6 (fget x 56 6)
  rpc := BitVec.ofNat 56 (fget x 64 56)
  rpos := rpos
  addr := BitVec.ofNat 64 (fget x 192 64)
  detail := BitVec.ofNat 48 (fget x 256 48)
  own := if fget x 180 1 = 1 then some (fget x 320 4, fget x 324 5, BitVec.ofNat 32 (fget x 352 32)) else none
  wz := if fget x 181 1 = 1 then some (fget x 182 2, BitVec.ofNat 32 (fget x 384 32)) else none
  hcyc := fget x 416 32
  escn := BitVec.ofNat 8 (fget x 448 8)

/-- Reserved bits of a trap record. -/
def trapReserved (x : Nat) : Bool :=
  fget x 62 2 != 0 || fget x 120 8 != 0 || fget x 184 8 != 0 || fget x 304 16 != 0 || fget x 329 23 != 0 || fget x 456 56 != 0

/-- Bytes 0 to 7 of a group record (21 Table 21.7). -/
def Group.word0 (g : Group) : Nat :=
  let lspl : Nat := ((g.splits.zipIdx).map fun p => if p.1.live then 2 ^ p.2 else 0).sum
  1 + fld 1 1 (Bool.n g.fin) + fld 2 1 (Bool.n g.halt) + fld 3 1 (Bool.n (g.pend.isSome && g.trap.isNone)) +
  fld 4 1 (Bool.n (g.trap.isSome && g.splits.any fun x => x.live && x.handler)) + fld 5 1 (Bool.n g.poison) + fld 6 2 g.role +
  fld 8 5 g.budget + fld 13 4 lspl + fld 17 3 g.skid + fld 20 7 g.stack.length

/-- The parts of a group record by byte offset (21 R307). -/
def Group.record (g : Group) (now : Nat) : List (Nat × List Byte) :=
  (0, bytesOf 64 g.word0) :: ((g.splits.zipIdx).map fun p => (64 + 64 * p.2, bytesOf 64 (p.1.record now))) ++
  [(320, (List.range 64).flatMap fun i => bytesOf 4 (g.getS i).toNat),
   (576, (List.range 7).flatMap fun i => bytesOf 4 (g.getP i).toNat ++ []),
   (604, bytesOf 4 0),
   (608, bytesOf 64 (match g.trap, g.pend with
      | some r, _ => r.record
      | none, some r => r.record
      | none, none => 0)),
   (672, bytesOf 352 0)]

/-- A stack entry (11 Table 11.1). -/
def StackEntry.record (e : StackEntry) : Nat :=
  let kind : Nat := match e.kind with
    | .join => 0
    | .defer => 1
    | .trap => 2
  let own : Nat := match e.owner with
    | some i => fld 128 2 i + fld 130 1 1
    | none => 0
  fld 0 56 e.pc.toNat + fld 56 6 e.pos.toNat + fld 62 2 kind + fld 64 32 e.mask.toNat + fld 96 32 e.arr.toNat + own

/-- An entry from its record; none when it breaks Table 11.1. OWNER is taken to be 0 in an entry with OWNED = 0 (DESIGN CHOICE, log entry
84: the table gives it a meaning with OWNED = 1 alone). -/
def StackEntry.ofRecord (x : Nat) : Option StackEntry :=
  let kind := fget x 62 2
  if kind = 3 ∨ fget x 131 125 ≠ 0 ∨ (kind ≠ 0 ∧ fget x 96 32 ≠ 0) ∨ (fget x 130 1 = 0 ∧ fget x 128 2 ≠ 0) then none
  else some {
    kind := if kind = 0 then .join else if kind = 1 then .defer else .trap
    owner := if fget x 130 1 = 1 then some (fget x 128 2) else none
    arr := BitVec.ofNat 32 (fget x 96 32)
    mask := BitVec.ofNat 32 (fget x 64 32)
    pos := BitVec.ofNat 6 (fget x 56 6)
    pc := BitVec.ofNat 56 (fget x 0 56) }

/-- A window descriptor (21 Table 21.10). -/
def Window.record (w : Window) (si : Nat) : Nat :=
  1 + fld 1 1 (Bool.n w.re) + fld 2 2 (if w.nreg = 1 then 0 else if w.nreg = 2 then 1 else 2) + fld 4 7 w.dst.toNat + fld 12 4 w.left +
  fld 16 2 si + fld 18 4 w.ord + fld 32 32 w.word.toNat + fld 64 56 w.pc.toNat + fld 120 6 w.pos.toNat + fld 128 32 w.pmask.toNat

/-- The value area of a window slot: addresses formed at issue, or the returned registers, 8 bytes a lane (21 R308). -/
def Window.area (w : Window) : List Byte :=
  (List.range 32).flatMap fun l =>
    if w.re then bytesOf 8 (Sparse.get 0 w.addrs l).toNat
    else bytesOf 4 (Sparse.get 0 w.vals (32 * w.dst.toNat + l)).toNat ++ bytesOf 4 (Sparse.get 0 w.vals (32 * (w.dst.toNat + 1) + l)).toNat

/-- Reserved bits of a window descriptor, and the reserved NREG of one in use. -/
def windowReserved (x : Nat) : Bool :=
  fget x 11 1 != 0 || fget x 22 10 != 0 || fget x 126 2 != 0 || fget x 160 96 != 0 || (fget x 0 1 == 1 && fget x 2 2 == 3)

/-! ### The header (21 Table 21.6) -/

/-- LHDR of a cohort; 0 on a Headframe core. -/
def State.lhdr (s : State) (c : Cohort) : VAddr := ((c.launch.bind s.launch?).map fun l => l.haddr).getD 0

/-- The context header: complete, or as the block is taken. -/
def State.contextHeader (s : State) (c : Cohort) (valid : Bool) (stop ext dgext : Nat) : Nat :=
  let node := ((c.launch.bind s.launch?).bind fun l => l.node.bind fun n => s.nodes[n]?.map fun x => x.addr.toNat).getD 0
  1 + fld 8 1 (Bool.n valid) + fld 9 1 (Bool.n (c.groups.any fun g => g.pend.isSome && g.trap.isNone)) +
  fld 10 1 (Bool.n (hCoop c.hdr)) + fld 11 1 (Bool.n (hOrdered c.hdr)) +
  fld 12 4 stop + fld 16 6 c.ng + fld 24 3 c.cls + fld 32 56 (s.lhdr c).toNat + fld 96 56 node + fld 160 64 c.cseq + fld 224 2 c.die +
  fld 226 10 c.lcell + ((List.range 8).map fun i => fld (256 + 32 * i) 32 (c.sect (i + 1))).sum + fld 512 32 (c.sect 9) + fld 544 56 ext +
  fld 608 32 c.aheld.toNat + fld 640 32 c.tvec.toNat + fld 672 64 c.astamp + fld 736 56 dgext

/-- A block is taken for a cohort: its header as Table 21.6 gives it before a save. -/
def State.initBlock (s : State) (c : Cohort) : State := s.dieWrite c.die c.ctx.toNat (bytesOf 256 (s.contextHeader c false 0 0 0)) 0

/-- A window from its slot. -/
def Window.ofRecord (x : Nat) (area : List Byte) : Window :=
  let dst := fget x 4 7
  let re := fget x 1 1 == 1
  let nreg := if fget x 2 2 = 0 then 1 else if fget x 2 2 = 1 then 2 else 4
  let pm : Word := BitVec.ofNat 32 (fget x 128 32)
  { dst := BitVec.ofNat 7 dst, nreg := nreg, left := fget x 12 4, ready := !re, re := re, word := BitVec.ofNat 32 (fget x 32 32),
    pc := BitVec.ofNat 56 (fget x 64 56), pos := BitVec.ofNat 6 (fget x 120 6), ord := fget x 18 4, pmask := pm,
    addrs := if re then (List.range 32).map fun l => (l, BitVec.ofNat 64 (ofBytes ((area.drop (8 * l)).take 8))) else []
    vals := if re then [] else (List.range (min nreg 2)).flatMap fun r => (lanesOf pm).map fun l =>
      (32 * (dst + r) + l, BitVec.ofNat 32 (ofBytes ((area.drop (8 * l + 4 * r)).take 4))) }

end Sys2Proof.Machine
end

