-- ==== Sys2Proof/Machine/Agent.lean ====
section
/-! DEFINITION. The event rings (25 R341), the append of a chain entry (17 R259), and the accesses of agents that a Headframe
core may have to serve (13 R357). -/
namespace Sys2Proof.Machine

/-! ### Event rings (25 Tables 25.2, 25.3) -/

/-- Register of function page f. -/
def fnReg (f off : Nat) : Nat := 0x1_0000 + 0x1000 * f + off

/-- The key of a host bus address (25 R338). -/
def hostKey (a : Nat) : Nat := 2 ^ 60 + a % 2 ^ 64

/-- What an event says. -/
structure Event where
  src : Nat
  seq : Nat := 0
  status : Nat := 0
  code : Nat := 0
  slot : Nat := 0
  addr : Nat := 0
  deriving DecidableEq, Repr

/-- Write an event: entry, EVW, message; a full or disabled ring counts it in EVLOST (25 R341). -/
def State.event (s : State) (f : Nat) (e : Event) : State :=
  let w := (s.reg (fnReg f 0x010)).toNat
  let n := bits (s.reg (fnReg f 0x008)) 0 16
  let ctl := s.reg (fnReg f 0x020)
  if !bit ctl 0 || (w + (2 ^ 64 - (s.reg (fnReg f 0x018)).toNat)) % 2 ^ 64 == n then
    s.setReg (fnReg f 0x028) (s.reg (fnReg f 0x028) + 1)
  else
    let base := bits (s.reg (fnReg f 0x000)) 6 58 * 64
    let x := fld 0 64 w + fld 64 64 e.seq + fld 128 4 e.src + fld 132 4 e.status + fld 136 8 e.code + fld 144 8 e.slot + fld 160 56 e.addr
    let vec : Nat := if e.src = 0 ∧ e.slot ≠ 0xFF then bits (s.reg (fnReg f (0x100 + 16 * e.slot))) 56 6 else bits ctl 2 6
    let s1 := (s.homeWrite (hostKey (base + 32 * (w % n))) (bytesOf 32 x) 0).setReg (fnReg f 0x010) (BitVec.ofNat 64 (w + 1))
    { s1 with msix := s1.msix ++ [{ f := f, vector := BitVec.ofNat 6 vec, seq := if bit ctl 1 then some (BitVec.ofNat 16 e.seq) else none }] }

/-- The function to whose root work belongs: the PF, or virtual function n + 1. -/
def rootFn : Root → Nat
  | .hf => 0
  | .vd n => n + 1

/-- The root of a function. -/
def fnRoot (f : Nat) : Root := if f = 0 then .hf else .vd (f - 1)

/-- The CCB that slot j of function f names, in its root's address space. -/
def State.slotCcb (s : State) (f j : Nat) : VAddr := (s.reg (fnReg f (0x100 + 16 * j))).extractLsb' 0 56

/-- The enabled slot of any function that names the CCB at a key (01 R18, 13 R357); the lowest, where several do (DESIGN CHOICE, log
entry 75). -/
def State.slotOf (s : State) (kc : Nat) : Option (Nat × Nat) :=
  ((List.range 17).flatMap fun f => (List.range 16).map fun j => (f, j)).find? fun p =>
    bit (s.reg (fnReg p.1 (0x100 + 16 * p.2))) 63 && (match s.agentXlate (fnRoot p.1) (s.slotCcb p.1 p.2).toNat .read with
      | .ok k => k == kc
      | .error _ => false)

/-- The chain of the CCB at a key, which a party under root r appends to at `ccb`: the hub walks it for the slot that names it, under
that function's root; otherwise a Faceter does, under the appending launches' root (01 R18, 13 R357). -/
def State.chainAt (s : State) (r : Root) (ccb : VAddr) (kc : Nat) : Chain := match s.slotOf kc with
  | some (f, j) => { ccb := s.slotCcb f j, root := fnRoot f, slot := some (f, j) }
  | none => { ccb := ccb, root := r, slot := none }

/-- A chain is that of the CCB at a key: a CCB has one walker, whoever appends and by whatever address. -/
def State.walks (s : State) (r : Root) (ccb : VAddr) (kc : Nat) (k : Chain) : Bool :=
  k.ccb == ccb && k.root == r || (match s.agentXlate k.root k.ccb.toNat .read with
    | .ok q => q == kc
    | .error _ => false)

/-- A walker knows the chain of the CCB at a key. -/
def State.knowsChain (s : State) (r : Root) (ccb : VAddr) (kc : Nat) : Bool := s.chains.any (s.walks r ccb kc)

/-- The die whose Faceter walks a chain, that of the CCB's home slice; none: the hub, or a CCB that no walk reaches now (01 R18). -/
def State.walkerDie (s : State) (c : Chain) : Option Nat := match c.slot, s.agentXlate c.root c.ccb.toNat .read with
  | none, .ok k => some (homeSlice (k % 2 ^ 40) / 512)
  | _, _ => none

/-- The unit that walks a chain: the hub, or the die's own agent (13 R198). -/
def State.walkerUnit (s : State) (c : Chain) : Nat := s.unit (match s.walkerDie c with
  | some d => 84 + d
  | none => 80)

/-! ### Appends (17 R259) -/

/-- Append(ccb, e), as unit `src`, with the translation of the appending party; its first fault is reported by address and code. A CCB
that lies in another module has its walker there. The reserved fields of a CCB are not looked at: Table 17.9 gives them the value 0,
and no fault for another (DESIGN CHOICE, log entry 153). -/
def State.append (s : State) (src : Nat) (r : Root) (xl : Nat → Except Code Nat) (ccb e : VAddr) : Except (VAddr × Code) State :=
  match xl ccb.toNat with
  | .error c => .error (ccb, c)
  | .ok kc =>
    match xl e.toNat with
    | .error c => .error (e, c)
    | .ok ke =>
      let tail := s.homeRead kc 7
      let kt : Except Code Nat := if tail = 0 then .ok 0 else xl tail
      match kt with
      | .error c => .error (BitVec.ofNat 56 tail, c)
      | .ok kt =>
        let vd := s.vdTag r
        let n := (s.homeRead (kc + 8) 8 + 1) % 2 ^ 64
        let put (s : State) (k : Nat) (bs : List Byte) : State := (s.numbered src k).homeWrite k bs vd
        let s1 := put (put (put s (kc + 8) (bytesOf 8 n)) (ke + 16) (bytesOf 8 n)) (ke + 8) (bytesOf 7 0)
        let s2 := if tail = 0 then s1 else put s1 (kt + 8) (bytesOf 7 e.toNat)
        let s3 := put s2 kc (bytesOf 7 e.toNat)
        let s4 := if s3.homeRead (kc + 32) 7 = 0 then put s3 (kc + 32) (bytesOf 7 e.toNat) else s3
        .ok (if isRemoteKey kc || s4.knowsChain r ccb kc then s4 else { s4 with chains := s4.chains ++ [s4.chainAt r ccb kc] })

/-! ### Accesses that may wait (13 R357) -/

/-- The agent and the chain, record or queue of an access. -/
def AgentAct.target : AgentAct → Nat × Nat
  | .walker k => (0, k)
  | .decr va => (1, va.toNat)
  | .record va _ _ => (2, va.toNat)
  | .count q _ => (3, q.toNat / 4096)
  | .entry va _ => (3, va.toNat / 4096)
  | .append f j _ => (4, 16 * f + j)

/-- Make an access; what is to follow it; or the address and code of its fault. -/
def State.tryAct (s : State) (r : Root) : AgentAct → Except (VAddr × Code) (State × Option AgentAct)
  | .walker _ => .ok (s, none)
  | .decr va =>
    match s.agentXlate r va.toNat .write with
    | .error c => .error (va, c)
    | .ok k =>
      let p := s.homeRead (k + 1) 1
      .ok (if p = 0 then s else s.hubWrite (k + 1) (bytesOf 1 (p - 1)) (s.vdTag r), none)
  | .record va seq hi =>
    match s.agentXlate r va.toNat .write with
    | .error c => .error (va, c)
    | .ok k =>
      let s1 := match hi with
        | some h => s.hubWrite (k + 8) (bytesOf 8 h.toNat) (s.vdTag r)
        | none => s
      let n : Nat := match seq with
        | some q => q.toNat
        | none => (s1.homeRead k 8 + 1) % 2 ^ 64
      .ok (s1.hubWrite k (bytesOf 8 n) (s.vdTag r), none)
  | .count q e =>
    match s.agentXlate r q.toNat .write with
    | .error c => .error (q, c)
    | .ok k =>
      let c := s.homeRead k 8
      .ok (s.hubWrite k (bytesOf 8 ((c + 1) % 2 ^ 64)) (s.vdTag r),
        if c < 126 then some (.entry (q + BitVec.ofNat 56 (64 + 32 * c)) e) else none)
  | .entry va e =>
    match s.agentXlate r va.toNat .write with
    | .error c => .error (va, c)
    | .ok k => .ok (s.hubWrite k (bytesOf 32 e.toNat) (s.vdTag r), none)
  | .append f j e =>
    match s.append (s.unit 80) r (fun a => s.agentXlate r a .write) (s.slotCcb f j) e with
    | .error x => .error x
    | .ok s1 => .ok (s1, none)

/-- An access must wait: for a Headframe core, or behind an access of its agent to the same target that does. -/
def State.behind (s : State) (a : AgentAct) (r : Root) : Bool := s.waits.any fun w => w.act.target == a.target && w.root == r

/-- A host append that faults raises an event (13 R357). -/
def State.appendEvent (s : State) (a : AgentAct) (va : VAddr) (c : Code) : State := match a with
  | .append f _ _ => s.event f { src := 6, code := c, addr := va.toNat }
  | _ => s

/-- A faulting access waits, and a Headframe core is told (13 R357). -/
def State.await (s : State) (a : AgentAct) (r : Root) (va : VAddr) (c : Code) : State :=
  (({ s with waits := s.waits ++ [{ act := a, root := r, va := va, code := c }] } : State).signal (.agentFault va c)).appendEvent a va c

/-- Make one access of an agent, or have it wait. -/
def State.doAct1 (s : State) (r : Root) (a : AgentAct) : State × Option AgentAct :=
  if s.behind a r then ({ s with waits := s.waits ++ [{ act := a, root := r, va := 0, code := 0 }] }, none)
  else match s.tryAct r a with
    | .ok x => x
    | .error (va, c) => (s.await a r va c, none)

/-- Make an access and what follows it. -/
def State.doAct (s : State) (r : Root) (a : AgentAct) : State :=
  match s.doAct1 r a with
  | (s1, some b) => (s1.doAct1 r b).1
  | (s1, none) => s1

/-- Serve the n-th waiting access (13 R357): a discard drops it, unless it is a walker's; else it is made again, and waits
on if it faults again. -/
def State.serve (s : State) (n : Nat) (discard : Bool) : State :=
  match s.waits[n]? with
  | none => s
  | some w =>
    let rest : State := { s with waits := s.waits.eraseIdx n, stalled := [] }
    match w.act with
    | .walker _ => if discard then s else rest
    | a =>
      if discard then rest
      else match rest.tryAct w.root a with
        | .error (va, c) =>
          let s1 := { s with waits := s.waits.set n { w with va := va, code := c } }.signal (.agentFault va c)
          if w.code = 0 then s1.appendEvent a va c else s1
        | .ok (s1, some b) => (s1.doAct1 w.root b).1
        | .ok (s1, none) => s1

/-- `AGENT_FAULT_SERVICE` (13 R357): a Headframe core serves the n-th waiting access. -/
def execAgentFaultService (n : Nat) (discard : Bool) (s : State) : Host.Outcome State Fault Refusal := .next (s.serve n discard)

end Sys2Proof.Machine
end

