-- ==== Sys2Proof/Machine/Hint.lean ====
section
/-! DEFINITION. Hint words and dictionary pair words (05.6, 05.8), and the word that is no instruction (05 R59). -/
namespace Sys2Proof.Machine

/-- The cohort's unit configuration is in DICT mode (05 R76); a Headframe core decodes in REP mode (05 R82). -/
def Cohort.dictMode (c : Cohort) : Bool := !c.isHF && hDict c.hdr

/-- The kinds of the hints read so far. -/
def Ctx.kinds (c : Ctx) : List Nat := c.sp.chain.map fun w => bits w 22 3

/-- A second hint of a kind, a third IMM hint, or two IMM hints that are not adjacent (05 R63, Table 5.6). -/
def Ctx.repeatsHint (c : Ctx) (kind : Nat) : Bool :=
  if kind = 0 then (c.kinds.count 0 == 1 && c.kinds.getLast? != some 0) || decide (2 ≤ c.kinds.count 0)
  else c.kinds.contains kind

/-- Read one more hint: it joins the chain and the split goes to the next word (05 R62). -/
def Split.readHint (x : Split) (w : Nat) : Split :=
  { x with chain := x.chain ++ [BitVec.ofNat 32 w], chainPc := if x.chain.isEmpty then x.pc else x.chainPc, pc := x.pc + 4 }

/-- A hint word issues: it takes an issue slot and waits for its target (05 R62). -/
def hintAt (word : Nat) (wf : Ctx → Bool) (s : State) (c : Ctx) : State :=
  let q : Req := { word := word, hint := true }
  if !wf c || c.repeatsHint (word / 2 ^ 22 % 8) then s.raise c word { code := ILLEGAL }
  else match q.reject { c with h := {} } with
    | some t => s.raise c word t
    | none => (s.enter q c).updSp c.who fun x => x.readHint word

def hintWord (word : Nat) (wf : Ctx → Bool) (s : State) : Host.Outcome State Fault Refusal :=
  match s.ctx? with
  | none => .fault .noIssuer
  | some c => .next (hintAt word wf s c)

/-- `hint.imm` (05 R65): immediate bits for the target. -/
def execHintImm (h : BitVec 22) (s : State) : Host.Outcome State Fault Refusal := hintWord (encHintImm h) (fun _ => true) s

/-- `hint.mod` (05 R66): modifiers; RM must be 0 without RME, and CP at most 3. -/
def execHintMod (e : BitVec 1) (m : BitVec 2) (sa : BitVec 1) (o : BitVec 1) (b : BitVec 1) (c : BitVec 3) (l : BitVec 4)
    (s : State) : Host.Outcome State Fault Refusal :=
  hintWord (encHintMod e m sa o b c l) (fun _ => (e == 1 || m == 0) && decide (c.toNat ≤ 3)) s

/-- `hint.guard` (05 R67): a lane guard, `p0` to `p6`. -/
def execHintGuard (n : BitVec 3) (s : State) : Host.Outcome State Fault Refusal :=
  hintWord (encHintGuard n) (fun _ => n != 7) s

/-- `hint.sched` (05 R68): YLD and URG, not both clear. -/
def execHintSched (y u : BitVec 1) (s : State) : Host.Outcome State Fault Refusal :=
  hintWord (encHintSched y u) (fun _ => y == 1 || u == 1) s

/-- `hint.rep` (05 R76, R78): repetition, in REP mode only. -/
def execHintRep (n : BitVec 6) (d a b : BitVec 4) (s : State) : Host.Outcome State Fault Refusal :=
  hintWord (encHintRep n d a b) (fun c => !c.co.dictMode) s

/-- `hint.nop` (05 R70): no effect. -/
def execHintNop (t : BitVec 22) (s : State) : Host.Outcome State Fault Refusal := hintWord (encHintNop t) (fun _ => true) s

/-- A field of a word moved by a dictionary rebase (05 R80). -/
def rebase (w lo rb : Nat) : Nat := w - w / 2 ^ lo % 128 * 2 ^ lo + (w / 2 ^ lo % 128 + 4 * rb) % 128 * 2 ^ lo

/-- The vector register fields that a rebase moves, by their lowest bits (05 Table 5.8). -/
def rebased (w : Nat) : List Nat :=
  let m := w / 2 ^ 25
  if m ≤ 0x0F then [15, 8, 1]
  else if m ≤ 0x13 then [9, 2]
  else if m ≤ 0x1D then [15, 8]
  else if m ≤ 0x1F then (if w / 2 ^ 14 % 2 = 0 then [15] else [])
  else if m = 0x2A then [15]
  else if 0x30 ≤ m ∧ m ≤ 0x36 then [15, 8]
  else []

/-- A code of a pair word: the dictionary entry, rebased (05 R80); an entry that was not supplied is 0xFFFFFFFF (05 R79). -/
def dictCode (dict : List Word) (i : BitVec 10) (r : BitVec 5) : Word :=
  let t := (dict.getD i.toNat 0xFFFFFFFF#32).toNat
  if 2 ^ 31 ≤ t then BitVec.ofNat 32 t else BitVec.ofNat 32 ((rebased t).foldl (fun w lo => rebase w lo r.toNat) t)

/-- The codes of a pair word (05 R80). -/
def pairCodes (dict : List Word) (w : Word) : List Word :=
  dictCode dict (w.extractLsb' 21 10) (w.extractLsb' 16 5) :: (if bit w 15 then [dictCode dict (w.extractLsb' 5 10) (w.extractLsb' 0 5)] else [])

/-- A pair word is read: its codes issue next, one by one (05 R80); in REP mode or after a hint it traps (05 R81). A resume
position that the word does not have traps ILLEGAL_INSTRUCTION too; a repeated target with such a position is issued once
more, and a plain word does not look at its position (log entry 54). -/
def pairWord (word : Nat) (codes : List Word → List Word) (s : State) : Host.Outcome State Fault Refusal :=
  match s.ctx? with
  | none => .fault .noIssuer
  | some c =>
    let dict := match (s.cell (s.pcell c.co.lcell)).cfg with
      | some f => f.dict
      | none => []
    if !c.co.dictMode || !c.sp.chain.isEmpty || decide ((codes dict).length ≤ c.sp.pos.toNat) then
      .next (s.raise c word { code := ILLEGAL })
    else .next (s.updSp c.who fun x => { x with codes := codes dict, landed := false })

/-- `dpair i0:r0, i1:r1` (05 R80). -/
def execDpair (i : BitVec 10) (r : BitVec 5) (j : BitVec 10) (t : BitVec 5) (s : State) : Host.Outcome State Fault Refusal :=
  pairWord (encDpair i r j t) (fun d => [dictCode d i r, dictCode d j t]) s

/-- `dpair i0:r0` (05 R80). -/
def execDpairSingle (i : BitVec 10) (r : BitVec 5) (s : State) : Host.Outcome State Fault Refusal :=
  pairWord (encDpairSingle i r) (fun d => [dictCode d i r]) s

/-- A word that is no instruction traps where it would issue (05 R59, R61). -/
def execEncodingNotAnInstruction (w : BitVec 32) (s : State) : Host.Outcome State Fault Refusal :=
  match s.ctx? with
  | none => .fault .noIssuer
  | some c => .next (s.raise c w.toNat { code := ILLEGAL })

end Sys2Proof.Machine
end

