-- ==== Sys2Proof/Machine/Fetch.lean ====
section
/-! DEFINITION. How a split's next word is found: fetching, landing, repetition, and which splits are ready. -/
namespace Sys2Proof.Machine

/-- An instruction word at a PC, read at its home slice (13 R358; log entry 16). -/
def State.fetch (s : State) (c : Cohort) (pc : VAddr) : Except Code Word :=
  match s.laneXlate c pc.toNat .fetch with
  | .error e => .error e
  | .ok p => if s.spoilt none p.key 4 then .error ECC_UNCORRECTED else .ok (BitVec.ofNat 32 (s.homeRead p.key 4))

/-- The word before a PC is a hint (05 R63); a word that cannot be fetched is none. -/
def State.afterHint (s : State) (c : Cohort) (pc : VAddr) : Bool :=
  decide (4 ≤ pc.toNat) && match s.fetch c (pc - 4) with
    | .ok w => bits w 25 7 == 0x3F
    | .error _ => false

/-- The d, a and b fields that `hint.rep` steps: lowest bit and width (05 Table 5.8). -/
def stepped (w : Nat) : List (Option (Nat × Nat)) :=
  let m := w / 2 ^ 25
  if m ≤ 0x0F then [some (15, 7), some (8, 7), some (1, 7)]
  else if m ≤ 0x13 then [none, some (9, 7), some (2, 7)]
  else if m ≤ 0x1D then [some (15, 7), some (8, 7), none]
  else if m = 0x20 ∨ m = 0x23 then [some (16, 6), some (10, 6), some (4, 6)]
  else if m = 0x21 then [some (16, 6), some (10, 6), none]
  else if 0x30 ≤ m ∧ m ≤ 0x34 then [some (15, 7), some (8, 7), none]
  else []

/-- Step one field j times; none when it leaves its range (05 R78). -/
def stepField (w : Nat) (f : Option (Nat × Nat)) (by_ : Int) (j : Nat) : Option Nat :=
  match f with
  | none => some w
  | some (lo, n) =>
    let x := w / 2 ^ lo % 2 ^ n
    let y := (x : Int) + j * by_
    if 0 ≤ y ∧ y < 2 ^ n then some (w - x * 2 ^ lo + y.toNat * 2 ^ lo) else none

/-- The steps of a `hint.rep` word: sd, sa, sb (05 R78). -/
def repSteps (h : Word) : List Int := [signedOf 4 (bits h 12 4), signedOf 4 (bits h 8 4), signedOf 4 (bits h 4 4)]

/-- Repetition j of a target. -/
def stepWord (w : Nat) (h : Word) (j : Nat) : Option Nat :=
  ((stepped w).zip (repSteps h)).foldl (fun a p => a.bind fun x => stepField x p.1 p.2 j) (some w)

/-- A step is given for a field that the target's format lacks (05 R77). A target of a format that R78 does not list traps
itself, whatever the steps (log entry 50). -/
def stepsMissing (w : Nat) (h : Word) : Bool := ((stepped w).zip (repSteps h)).any fun p => p.1.isNone && p.2 != 0

/-- What a split finds where it issues. -/
inductive Fetched where
  | fault (c : Code)
  | trap (word : Nat) (t : Trap)
  | word (w : Nat)
  deriving DecidableEq, Repr

/-- A dictionary entry that may not issue (05 R80). -/
def badCode (w : Nat) : Bool :=
  decide (2 ^ 31 ≤ w) || (let m := w / 2 ^ 25 % 128; decide (0x28 ≤ m ∧ m ≤ 0x2C) || m == 0x3E || m == 0x3F)

/-- The word that a split issues next: a code of a pair word, a repetition, or the word at its PC (05.6, 05.8). -/
def State.nextWord (s : State) (c : Ctx) : Fetched :=
  if !c.sp.codes.isEmpty then
    let w := (c.sp.codes.getD c.sp.pos.toNat 0xFFFFFFFF#32).toNat
    if badCode w then .trap w { code := ILLEGAL } else .word w
  else match s.fetch c.co c.sp.pc with
    | .error e => .fault e
    | .ok w0 =>
      let w := w0.toNat
      if c.sp.landed && s.afterHint c.co c.sp.pc then .trap w { code := ILLEGAL }
      else match c.h.rep with
        | none => .word w
        | some h =>
          if bits w0 25 7 = 0x3F then .word w
          else if stepsMissing w h then .trap w { code := ILLEGAL, pc := some c.h.repPc }
          else match stepWord w h c.sp.pos.toNat with
            | none => .trap w { code := ILLEGAL }
            | some x => .word x

/-- The translation that a fetch used is kept (13 R193); a code of a pair word is not fetched (05 R80). -/
def State.keepFetch (s : State) (c : Ctx) : State := if c.sp.codes.isEmpty then s.keepXlate c.co .fetch c.sp.pc.toNat else s

/-- The trap of a word that cannot be fetched (13 R358). -/
def execInstructionFetchFault (w : Who) (s : State) : Host.Outcome State Fault Refusal :=
  let s1 := { s with focus := some w }
  match s1.ctx? with
  | none => .next s
  | some c => match s.nextWord c with
    | .fault e => .next (s1.raise c 0 { code := e, addr := c.sp.pc.setWidth 64 })
    | _ => .next s

/-! ### Readiness and choice (07 R116) -/

/-- The split may issue as far as halts go: a handler in a resident cohort that no stop holds; another in a group that is not
halted, or in what is left of its skid (21 R291, R297; 23 R318). -/
def State.unheld (s : State) (c : Cohort) (g : Group) (x : Split) : Bool :=
  if x.handler then c.status == .resident && !s.stopped c
  else g.pend.isNone && (if g.halt then decide (0 < g.left) && x.skids else !s.stopped c) &&
    (match c.status with
     | .resident => true
     | .saving _ _ => true
     | _ => false)

/-- A split may issue, throttling apart: live, waiting for nothing, not paused, not halted, and with no window still to be
re-issued (05 R75; 07 R116). -/
def State.free? (s : State) (c : Cohort) (g : Group) (x : Split) : Bool :=
  x.live && x.wait == .none && decide (x.pauseEnd ≤ s.now c) && !g.fin &&
  (g.stepped || (s.unheld c g x && !x.windows.any fun v => v.re && !v.under))

/-- N = max(4, 48 − 11 × LLS). -/
def throttle (lls : Nat) : Nat := max 4 (48 - 11 * lls)

/-- Lexicographic order of keys. -/
def keysLt : List Nat → List Nat → Bool
  | [], _ => false
  | _, [] => false
  | a :: s, b :: t => if a < b then true else if a = b then keysLt s t else false

/-- The age of a cohort: launch number, cuts before task groups, then sequence (07 R104; 19 R270). -/
def Cohort.age (c : Cohort) : List Nat := [c.launch.getD 0, if c.kind = .task then 1 else 0, c.cseq]

def Cohort.older (a b : Cohort) : Bool := keysLt a.age b.age

/-- Groups of the cell that are older than a group; finished groups are not resident and do not count (07 R116; log entry
49). -/
def State.olderGroups (s : State) (c : Cohort) (g : Group) : Nat :=
  ((s.cohorts.filter fun d => d.status == .resident && !d.isHF && d.lcell == c.lcell).map fun d =>
    if d.id = c.id then (d.groups.filter fun h => !h.fin && decide (h.index < g.index)).length
    else if d.older c then (d.groups.filter fun h => !h.fin).length else 0).sum

/-- A memory instruction is held back by the throttle (07 R116). -/
def State.throttled (s : State) (c : Ctx) : Bool :=
  !c.co.isHF && (match s.nextWord c with
    | .word w => decide (0x30 ≤ w / 2 ^ 25 ∧ w / 2 ^ 25 ≤ 0x36)
    | _ => false) && decide (throttle (s.cell (s.pcell c.co.lcell)).lls ≤ s.olderGroups c.co c.gr)

/-- The context of a split. -/
def State.ctxOf (s : State) (w : Who) : Option Ctx := { s with focus := some w }.ctx?

def State.ready (s : State) (w : Who) : Bool := match s.ctxOf w with
  | none => false
  | some c => s.free? c.co c.gr c.sp && !s.stalled.contains w && !s.throttled c

/-- Every split of the module. -/
def State.whos (s : State) : List Who :=
  s.cohorts.flatMap fun c => (c.groups.zipIdx).flatMap fun p => (List.range p.1.splits.length).map fun i => ⟨c.id, p.2, i⟩

/-- Priority of a launch; a Headframe core's is 0. -/
def Cohort.prio (c : Cohort) : Nat := if c.isHF then 0 else hPrio c.hdr

/-- A boosted split (07 R116): the boost ends when the split is not ready. -/
def State.boosts (s : State) (c : Ctx) : Bool := c.sp.boosted && decide (256 ≤ s.starved c.who)

/-- The keys of 07 R116, in order, smaller first; system priority is the Headframe cores', and of boosted splits the one that
became ready first goes first. -/
def State.keys (s : State) (c : Ctx) : List Nat :=
  [if c.sp.handler then 0 else 1, if c.co.isHF then 0 else 1, if s.boosts c then 0 else 1,
   if s.boosts c then s.time - s.starved c.who else 0, 3 - c.co.prio,
   if c.h.urg then 0 else 1] ++ c.co.age ++ [c.gr.index, c.who.si]

/-- The starvation count of a split after a step from s to t (07 R116; 05 R68): it grows while the split is ready; it stays
while the split is paused, held back by the throttle, or stopped by the Loupe (23 R318); any other wait ends it, and so does
an issue. `blocked` says which splits could not issue their next word (05 R72). -/
def State.starvedAt (s t : State) (issuer : Option Who) (blocked : Who → Bool) (w : Who) : Nat :=
  match s.ctxOf w with
  | none => 0
  | some c =>
    if issuer = some w ∨ s.stalled.contains w = true then 0
    else if s.stopped c.co then s.starved w
    else if !s.free? c.co c.gr { c.sp with pauseEnd := 0 } then 0
    else if s.throttled c then s.starved w
    else if blocked w then 0
    else s.starved w + (t.time - max s.time c.sp.pauseEnd)

/-- What a step adds to the starvation counts. -/
def State.starveFrom (s t : State) (issuer : Option Who) (blocked : Who → Bool) : State :=
  { t with starve := (t.whos.map fun w => (w, s.starvedAt t issuer blocked w)).filter fun p => p.2 != 0 }

/-- The issue scheduler of a split: its cell and its slot mod 4; each Headframe core has its own. -/
def State.sched (s : State) (c : Ctx) : Nat × Nat := match c.co.kind with
  | .headframe n => (512 + n, 0)
  | _ => (s.pcell c.co.lcell, c.gr.slot % 4)

/-- The split that each scheduler chooses among its ready splits. -/
def State.choices (s : State) : List Who :=
  let cs := (s.whos.filter s.ready).filterMap s.ctxOf
  (cs.filter fun c => cs.all fun d => !(s.sched d == s.sched c && keysLt (s.keys d) (s.keys c))).map fun c => c.who

end Sys2Proof.Machine
end

