-- ==== Sys2Proof/Machine/Tensor.lean ====
section
/-! DEFINITION. Tensor descriptors (17.2), their elements, scales and zero points (03.7), FIFO streams (13 R184), and the
accesses of an engine command. -/
namespace Sys2Proof.Machine

/-! ### Descriptors (17 Table 17.1) -/

/-- A tensor descriptor. -/
abbrev Desc := BitVec 512

def Desc.fmt (t : Desc) : Nat := bits t 0 4
/-- n. -/
def Desc.ndim (t : Desc) : Nat := bits t 4 2 + 1
def Desc.scm (t : Desc) : Nat := bits t 6 3
def Desc.zpm (t : Desc) : Nat := bits t 9 2
def Desc.loc (t : Desc) : Nat := bits t 11 2
def Desc.xv (t : Desc) : Nat := bits t 16 16
def Desc.bank (t : Desc) : Nat := bits t 32 6
def Desc.base (t : Desc) : Nat := bits t 64 56
def Desc.ext (t : Desc) (i : Nat) : Nat := bits t (128 + 32 * i) 32
def Desc.str (t : Desc) (i : Nat) : Int := signedOf 32 (bits t (256 + 32 * i) 32)
def Desc.scb (t : Desc) : Nat := bits t 384 56
def Desc.zpb (t : Desc) : Nat := bits t 448 56
/-- w. -/
def Desc.w (t : Desc) : Nat := typeWidth t.fmt
def Desc.exts (t : Desc) : List Nat := (List.range 4).map t.ext

/-- The reserved fields are 0. -/
def Desc.reserved0 (t : Desc) : Bool :=
  bits t 13 3 == 0 && bits t 38 26 == 0 && bits t 120 8 == 0 && bits t 440 8 == 0 && bits t 504 8 == 0

/-- A descriptor is valid (17 R240): FMT 7 is invalid by Table 17.1. -/
def Desc.valid (t : Desc) : Bool :=
  let n := t.ndim
  t.reserved0 && !(t.fmt == 6 || t.fmt == 7 || t.fmt == 15) && decide (t.scm ≤ 4) && decide (t.zpm ≤ 1) && decide (t.loc ≤ 2) &&
  (t.xv == 0 || t.fmt == 12) && (t.loc == 2 || t.bank == 0) &&
  (List.range 4).all (fun i => if i < n then t.ext i != 0 else t.ext i == 0 && t.str i == 0) &&
  (if t.loc = 2 then t.base == 0 && (List.range 4).all (fun i => t.str i == 0)
   else if t.loc = 1 then decide (t.base < 2 ^ 20) else true) &&
  (t.scm != 0 || t.scb == 0) && (t.scm != 1 || decide (t.scb < 2 ^ 32)) && (t.zpm == 1 || t.zpb == 0) &&
  !((t.scm == 4 || t.zpm == 1) && !(t.fmt == 13 || t.fmt == 14)) && (t.zpm != 1 || t.scm == 4) &&
  (t.w == 4 || t.base % (t.w / 8) == 0) && (!(t.scm == 2 || t.scm == 4) || t.scb % 2 == 0)

/-- Entry N of a cohort's table; an invalid one is none. -/
def Cohort.tensor? (c : Cohort) (n : Nat) : Option Desc :=
  let t : Desc := Sparse.get 0 c.ttab n
  if t.valid then some t else none

/-! ### Elements (17 R241) -/

/-- An index is inside the extents. -/
def Desc.inside (t : Desc) (ix : List Nat) : Bool := (ix.zipIdx).all fun p => decide (p.1 < t.ext p.2)

/-- e(i). -/
def Desc.number (t : Desc) (ix : List Nat) : Int := ((ix.zipIdx).map fun p => (p.1 : Int) * t.str p.2).sum

/-- The byte of element number e: BASE + ⌊e w / 8⌋. -/
def Desc.byteAt (t : Desc) (e : Int) : Int := t.base + e * t.w / 8

/-- Bytes of an element. -/
def Desc.bytes (t : Desc) : Nat := max 1 (t.w / 8)

/-- The number of elements within the extents. -/
def Desc.count (t : Desc) : Nat := ((List.range t.ndim).map t.ext).prod

/-- Element k of a walk with dimension 0 fastest. -/
def Desc.index (t : Desc) (k : Nat) : List Nat :=
  ((List.range t.ndim).foldl (fun (r : Nat × List Nat) i => (r.1 / t.ext i, r.2 ++ [r.1 % t.ext i])) (k, [])).2

/-- The least and the greatest element number within the extents. -/
def Desc.span (t : Desc) : Int × Int :=
  (List.range t.ndim).foldl (fun (r : Int × Int) i =>
    let x := ((t.ext i : Int) - 1) * t.str i
    if x < 0 then (r.1 + x, r.2) else (r.1, r.2 + x)) (0, 0)

/-- The scratch check of 17 R241: the lowest offset at fault. Where the least byte lies inside the window and the greatest outside, that is
Z, the first offset outside, whether or not an element reaches it (DESIGN CHOICE, log entry 156). -/
def Desc.scratchBad (t : Desc) (z : Nat) : Option Int :=
  if t.loc ≠ 1 then none
  else
    let lo := t.byteAt t.span.1
    let hi := t.byteAt t.span.2 + (t.bytes - 1 : Nat)
    if lo < 0 ∨ (z : Int) ≤ lo then some lo else if (z : Int) ≤ hi then some (max lo z) else none

/-! ### FIFO banks (13 R184) -/

def State.fifo (s : State) (k bank : Nat) : Fifo := (Sparse.get none (s.cluster k).fifo bank).getD {}

def State.setFifo (s : State) (k bank : Nat) (f : Fifo) : State :=
  s.updCluster k fun c => { c with fifo := Sparse.set none c.fifo bank (if f = {} then none else some f) }

/-- Where a cohort's claimed FIFO bank stands: cluster and contents. -/
def State.fifoHome (s : State) (co b : Nat) : Option (Nat × Fifo) :=
  s.clusters.findSome? fun p => ((Sparse.get none p.2.fifo b).bind fun f => if f.owner = some co then some (p.1, f) else none)

/-- Push one entry of 128 bytes, the rest zero. -/
def Fifo.push (f : Fifo) (bs : List Byte) : Fifo := { f with entries := f.entries ++ [bs ++ List.replicate (128 - bs.length) 0] }

/-- Element k of a stream of entries, w bits wide. -/
def streamElem (es : List (List Byte)) (w k : Nat) : Nat :=
  if w = 4 then bits (((es.getD (k / 256) []).getD (k / 2 % 128) 0)) (4 * (k % 2)) 4
  else
    let b := k * (w / 8)
    ofBytes (((es.getD (b / 128) []).drop (b % 128)).take (w / 8))

/-! ### Accesses of a command (13 R210, R213) -/

/-- A fault that a command meets: code and address. -/
abbrev EFault := Code × BitVec 64

/-- The command's cohort. -/
def State.cmdCo (s : State) (m : Cmd) : Option Cohort := m.co.bind s.cohort?

/-- The translation cache that serves a command (13 R193). -/
def State.cmdTlb (s : State) (m : Cmd) : List TlbEntry :=
  match m.eng with
  | .gather => Sparse.get [] s.tlbs (((s.cmdCo m).map fun c => c.die).getD 0)
  | .coll => Sparse.get [] s.tlbs 4
  | _ => match (s.cmdCo m).bind s.clusterOf with
    | some k => (s.cluster k).tlb
    | none => []

/-- Keep a translation of a command. -/
def State.cmdTlbFill (s : State) (m : Cmd) (p : Phys) : State :=
  let (f, s1) := s.draw
  let unit (u : Nat) : State := { s1 with tlbs := Sparse.set [] s1.tlbs u (tlbAdd (Sparse.get [] s1.tlbs u) 1024 f m.root p) }
  match m.eng with
  | .gather => unit (((s.cmdCo m).map fun c => c.die).getD 0)
  | .coll => unit 4
  | _ => match (s.cmdCo m).bind s.clusterOf with
    | some k => s1.updCluster k fun x => { x with tlb := tlbAdd x.tlb 4096 f m.root p }
    | none => s1

/-- Translate an address of a command: an address outside 56 bits, and a register frame, is PROTECTION. -/
def State.cmdXlate (s : State) (m : Cmd) (a : Int) (k : Access) : Except EFault Phys :=
  if a < 0 ∨ (2 ^ 56 : Nat) ≤ a then .error (PROTECTION, BitVec.ofInt 64 a)
  else match s.xlate (s.cmdTlb m) m.root a.toNat k false with
    | .ok p => if s.noRoute p.key then .error (ECC_UNCORRECTED, BitVec.ofInt 64 a) else .ok p
    | .error c => .error (c, BitVec.ofInt 64 a)

/-- Read n bytes of global memory, at home. -/
def State.cmdRead (s : State) (m : Cmd) (a : Int) (n : Nat) : Except EFault Nat :=
  match s.cmdXlate m a .read with
  | .ok p => if s.spoilt none p.key n then .error (ECC_UNCORRECTED, BitVec.ofInt 64 a) else .ok (s.homeRead p.key n)
  | .error e => .error e

/-- The unit that performs a command, as a source of requests (13 R198): the gather unit of the cohort's die, the collective
engine, the cluster's copy engine, a Headframe core's own engines, or the engines of command nodes (log entry 56). -/
def State.cmdUnit (s : State) (m : Cmd) : Nat := s.unit (match m.eng, s.cmdCo m with
  | .gather, c => 64 + (c.map fun c => c.die).getD 0
  | .coll, _ => 68
  | _, none => 200
  | _, some c => match c.kind with
    | .headframe n => 192 + n
    | _ => 128 + s.pcell c.lcell / 8)

/-- Write bytes of global memory, at home, as a request of the engine; the translation is kept. -/
def State.cmdWrite (s : State) (m : Cmd) (a : Int) (bs : List Byte) : Except EFault State :=
  match s.cmdXlate m a .write with
  | .ok p => .ok (((s.cmdTlbFill m p).numbered (s.cmdUnit m) p.key).homeWrite p.key bs (s.vdTag m.root))
  | .error e => .error e

/-- A command's read is a request of its engine (13 R198), and the translation that it used is kept (R193). -/
def State.cmdKeep (s : State) (m : Cmd) (a : Int) : State := match s.cmdXlate m a .read with
  | .ok p => (s.cmdTlbFill m p).numbered (s.cmdUnit m) p.key
  | .error _ => s

/-- Read bytes of an element at a byte address or scratch offset. -/
def State.elemBytes (s : State) (m : Cmd) (t : Desc) (a : Int) : Except EFault Nat :=
  if t.loc = 1 then
    match s.cmdCo m with
    | none => .error (SCRATCH_BOUNDS, BitVec.ofInt 64 a)
    | some c => if a < 0 ∨ (c.z : Int) < a + t.bytes then .error (SCRATCH_BOUNDS, BitVec.ofInt 64 a)
      else if (List.range t.bytes).any fun j => c.badScr.contains ((a.toNat + j) / 32) then .error (ECC_UNCORRECTED, BitVec.ofInt 64 a)
      else .ok (ofBytes (c.scratchBytes a.toNat t.bytes))
  else s.cmdRead m a t.bytes

/-- The bits of an element that stands in memory or scratch. -/
def State.elemRaw (s : State) (m : Cmd) (t : Desc) (ix : List Nat) : Except EFault Nat :=
  let e := t.number ix
  match s.elemBytes m t (t.byteAt e) with
  | .error x => .error x
  | .ok v => .ok (if t.w = 4 then v / 16 ^ (e % 2).toNat % 16 else v)

/-- Write the bits of an element. -/
def State.putElem (s : State) (m : Cmd) (t : Desc) (ix : List Nat) (x : Nat) : Except EFault State :=
  let e := t.number ix
  let a := t.byteAt e
  let bytes (old : Nat) : List Byte :=
    bytesOf t.bytes (if t.w = 4 then old - old / 16 ^ (e % 2).toNat % 16 * 16 ^ (e % 2).toNat + x % 16 * 16 ^ (e % 2).toNat else x)
  let old : Except EFault Nat := if t.w = 4 then s.elemBytes m t a else .ok 0
  if t.loc = 1 then
    match s.cmdCo m, old with
    | some c, .ok o => if a < 0 ∨ (c.z : Int) < a + t.bytes then .error (SCRATCH_BOUNDS, BitVec.ofInt 64 a)
      else .ok (s.updCo c.id fun c => c.scratchWrite a.toNat (bytes o))
    | _, .error e => .error e
    | none, _ => .error (SCRATCH_BOUNDS, BitVec.ofInt 64 a)
  else match s.cmdXlate m a .write with
    | .error e => .error e
    | .ok p => s.cmdWrite m a (bytes (if t.w = 4 then s.homeRead p.key 1 else 0))

/-! ### Values (03 R42, R44, R45) -/

/-- The value of an element's bits: FP4 code 0b1000 is the extra value. -/
def Desc.value (t : Desc) (x : Nat) : FVal :=
  if t.fmt = 12 ∧ x % 16 = 8 then BF16.value t.xv else typeValue t.fmt x

/-- The number of a per-group scale. -/
def Desc.group (t : Desc) (ix : List Nat) : Nat := ix.getD 0 0 * ((t.ext 1 + 31) / 32) + ix.getD 1 0 / 32

/-- The scale of an element, SCM 0 to 3; the scale array is global (log entry 20). -/
def State.scale (s : State) (m : Cmd) (t : Desc) (ix : List Nat) : Except EFault FVal :=
  match t.scm with
  | 1 => .ok (F32.value t.scb)
  | 2 => (s.cmdRead m (t.scb + 2 * ix.getD 0 0) 2).map BF16.value
  | 3 => (s.cmdRead m (t.scb + t.group ix) 1).map d8Value
  | _ => .ok (.fin false 1 1)

/-- A scaled value: its format value times its scale, exactly (03 R44). -/
def State.scaled (s : State) (m : Cmd) (t : Desc) (ix : List Nat) (x : Nat) : Except EFault FVal :=
  if t.scm = 0 then .ok (t.value x) else (s.scale m t ix).map fun g => (t.value x).mul g

/-- The dequantised weight of the prologue (03 R45). -/
def State.prologue (s : State) (m : Cmd) (t : Desc) (ix : List Nat) (q : Nat) : Except EFault FVal :=
  let n := t.group ix
  match s.cmdRead m (t.scb + 2 * n) 2 with
  | .error e => .error e
  | .ok g =>
    let zp : Except EFault Nat := if t.zpm = 1 then (s.cmdRead m (t.zpb + n / 2) 1).map fun b => b / 16 ^ (n % 2) % 16 else .ok 0
    zp.map fun z =>
      let q' : Int := if t.fmt = 13 then signedOf 4 q else (q % 16 : Nat)
      BF16.value (BF16.round 0 false ((FVal.ofInt (q' - z)).mul (BF16.value g)))

/-- The addresses that the read of an element translates: its own, and where it is scaled those of its scale and zero point. -/
def Desc.reads (t : Desc) (scaled : Bool) (ix : List Nat) : List Int :=
  if !t.inside ix then []
  else (if t.loc = 0 then [t.byteAt (t.number ix)] else []) ++
    if !scaled then [] else
    (match t.scm with
     | 2 => [((t.scb + 2 * ix.getD 0 0 : Nat) : Int)]
     | 3 => [((t.scb + t.group ix : Nat) : Int)]
     | 4 => [((t.scb + 2 * t.group ix : Nat) : Int)]
     | _ => []) ++
    (if t.zpm = 1 then [((t.zpb + t.group ix / 2 : Nat) : Int)] else [])

/-- The translations of an element's reads are kept (13 R193). -/
def State.keepElem (s : State) (m : Cmd) (t : Desc) (scaled : Bool) (ix : List Nat) : State :=
  (t.reads scaled ix).foldl (fun (s : State) a => s.cmdKeep m a) s

/-- The value 0 that an index outside the extents reads as. -/
def zeroVal : FVal := .fin false 0 1

end Sys2Proof.Machine
end

