-- ==== Sys2Proof/Machine/Engine.lean ====
section
/-! DEFINITION. The tensor table, accumulators and FIFO claims (17.2, 17.3); how a command is issued, runs, faults and
completes (17.1, 17.8); copy, gather, scatter and collectives (17.5, 17.6). -/
namespace Sys2Proof.Machine

/-! ### Commands -/

def State.cmd? (s : State) (id : Nat) : Option Cmd := s.cmds.find? fun m => m.id == id

def State.updCmd (s : State) (id : Nat) (f : Cmd → Cmd) : State :=
  { s with cmds := s.cmds.map fun m => if m.id = id then f m else m }

def Cmd.major (m : Cmd) : Nat := match m.eng with
  | .matrix => 0x3A
  | .copy => 0x38
  | .gather => 0x39
  | .coll => 0x3D

/-- The arrival a command carries: byte offset and parity (17 R239); a command node carries none. -/
def Cmd.arv (m : Cmd) : Option (Nat × Nat) :=
  if m.node.isSome then none
  else if m.eng = .matrix then (if bit m.p0 17 then some (4 * bits m.p0 20 12, bits m.p0 18 1) else none)
  else if bit m.p0 18 then some (4 * bits m.p0 20 12, bits m.p0 19 1) else none

/-- The cell whose engines a cohort's commands use; a Headframe core has its own, numbered from 512. -/
def State.engCell (s : State) (c : Cohort) : Nat := match c.kind with
  | .headframe n => 512 + n
  | _ => s.pcell c.lcell

/-- A command is appended to its queue, with what it copies at issue (17 R236). -/
def State.addCmd (s : State) (c : Ctx) (word : Nat) (m : Cmd) : State :=
  { s with
    nextCmd := s.nextCmd + 1
    cmds := s.cmds ++ [{ m with
      id := s.nextCmd, co := some c.who.co, gi := c.who.gi, launch := c.co.launch, root := c.co.root,
      iid := Sparse.get 0 c.gr.iids ((lanesOf c.sp.mask).headD 0), pc := c.sp.pc, pos := c.sp.pos,
      word := BitVec.ofNat 32 word, si := c.who.si }] }

/-! ### The end of a command (17 R237 to R239, R261, R265) -/

/-- A cohort and what it holds goes: FIFO banks, granules, context block (17 R238). -/
def State.dropCohort (s : State) (co : Nat) : State :=
  match s.cohort? co with
  | none => s
  | some c =>
    let s0 := c.fifos.foldl (fun (s : State) b => match s.fifoHome co b with
      | some p => s.setFifo p.1 b {}
      | none => s) s
    let s1 := match s0.clusterOf c with
      | none => s0
      | some k =>
        match c.status with
        | .saved _ _ => s0
        | _ => s0.updCluster k fun x => { x with grans := c.grans.foldl (fun (g : Sparse Nat) (p : Nat × Nat) => Sparse.set 0 g p.1 (Sparse.get 0 g p.1 - p.2)) x.grans }
    let s2 := if c.ctx.toNat = 0 then s1 else s1.poolPush c.die c.cls c.ctx.toNat
    { s2 with cohorts := s2.cohorts.filter fun d => d.id != co }

/-- A finished cohort whose last command has gone is dropped. -/
def State.tidy (s : State) (co : Option Nat) : State :=
  match co.bind s.cohort? with
  | some c => if c.status = .held ∧ !(s.cmds.any fun m => m.co == some c.id) then s.dropCohort c.id else s
  | none => s

/-- Bytes 8 to 15 of a completion record (17 Table 17.11). -/
def recHi (status code detail : Nat) : BitVec 64 := BitVec.ofNat 64 (fld 0 4 status + fld 8 8 code + fld 16 48 detail)

/-- A command ends: its record, its node, its place. -/
def State.finishCmd (s : State) (m : Cmd) (status code : Nat) : State :=
  let s1 := { s with cmds := s.cmds.filter fun x => x.id != m.id, stalled := [] }
  let s2 := if m.crec.toNat = 0 then s1
    else s1.doAct m.root (.record m.crec none (if status = 0 then none else some (recHi status code m.prog.toNat)))
  let s3 := match m.node with
    | some n => { s2 with nodes := s2.nodes.modify n fun x => { x with result := some (status, code, if status = 0 then 0 else m.prog) } }
    | none => s2
  s3.tidy m.co

/-- DETAIL of a command's fault (21 Table 21.1). -/
def Cmd.detail (m : Cmd) (s : State) (code : Code) : Nat :=
  if code = 2 ∨ code = 3 ∨ code = 4 then m.prog.toNat
  else if code = 13 then 13 + m.prog.toNat % 2 ^ 40 * 2 ^ 8
  else if code = 6 then (match s.cmdCo m, m.arv with
    | some c, some (off, _) => (c.scratchWord off).toNat
    | _, _ => 0)
  else 0

/-- The trap record of a command's fault (21 R356). -/
def State.cmdRecord (s : State) (m : Cmd) (g : Group) (f : EFault) : TrapRec :=
  let x : Split := (((g.standIn m.si).bind fun i => g.splits[i]?)).getD { pc := m.pc }
  { code := f.1, cause := 8, split := (g.standIn m.si).getD m.si, word := m.word, pc := m.pc, pos := m.pos, rpc := x.past.1,
    rpos := x.past.2, addr := f.2, detail := BitVec.ofNat 48 (m.detail s f.1) }

/-- The record of an escalation with cause 7 or 8 takes the group record; a live handler's own trap is kept beside it, with the
handler's cycles so far (log entry 58). -/
def Group.escalated (g : Group) (r : TrapRec) (now : Nat) : Group :=
  if g.splits.any fun x => x.live && x.handler then
    { g with trap := some r, kept := g.trap.map fun t => { t with hcyc := g.hcyc + (now - g.hstart) } }
  else { g with trap := some r }

/-- Where the trap record of a group stands in its cohort's block (21 R307). -/
def Cohort.recordPlace (c : Cohort) (gi : Nat) (g : Group) : Nat := c.recordAt gi g + 608

/-- A command meets a fault after issue (17 R237; 21 R356): it stops, and its cohort escalates with cause 8; while the Loupe
holds the cluster the fault waits for GO (23 R318). A command node, which no cohort issued, ends with the fault (log entry 21); a
command whose cohort is being saved meets its fault again. A cohort that only holds its block takes one fault at a time, with
no outcome yet. -/
def State.cmdFault (s : State) (m : Cmd) (f : EFault) : State :=
  match m.co with
  | none => s.finishCmd m 2 f.1
  | some co =>
    let s1 := s.updCmd m.id fun m => { m with stopped := true, fault := some f }
    match s.cohort? co with
    | none => s
    | some c =>
      match c.groups[m.gi]? with
      | none => s1
      | some g =>
        match c.status with
        | .resident =>
          if s.stopped c then s else
          let s2 := s1.haltCohort co none
          (s2.updCo co fun c => { c.updGr m.gi fun g => g.escalated (s.cmdRecord m g f) s.time with
            status := .saving 5 (some m.gi) }).signal (.commandFault m.id)
        | .held =>
          if s.cmds.any fun k => k.co == some co && k.fault.isSome then s else
          let ng := s1.homeRead (c.ctx.toNat + 2) 1 % 64
          ((s1.dieWrite c.die (c.recordPlace m.gi g) (bytesOf 64 (s.cmdRecord m g f).record) 0).dieWrite c.die (c.ctx.toNat + 2)
            [BitVec.ofNat 8 ng] 0).signal (.commandFault m.id)
        | _ => s.updCmd m.id fun m => { m with stopped := true }

/-- The fault queue entry of a command (17 Table 17.13). -/
def Cmd.fqEntry (m : Cmd) (seq code : Nat) : BitVec 256 :=
  BitVec.ofNat 256 (fld 0 64 m.iid.toNat + fld 64 64 seq + fld 128 8 code + fld 138 6 m.major + fld 144 6 m.fn + fld 160 64 m.prog.toNat)

/-- ENGINE_FAULT at the next instruction boundary of the group that issued an ended command (17 R237; 21 R356): a live handler
that answers for the group escalates; beside another handler, a trap of the group that is not over, or a stop of the cluster, it waits
its turn. `q` is the entry of the fault queue that takes its place if the group ends first (log entry 60). -/
def State.engineFault (s : State) (w : Who) (r : TrapRec) (q : Option (BitVec 256)) : State :=
  match s.cohort? w.co, s.group? w.co w.gi with
  | some c, some g =>
    if (s.split? w).any fun x => x.handler then s.arise w r
    else if g.pend.isSome then s.updGr w fun g => { g with queued := g.queued ++ [(r, q)] }
    else if g.trap.isSome || c.handling || s.stopped c then s.updGr w fun g => { g with pend := some r }
    else s.deliver w r
  | _, _ => s

/-- An entry goes to the fault queue of a cohort's launch, where it has one (17 R265). -/
def State.faultEntry (s : State) (c : Cohort) (e : BitVec 256) : State :=
  if c.isHF ∨ hFltq c.hdr = 0 then s else s.doAct c.root (.count (BitVec.ofNat 56 (hFltq c.hdr)) e)

/-- A faulted command is ended by its service (17 R237, R265): ENGINE_FAULT in its group when it is live, else the launch's fault
queue. -/
def State.deliverCmd (s : State) (m : Cmd) (code : Code) : State :=
  let co := s.cmdCo m
  let seq : Nat := if m.crec.toNat = 0 then 0 else match s.agentRead m.root m.crec.toNat 8 with
    | .ok n => (n + 1) % 2 ^ 64
    | .error _ => 0
  let live := (co.bind fun c => c.groups[m.gi]?).bind fun g => if g.fin then none else g.standIn m.si
  let s1 := s.finishCmd m 2 code
  match co, live with
  | some c, some i =>
    let w : Who := ⟨c.id, m.gi, i⟩
    match s1.split? w with
    | none => s1
    | some x => s1.engineFault w
        { code := ENGINE_FAULT, split := i, word := m.word, pc := m.pc, pos := m.pos, rpc := x.past.1, rpos := x.past.2,
          detail := BitVec.ofNat 48 (code + m.prog.toNat % 2 ^ 40 * 2 ^ 8) } (some (m.fqEntry seq code))
  | some c, none => s1.faultEntry c (m.fqEntry seq code)
  | none, _ => s1

/-- A command whose work is done arrives at its barrier word, counts in its record and goes (17 R239, R261); an arrival
that overruns is a fault of the command. Where the cohort is saved, the arrival goes to its log, and the command ends when the log is
replayed (17 R238; log entry 42). -/
def State.completeCmd (s : State) (m : Cmd) : State :=
  if !m.done || m.stopped then s
  else match m.arv, s.cmdCo m with
    | some (off, q), some c =>
      (match c.status with
       | .saved _ _ => if m.logged.isSome then s else
         (s.updCo c.id fun c => c.logArrival { stamp := 0, wake := false, q := q == 1, target := off }).updCmd m.id fun m =>
           { m with logged := some c.astamp }
       | _ => match c.arriveAt off q with
         | none => s.cmdFault m (BARRIER_OVERRUN, 0)
         | some r =>
           let c1 : Cohort := { r.2.2 with cmdWords := (off :: c.cmdWords).eraseDups }
           ((s.updCo c.id fun _ => c1).barpAcquire c1 off).finishCmd m 0 0)
    | _, _ => s.finishCmd m 0 0

/-! ### The tensor table (17 R242) -/

/-- `tidset tN <- [sA]`: a plain load of 64 bytes on the lanes path. -/
def execTidset (a n : BitVec 6) (s : State) : Host.Outcome State Fault Refusal :=
  let addr (c : Ctx) : Nat := (c.gr.getS2 a.toNat).toNat
  let desc (c : Ctx) (s : State) : Desc := BitVec.ofNat 512 (ofBytes (s.loadBytes c.co (addr c) 64))
  issueFull { word := encTidset a n, wf := even a, reads := true } (fun c s => s.noLinkAt c.co .read 64 [addr c])
    (fun c s => match s.laneAccess c.co .read 64 (addr c) with
      | .error e => some { code := e, addr := BitVec.ofNat 64 (addr c) }
      | .ok _ => if (desc c s).valid then none else some { code := ENGINE_FAULT })
    (fun c s => (s.touch c.co .read (addr c)).updCo c.who.co fun co => { co with ttab := Sparse.set 0 co.ttab n.toNat (desc c s) })
    (fun _ s => s) s

/-- `tidget sD <- tN, j`. -/
def execTidget (j : BitVec 3) (d n : BitVec 6) (s : State) : Host.Outcome State Fault Refusal :=
  issue { word := encTidget j d n, wf := even d } (fun _ _ => none)
    (fun c s => s.updGr c.who fun g => g.setS2 d.toNat (BitVec.ofNat 64 (bits ((c.co.tensor? n.toNat).getD 0) (64 * j.toNat) 64))) s

/-! ### Accumulators (17 R243, R244; 07 R122) -/

/-- Initial side value m: −∞. -/
def negInf : Word := 0xFF800000#32

def Cohort.accElem (c : Cohort) (n r j : Nat) : Word := Sparse.get 0 c.accE (4096 * n + 64 * r + j)
def Cohort.setAccElem (c : Cohort) (n r j : Nat) (x : Word) : Cohort := { c with accE := Sparse.set 0 c.accE (4096 * n + 64 * r + j) x }
def Cohort.accSideM (c : Cohort) (n r : Nat) : Word := Sparse.get negInf c.accM (64 * n + r)
def Cohort.accSideL (c : Cohort) (n r : Nat) : Word := Sparse.get 0 c.accL (64 * n + r)

/-- Names n to n + k − 1 as a mask. -/
def names (n k : Nat) : Word := BitVec.ofNat 32 (2 ^ (n + k) - 2 ^ n)

/-- The names are granted, every handle in its initial state. -/
def Cohort.grantAcc (c : Cohort) (n k : Nat) : Cohort :=
  { c with
    aheld := c.aheld ||| names n k
    accE := c.accE.filter fun p => !(decide (4096 * n ≤ p.1) && decide (p.1 < 4096 * (n + k)))
    accM := c.accM.filter fun p => !(decide (64 * n ≤ p.1) && decide (p.1 < 64 * (n + k)))
    accL := c.accL.filter fun p => !(decide (64 * n ≤ p.1) && decide (p.1 < 64 * (n + k))) }

/-- Handles of a cell that are held: those of its cohorts that are not saved. -/
def State.accUsed (s : State) (cell : Nat) : Nat :=
  ((s.cohorts.filter fun c => s.engCell c == cell).map fun c => match c.status with
    | .saved _ _ => 0
    | _ => (lanesOf c.aheld).length).sum

/-- A halt that ends in a save with STOP n (21 R300). -/
def State.startSave (s : State) (co n : Nat) : State :=
  match s.cohort? co with
  | none => s
  | some c => if c.status = .resident then (s.haltCohort co none).updCo co fun c => { c with status := .saving n none } else s

/-- Static checks of `aalloc` and `afree`: bit 5 of N clear, c from 1 to 32, N + c at most 32. -/
def accWf (n c : BitVec 6) : Bool := decide (n.toNat < 32) && c != 0 && decide (c.toNat ≤ 32) && decide (n.toNat + c.toNat ≤ 32)

/-- `aalloc aN, c`: the split waits for the grant. -/
def execAalloc (n k : BitVec 6) (s : State) : Host.Outcome State Fault Refusal :=
  issue { word := encAalloc n k, wf := accWf n k, noHandler := true, hold := true }
    (fun c _ => if c.co.aheld &&& names n.toNat k.toNat != 0 then some { code := ENGINE_FAULT } else none)
    (fun c s => s.updSp c.who fun x => { x with wait := .aalloc n.toNat k.toNat }) s

/-- A matrix command of the cohort names the handle and has not completed (17 R244). -/
def State.accBusy (s : State) (co n : Nat) : Bool :=
  s.cmds.any fun m => m.eng == .matrix && m.co == some co && (m.acc == n || (m.fn == 1 && m.oh == n))

/-- `afree aN, c`: waits for the commands that name the handles, then releases the names. -/
def execAfree (n k : BitVec 6) (s : State) : Host.Outcome State Fault Refusal :=
  let held (c : Ctx) : Bool := c.co.aheld &&& names n.toNat k.toNat == names n.toNat k.toNat
  issueFull { word := encAfree n k, wf := accWf n k, noHandler := true, why := .engine }
    (fun c s => held c && (List.range k.toNat).any fun i => s.accBusy c.who.co (n.toNat + i))
    (fun c _ => if held c then none else some { code := ENGINE_FAULT })
    (fun c s => s.updCo c.who.co fun co => { co with aheld := co.aheld &&& ~~~(names n.toNat k.toNat) })
    (fun _ s => s) s

/-- A request for handles: cohort, split, names. -/
def State.accReqs (s : State) (cell : Nat) : List (Cohort × Who × Nat × Nat) :=
  (s.cohorts.filter fun c => s.engCell c == cell && c.status == .resident).flatMap fun c =>
    (c.groups.zipIdx).flatMap fun p => (p.1.splits.zipIdx).filterMap fun q => match q.1.live, q.1.wait with
      | true, .aalloc n k => some (c, ⟨c.id, p.2, q.2⟩, n, k)
      | _, _ => none

/-- `ACCUMULATOR_GRANT` (07 R122): the oldest request is granted when enough handles are free; while it cannot be, the
youngest younger holder is pre-empted, and when its save has ended the next. -/
def execAccumulatorGrant (cell : Nat) (s : State) : Host.Outcome State Fault Refusal :=
  .next (
    let rs := s.accReqs cell
    match rs.find? fun r => rs.all fun q => !(q.1.older r.1) with
    | none => s
    | some (c, w, n, k) =>
      if c.aheld &&& names n k ≠ 0 then { s with stalled := [] }.updSp w fun x => { x with wait := .none }
      else if k ≤ 32 - s.accUsed cell then
        ({ s with stalled := [] }.updCo c.id fun c => c.grantAcc n k).updSp w fun x => x.next
      else
        let hs := s.cohorts.filter fun d => s.engCell d == cell && d.aheld != 0 && c.older d
        if hs.any fun d => match d.status with
          | .saving _ _ => true
          | _ => false then s
        else
          let rs := hs.filter fun d => d.status == .resident
          match rs.find? fun d => rs.all fun e => !(d.older e) with
          | none => s
          | some d => s.startSave d.id 4)

/-- The value `aget` reads: kind 0 element, 1 m, 2 l; from the image of s[sb] (17 R244). -/
def Cohort.agetVal (c : Cohort) (kind : Nat) (x : Word) (l : Nat) : Word :=
  let n := bits x 0 5
  let h := bits x 11 1
  if kind = 0 then c.accElem n (bits x 5 6) (32 * h + l) else if kind = 1 then c.accSideM n (32 * h + l) else c.accSideL n (32 * h + l)

/-- The registers that an `aget` fills. -/
def Cohort.agetVals (c : Cohort) (kind d : Nat) (x m : Word) : Sparse Word :=
  (lanesOf m).map fun l => (32 * d + l, c.agetVal kind x l)

/-- An `aget` word. -/
def agetWord (word kind : Nat) (y : AG) (s : State) : Host.Outcome State Fault Refusal :=
  let d := 64 * y.h.toNat + y.sa.toNat
  let q : Req := { word := word, vr := [d], vw := [d], guard := true, look := y.l.toNat }
  issue q
    (fun c _ =>
      let x := c.gr.getS y.sb.toNat
      if !c.co.aheld.getLsbD (bits x 0 5) || bits x 12 20 != 0 || (kind != 0 && bits x 5 6 != 0) then some { code := ENGINE_FAULT } else none)
    (fun c s =>
      let x := c.gr.getS y.sb.toNat
      let ok := !s.accBusy c.who.co (bits x 0 5)
      s.updGr c.who fun g => g.result c.who.si { c.window q d 1 c.partH with
        ready := ok, addrs := [(0, x.setWidth 64)], vals := if ok then c.co.agetVals kind d x c.partH else [] }) s

/-- `aget.acc.b32` (17 R244). -/
def execAgetAcc (y : AG) (s : State) : Host.Outcome State Fault Refusal := agetWord (encAgetAcc y) 0 y s

/-- `aget.m.f32` (17 R244). -/
def execAgetM (y : AG) (s : State) : Host.Outcome State Fault Refusal := agetWord (encAgetM y) 1 y s

/-- `aget.l.f32` (17 R244). -/
def execAgetL (y : AG) (s : State) : Host.Outcome State Fault Refusal := agetWord (encAgetL y) 2 y s

/-- The value of a window has come. -/
def Split.fill (x : Split) (ord : Nat) (vals : Sparse Word) : Split :=
  { x with windows := x.windows.map fun (y : Window) => if y.ord = ord then { y with ready := true, re := false, vals := vals } else y }

/-- The chain at a PC carries B8: its hints are fetched again (21 R308). -/
def State.chainB8 (s : State) (c : Cohort) : Nat → VAddr → Bool
  | 0, _ => false
  | n + 1, pc => match s.fetch c pc with
    | .error _ => false
    | .ok w => if bits w 25 7 ≠ 0x3F then false else if bits w 22 3 = 1 then bit w 16 else s.chainB8 c n (pc + 4)

/-- The address of the word that a chain leads to (05 R62). -/
def State.chainTarget (s : State) (c : Cohort) : Nat → VAddr → VAddr
  | 0, pc => pc
  | n + 1, pc => match s.fetch c pc with
    | .error _ => pc
    | .ok w => if bits w 25 7 = 0x3F then s.chainTarget c n (pc + 4) else pc

/-- SC and ordered operations of an atomic marked for re-issue are requested again (25 R347), under a new order. -/
def State.reissueAtom (s : State) (c : Ctx) (v : Window) (scope op : Nat) (as : List LaneAt) : State :=
  let x := c.sp.nextOrd
  let kinds : Nat := (if 14 ≤ op ∧ s.kindOn c.co.die 3 then 1 else 0) + if c.co.ordered ∧ s.kindOn c.co.die 4 then 1 else 0
  let s1 := as.foldl (fun (s : State) p => s.holdOp c scope op v.dst.toNat (s.keyAt c.co (if op = 12 then .read else .write) p.2) p.2 p.1 x)
    (s.logReserve c.co.die (kinds * as.length : Nat))
  s1.updSp c.who fun y => { y with windows := y.windows.map fun (u : Window) =>
    if u.ord = v.ord then { u with re := false, ready := false, ord := x } else u }

/-- No instruction of the split has issued after that of a window (05 R75): the split stands at the next word, or at the next
repetition of the same. -/
def Window.first (v : Window) (target : VAddr) (x : Split) : Bool :=
  x.past == (target + 4, 0) || x.past == (v.pc, v.pos + 1)

/-- A long-latency instruction faults before any later instruction has issued: the resume point is the instruction, and no window is kept
(05 R75). -/
def State.faultFirst (s : State) (c : Ctx) (v : Window) (t : Trap) : State :=
  (s.updSp c.who fun x => { x with windows := x.windows.filter fun (y : Window) => y.ord != v.ord }).raise
    { c with sp := { c.sp with pc := v.pc, pos := v.pos, chain := [] }, h := {} } v.word.toNat t

/-- A long-latency instruction faults after later instructions have issued: the resume point is the first not issued (21 R294). -/
def State.faultLater (s : State) (c : Ctx) (v : Window) (t : Trap) : State :=
  s.raise { c with sp := { c.sp with pos := v.pos }, h := {} } v.word.toNat { t with after := true }

/-- A marked instruction is issued again with the operands of its window (05 R75; 21 R308): a load reads anew or faults, an SC atomic
is requested anew; `aget` and `sred.get` wait for their results. One that would fault keeps its mark while its group holds a
trap (log entry 62). -/
def State.reissue (s : State) (w : Who) (v : Window) : State :=
  match { s with focus := some w }.ctx? with
  | none => s
  | some c =>
    let major := bits v.word 25 6
    if major = 0x2E ∨ major = 0x3B then
      s.updSp w fun x => { x with windows := x.windows.map fun (y : Window) => if y.ord = v.ord then { y with re := false, ready := false } else y }
    else
      let scr := major == 0x32
      let wd := mWidth (bits v.word 6 2) (s.chainB8 c.co 8 v.pc)
      let as : List LaneAt := (lanesOf v.pmask).map fun l => (l, (Sparse.get 0 v.addrs l).toNat)
      let sas : List (Nat × Int) := as.map fun p => (p.1, (p.2 : Int))
      let op := bits v.word 4 4
      match if scr then orTrap (scratchCheck c.co wd sas) (scratchSpoilt c.co wd sas)
        else if major = 0x35 then s.gcheck c.co (if op = 12 then .read else .write) (atomWidth op) as else s.gcheck c.co .read wd as with
      | some t =>
        let at_ := s.chainTarget c.co 8 v.pc
        if (!c.sp.handler ∧ c.gr.trap.isSome) ∨ c.gr.pend.isSome then s
        else if v.vals.isEmpty && v.first at_ c.sp then s.faultFirst c v { t with pc := some at_ }
        else s.faultLater c v { t with pc := some at_ }
      | none =>
        if major = 0x35 then s.reissueAtom c v (bits v.word 22 3) op as else
        let s1 := if scr then s else as.foldl (fun (s : State) p => s.touch c.co .read p.2) s
        s1.updSp w fun x => x.fill v.ord (s1.loadVals c.co scr wd v.nreg v.dst.toNat as)

/-- A result that has come is written, and its window closes (05 R72); for `sred.get` and `aget`, first the result is
looked for; an instruction marked for re-issue is issued again, in order (05 R75). A `sred.get` that waits while the set's next `xpand`
discards its expansion waits for the new one's values, since R280 gives it none of the old (DESIGN CHOICE, log entry 160). -/
def execResultWriteback (w : Who) (ord : Nat) (s : State) : Host.Outcome State Fault Refusal :=
  .next (match s.cohort? w.co, s.group? w.co w.gi with
    | some c, some g =>
      match (g.splits[w.si]?).bind fun x => x.windows.find? fun v => v.ord == ord with
      | none => s
      | some v =>
        if v.saved then s
        else if v.re then
          if c.status == .resident && !s.stopped c && !v.under &&
              !((g.splits[w.si]?).any fun x => x.windows.any fun y => y.re && !y.under && decide (y.ord < ord)) then
            let s1 := s.reissue w v
            if s1 = s then s else { s1 with stalled := [] }
          else s
        else if v.ready then
          if v.left = 0 then { s with stalled := [] }.updGr w fun g => g.closeReady w.si fun y => y.ord == ord else s
        else if bits v.word 25 6 = 0x2E then
          match (c.setOf g.index).bind (·.exp) with
          | none => s
          | some e => if e.isOver then { s with stalled := [] }.updSp w fun x => x.fill ord (e.results g.index v.pmask v.dst.toNat) else s
        else if bits v.word 25 6 = 0x3B then
          let x : Word := (Sparse.get 0 v.addrs 0).setWidth 32
          if s.accBusy w.co (bits x 0 5) then s
          else { s with stalled := [] }.updSp w fun y => y.fill ord (c.agetVals (bits v.word 23 2) v.dst.toNat x v.pmask)
        else s
    | _, _ => s)

/-! ### FIFO claims (17 R245) -/

/-- `fclaim sB`: waits while another cohort holds the claim, or the bank is about to change its mode (13 R185). -/
def execFclaim (b : BitVec 6) (s : State) : Host.Outcome State Fault Refusal :=
  let bank (c : Ctx) : Nat := (c.gr.getS b.toNat).toNat
  let bad (c : Ctx) (s : State) : Bool := match s.clusterOf c.co with
    | none => true
    | some k => decide (63 < bank c) || s.bankMode k (bank c) != 2
  issueFull { word := encFclaim b, noHandler := true, why := .engine }
    (fun c s => !bad c s && ((s.clusterOf c.co).any fun k => match (s.fifo k (bank c)).owner with
      | some o => o != c.who.co
      | none => (s.cluster k).change.any fun p => p.1 == bank c))
    (fun c s => if bad c s then some { code := ENGINE_FAULT } else none)
    (fun c s => match s.clusterOf c.co with
      | none => s
      | some k => if c.co.fifos.contains (bank c) then s
        else (s.setFifo k (bank c) { owner := some c.who.co }).updCo c.who.co fun co => { co with fifos := co.fifos ++ [bank c] })
    (fun _ s => s) s

/-- The cohort has claimed the bank of a ring tensor. -/
def Cohort.claims (c : Cohort) (t : Desc) : Bool := t.loc != 2 || c.fifos.contains t.bank

/-! ### Issue checks shared by the commands (17 R239, R241, R253) -/

/-- SCRATCH_BOUNDS with the lowest offset at fault of the scratch tensors named (17 R241). -/
def scratchTensors (z : Nat) (ts : List Desc) : Option Trap :=
  match ts.filterMap fun t => t.scratchBad z with
  | [] => none
  | o :: l => some { code := SCRATCH_BOUNDS, addr := BitVec.ofInt 64 (l.foldl min o) }

/-- SCRATCH_BOUNDS for a barrier word outside the window (17 R239). -/
def arrivalTrap (z : Nat) (arv : Bool) (off : Nat) : Option Trap :=
  if arv && decide (z < off + 4) then some { code := SCRATCH_BOUNDS, addr := BitVec.ofNat 64 off } else none

/-- The parameter block of a command (17 Table 17.5). -/
structure Params where
  p0 : Word
  p1 : Word
  crec : BitVec 64
  deriving DecidableEq, Repr

def Ctx.params (c : Ctx) (b : BitVec 6) : Params :=
  { p0 := c.gr.getS b.toNat, p1 := c.gr.getS (b.toNat + 1), crec := c.gr.getS2 (b.toNat + 2) }

def Params.td (p : Params) : Nat := bits p.p0 0 6
def Params.ts (p : Params) : Nat := bits p.p0 6 6
def Params.tx (p : Params) : Nat := bits p.p0 12 6

/-- CREC is a multiple of 16 below 2^56. -/
def Params.crecOk (p : Params) : Bool := p.crec.toNat % 16 == 0 && decide (p.crec.toNat < 2 ^ 56)

/-- A word of majors 0x38, 0x39 and 0x3D: `bad` is its ENGINE_FAULT, `trap` a trap of its own after it, `uses` the tensors it
names (destination, source, index), `also` what its issue does beside making the command. -/
def engineWord (word : Nat) (wf : Bool) (b : BitVec 6) (eng : Engine) (fn : Nat) (bad : Ctx → Params → Bool)
    (trap : Ctx → State → Params → Option Trap) (uses : Params → Option Nat × Option Nat × Option Nat)
    (also : Ctx → State → State) (mk : Ctx → Cmd → Cmd) (s : State) : Host.Outcome State Fault Refusal :=
  let get (c : Ctx) (o : Option Nat) : Desc := (o.bind c.co.tensor?).getD 0
  issueFull { word := word, wf := wf && b.toNat % 4 == 0 } (fun c s => s.queueFull c.co eng.queue)
    (fun c s =>
      let p := c.params b
      if bad c p || !p.crecOk then some { code := ENGINE_FAULT }
      else match trap c s p with
        | some t => some t
        | none =>
          let (d, so, x) := uses p
          match scratchTensors c.co.z ([d, so, x].filterMap fun o => o.bind c.co.tensor?) with
          | some t => some t
          | none => arrivalTrap c.co.z (bit p.p0 18) (4 * bits p.p0 20 12))
    (fun c s =>
      let p := c.params b
      let (d, so, x) := uses p
      let m0 : Cmd := { id := 0, eng := eng, fn := fn, co := none, launch := none, root := c.co.root }
      (also c s).addCmd c word (mk c { m0 with
        p0 := p.p0, p1 := p.p1, td := get c d, ts := get c so, tx := get c x, crec := p.crec.extractLsb' 0 56 }))
    (fun _ s => s) s

/-! ### Copy (17 R254) -/

/-- ENGINE_FAULT of a copy of descriptors: extents, scale modes, claims. -/
def copyBad (td ts : Desc) : Bool :=
  td.ndim != ts.ndim || td.exts != ts.exts || td.scm == 4 || ts.scm == 4 || (td.scm != 0 && td.fmt != ts.fmt)

/-- `copy sB`. -/
def execCopy (b : BitVec 6) (s : State) : Host.Outcome State Fault Refusal :=
  engineWord (encCopy b) true b .copy 0
    (fun c p => p.tx != 0 || p.p1 != 0 || (match c.co.tensor? p.td, c.co.tensor? p.ts with
      | some d, some t => copyBad d t || !c.co.claims d || !c.co.claims t
      | _, _ => true))
    (fun _ _ _ => none) (fun p => (some p.td, some p.ts, none)) (fun _ s => s) (fun _ m => m) s

/-- `copy.zero sB`. -/
def execCopyZero (b : BitVec 6) (s : State) : Host.Outcome State Fault Refusal :=
  engineWord (encCopyZero b) true b .copy 1
    (fun c p => p.tx != 0 || p.ts != 0 || p.p1 != 0 || (match c.co.tensor? p.td with
      | some d => d.scm == 4 || !c.co.claims d
      | none => true))
    (fun _ _ _ => none) (fun p => (some p.td, none, none)) (fun _ s => s) (fun _ m => m) s

/-- A value as the bits of a format, rounded once to nearest even; a scaled value and FP4's extra value go this way. -/
def fromValue (dt : Nat) (v : FVal) : Nat :=
  match intType dt with
  | some (sg, w) => ((v.toInt 0 sg w) % (2 ^ w : Nat)).toNat
  | none => match floatType dt with
    | some f => f.round 0 false v
    | none => if dt = 11 then toD8 v false else toFp4 v

/-- The destination bits of one element (17 R254). -/
def State.copyConv (s : State) (m : Cmd) (ix : List Nat) (x : Nat) : Except EFault Nat :=
  let td : Desc := m.td
  let ts : Desc := m.ts
  if td.fmt = ts.fmt ∧ (m.eng ≠ .coll ∨ ts.scm = 0) then .ok x
  else if ts.scm = 0 then .ok (if ts.fmt = 12 ∧ x % 16 = 8 then fromValue td.fmt (ts.value x) else convert td.fmt ts.fmt 0 false false x)
  else (s.scaled m ts ix x).map (fromValue td.fmt)

/-- The cluster whose FIFO banks a command uses. -/
def State.cmdCluster (s : State) (m : Cmd) : Nat := (((s.cmdCo m).bind s.clusterOf)).getD 0

/-- Elements of w bits in one FIFO entry. -/
def perEntry (w : Nat) : Nat := 1024 / w

/-- Pop n entries. -/
def State.popFifo (s : State) (k bank n : Nat) : State :=
  let f := s.fifo k bank
  s.setFifo k bank { f with entries := f.entries.drop n }

/-- The source bits of elements k, k + 1, …, n of them, or none while a ring lacks entries. -/
def State.copySource (s : State) (m : Cmd) (k n : Nat) : Option (Except EFault (List Nat)) :=
  let td : Desc := m.td
  let ts : Desc := m.ts
  if m.fn = 1 then some (.ok (List.replicate n 0))
  else if ts.loc = 2 then
    let per := perEntry ts.w
    let es := (s.fifo (s.cmdCluster m) ts.bank).entries
    if es.length < (k % per + n + per - 1) / per then none
    else some ((List.range n).mapM fun i => s.copyConv m (td.index (k + i)) (streamElem es ts.w (k % per + i)))
  else some ((List.range n).mapM fun i =>
    let ix := td.index (k + i)
    match s.elemRaw m ts ix with
    | .ok x => s.copyConv m ix x
    | .error e => .error e)

/-- A ring source's entries go once their last element is used. -/
def State.copyPop (s : State) (m : Cmd) (k n : Nat) : State :=
  let ts : Desc := m.ts
  let td : Desc := m.td
  if m.fn = 1 ∨ ts.loc ≠ 2 then s
  else
    let per := perEntry ts.w
    s.popFifo (s.cmdCluster m) ts.bank (if k + n = td.count then (k % per + n + per - 1) / per else (k % per + n) / per)

/-- Bytes of elements of w bits. -/
def packElems (w : Nat) (xs : List Nat) : List Byte :=
  bytesOf ((xs.length * w + 7) / 8) (xs.zipIdx.foldl (fun a p => a + p.1 % 2 ^ w * 2 ^ (w * p.2)) 0)

/-- CPPROG after elements k were written: those written beyond it are kept in `ahead`. -/
def progress : Nat → Nat → List Nat → Nat × List Nat
  | 0, p, l => (p, l)
  | n + 1, p, l => if l.contains p then progress n (p + 1) (l.erase p) else (p, l)

/-- One unit of a copy: one entry of a ring destination; one element, whose place in the order is free, of any other; in
stream order from a ring source. -/
def State.copyRun (s : State) (m : Cmd) : State :=
  let td : Desc := m.td
  let ts : Desc := m.ts
  let p := m.prog.toNat
  let total := td.count
  if total ≤ p then s.updCmd m.id fun m => { m with done := true }
  else if td.loc = 2 then
    let n := min (perEntry td.w) (total - p)
    let k := s.cmdCluster m
    match s.copySource m p n with
      | none => s
      | some (.error e) => s.cmdFault m e
      | some (.ok xs) =>
        let s1 := (if m.fn = 1 ∨ ts.loc = 2 then s else (List.range n).foldl (fun (s : State) i => s.keepElem m ts (td.fmt != ts.fmt) (td.index (p + i))) s).copyPop m p n
        if 512 ≤ (s1.fifo k td.bank).entries.length then s
        else (s1.setFifo k td.bank ((s1.fifo k td.bank).push (packElems td.w xs))).updCmd m.id fun m =>
            { m with prog := BitVec.ofNat 48 (p + n), done := decide (p + n = total) }
  else
    let ring := m.fn = 0 ∧ ts.loc = 2
    let (f, s0) := if ring then (0, s) else s.draw
    let j := p + f % (total - p)
    let e := if ring ∨ m.ahead.contains j then p else j
    match s0.copySource m e 1 with
    | none => s
    | some (.error x) => s0.cmdFault m x
    | some (.ok xs) => match (if ring ∨ m.fn = 1 then s0 else s0.keepElem m ts (td.fmt != ts.fmt) (td.index e)).putElem m td (td.index e) (xs.headD 0) with
      | .error x => s0.cmdFault m x
      | .ok s1 =>
        let (p', l) := progress (m.ahead.length + 1) p (e :: m.ahead)
        (s1.copyPop m e 1).updCmd m.id fun m => { m with prog := BitVec.ofNat 48 p', ahead := l, done := decide (p' = total) }

/-- The class bit of an engine (15 R230). -/
def Engine.bit : Engine → Nat
  | .copy => 1
  | .matrix => 2
  | .gather => 3
  | .coll => 4

/-- A split of the group that issued a command waits in an `xfence` issued before it, which has the command's class among the
later ones (15 R230). -/
def State.fencedOff (s : State) (m : Cmd) : Bool := ((m.co.bind fun co => s.group? co m.gi).any fun g => g.splits.any fun x =>
  x.live && match x.wait with
    | .xfence _ bound _ b => decide (bound ≤ m.id) && b.getLsbD m.eng.bit
    | _ => false)

/-- A command can do work: not stopped, not done, behind no `xfence`, its cohort not saved, nor held with a fault that waits for
its service. -/
def State.cmdRuns (s : State) (m : Cmd) : Bool := !m.stopped && !m.done && !s.fencedOff m && (match m.co with
  | none => true
  | some co => match s.cohort? co with
    | none => false
    | some c => match c.status with
      | .saved _ _ => m.eng == .coll
      | .held => !s.cmds.any fun k => k.co == some co && k.fault.isSome
      | _ => true)

/-- `COPY_ENGINE_RUN`: a copy engine does one unit of a copy (17 R254). -/
def execCopyEngineRun (id : Nat) (s : State) : Host.Outcome State Fault Refusal :=
  .next (match s.cmd? id with
    | none => s
    | some m => if m.eng = .copy ∧ s.cmdRuns m = true then s.copyRun m else s)

/-! ### Gather and scatter (17 R255) -/

/-- ENGINE_FAULT of gather and scatter descriptors; a ring tensor has no element numbers here (log entry 22). TX is `.n32` or
`.n64` (R255), of which Table 17.1 lets no valid descriptor have the second. -/
def gatherBad (fn : Nat) (td ts tx : Desc) : Bool :=
  !(tx.fmt == 5 || tx.fmt == 7) || tx.ndim != 1 || td.fmt != ts.fmt || td.ext 0 != ts.ext 0 || td.scm == 4 || ts.scm == 4 ||
  [td, ts].any (fun t => (decide (2 < t.ndim) && t.ext 2 != 1) || (decide (3 < t.ndim) && t.ext 3 != 1)) ||
  [td, ts, tx].any (fun t => t.loc == 2) || (fn == 2 && !(td.fmt == 4 || td.fmt == 8))

/-- A gather or scatter word. -/
def gatherWord (word : Nat) (b : BitVec 6) (fn : Nat) (s : State) : Host.Outcome State Fault Refusal :=
  engineWord word true b .gather fn
    (fun c p => p.p1 != 0 || (match c.co.tensor? p.td, c.co.tensor? p.ts, c.co.tensor? p.tx with
      | some d, some t, some x => gatherBad fn d t x
      | _, _, _ => true))
    (fun _ _ _ => none) (fun p => (some p.td, some p.ts, some p.tx)) (fun _ s => s) (fun _ m => m) s

/-- `gather sB` (17 R255). -/
def execGather (b : BitVec 6) (s : State) : Host.Outcome State Fault Refusal := gatherWord (encGather b) b 0 s

/-- `scatter sB` (17 R255). -/
def execScatter (b : BitVec 6) (s : State) : Host.Outcome State Fault Refusal := gatherWord (encScatter b) b 1 s

/-- `scatter.add sB` (17 R255). -/
def execScatterAdd (b : BitVec 6) (s : State) : Host.Outcome State Fault Refusal := gatherWord (encScatterAdd b) b 2 s

/-- The index of a row: dimensions 2 and 3 at 0. -/
def rowIx (i j : Nat) : List Nat := [i, j]

/-- The bits of a row; an element outside the extents reads as +0. -/
def State.rowBits (s : State) (m : Cmd) (t : Desc) (j n : Nat) : Except EFault (List Nat) :=
  (List.range n).mapM fun i => if t.inside (rowIx i j) then s.elemRaw m t (rowIx i j) else .ok 0

/-- A device-scope reduction of one element at its home slice (13 R196), or at the scratch bank. -/
def State.reduceElem (s : State) (m : Cmd) (t : Desc) (ix : List Nat) (x : Nat) : Except EFault State :=
  let a := t.byteAt (t.number ix)
  let op := if t.fmt = 4 then 9 else 10
  if t.loc = 1 then
    match s.cmdCo m with
    | none => .error (SCRATCH_BOUNDS, BitVec.ofInt 64 a)
    | some _ => .ok (s.updCo (m.co.getD 0) fun c => (c.atomScratch a.toNat op (BitVec.ofNat 64 x) 0).2)
  else match s.cmdXlate m a .write with
    | .error e => .error e
    | .ok p => if isHostKey p.key then .error (PROTECTION, BitVec.ofInt 64 a) else .ok (((s.cmdTlbFill m p).send (s.cmdUnit m) p.key (s.vdTag m.root) (.atom op (BitVec.ofNat 64 x) 0)).2)

/-- Write a row inside the extents. -/
def State.writeRow (s : State) (m : Cmd) (t : Desc) (j : Nat) (xs : List Nat) : Except EFault State :=
  (xs.zipIdx).foldlM (fun s p => if !t.inside (rowIx p.2 j) then .ok s
    else if m.fn = 2 then s.reduceElem m t (rowIx p.2 j) p.1 else s.putElem m t (rowIx p.2 j) p.1) s

/-- Row j of a gather, scatter or scatter.add. -/
def State.gatherRow (s : State) (m : Cmd) (j : Nat) : Except EFault State :=
  let td : Desc := m.td
  let ts : Desc := m.ts
  match s.elemRaw m m.tx [j] with
  | .error e => .error e
  | .ok idx =>
    let bound := if m.fn = 0 then ts.ext 1 else td.ext 1
    if bound ≤ idx then .error (ENGINE_FAULT, 0)
    else
      let (sj, dj) := if m.fn = 0 then (idx, j) else (j, idx)
      match s.rowBits m ts sj (ts.ext 0) with
      | .error e => .error e
      | .ok xs => ((List.range (ts.ext 0)).foldl (fun (s : State) i => s.keepElem m ts false (rowIx i sj)) (s.keepElem m m.tx false [j])).writeRow m td dj xs

/-- `GATHER_UNIT_RUN`: the gather unit commits one row (17 R255). -/
def execGatherUnitRun (id : Nat) (s : State) : Host.Outcome State Fault Refusal :=
  .next (match s.cmd? id with
    | none => s
    | some m =>
      let tx : Desc := m.tx
      if m.eng ≠ .gather ∨ s.cmdRuns m = false then s
      else
        let j := m.prog.toNat
        if tx.ext 0 ≤ j then s.updCmd id fun m => { m with done := true }
        else match s.gatherRow m j with
          | .error e => s.cmdFault m e
          | .ok s1 => s1.updCmd id fun m => { m with prog := BitVec.ofNat 48 (j + 1), done := decide (j + 1 = tx.ext 0) })

/-! ### Collectives (17 R256, R257) -/

/-- ENGINE_FAULT of a collective's descriptors, OPT word and members (17 Tables 17.6 to 17.8). -/
def collBad (fn : Nat) (td ts : Desc) (opt : Word) (np : Nat) : Bool :=
  let fmtOk (t : Desc) : Bool := t.fmt == 8 || t.fmt == 9 || t.fmt == 10 || t.fmt == 4
  let rest (a b : Desc) : Bool := a.ndim == b.ndim && a.ext 0 == b.ext 0 && a.ext 2 == b.ext 2 && a.ext 3 == b.ext 3
  td.loc != 0 || ts.loc != 0 || td.scm != 0 || ts.scm == 4 || !fmtOk td || !fmtOk ts ||
  (match fn with
   | 1 => !(rest ts td && ts.ext 1 == np * td.ext 1)
   | 2 => !(rest ts td && td.ext 1 == np * ts.ext 1)
   | _ => td.ndim != ts.ndim || td.exts != ts.exts) ||
  bits opt 3 13 != 0 || (if fn = 3 then decide (np ≤ bits opt 16 16) else bits opt 16 16 != 0) ||
  (if fn ≤ 1 then decide (2 < bits opt 0 3) else bits opt 0 3 != 0)

/-- A group descriptor breaks 17 Table 17.6. An odd MEMB, which the table does not forbid, is refused with ENGINE_FAULT as well: the
member entries are 16-bit words (DESIGN CHOICE, log entry 155). -/
def groupBad (g : Nat) : Bool :=
  let np := fget g 0 16
  decide (np < 2) || decide (20480 < np) || decide (np ≤ fget g 16 16) || fget g 32 32 != 0 || fget g 120 8 != 0 ||
  fget g 192 320 != 0 || fget g 64 56 % 2 != 0

/-- Read the group descriptor of a collective as the engine does, with the fault of its read or of the addition to COUNT. -/
def State.groupDesc (s : State) (r : Root) (a : Nat) : Except EFault Nat :=
  let m : Cmd := { id := 0, eng := .coll, fn := 0, co := none, launch := none, root := r }
  match s.cmdXlate m a .write with
  | .error e => .error e
  | .ok p => .ok (s.homeRead p.key 64)

/-- A collective word. -/
def collWord (word : Nat) (b g : BitVec 6) (fn : Nat) (s : State) : Host.Outcome State Fault Refusal :=
  let ga (c : Ctx) : Nat := (c.gr.getS2 g.toNat).toNat
  let probe (c : Ctx) : Cmd := { id := 0, eng := .coll, fn := fn, co := none, launch := none, root := c.co.root }
  engineWord word (even g) b .coll fn
    (fun c p => p.tx != 0 || ga c % 64 != 0 || (c.co.tensor? p.td).isNone || (c.co.tensor? p.ts).isNone)
    (fun c s p => match s.groupDesc c.co.root (ga c) with
      | .error e => some { code := e.1, addr := e.2 }
      | .ok x =>
        if groupBad x || collBad fn ((c.co.tensor? p.td).getD 0) ((c.co.tensor? p.ts).getD 0) p.p1 (fget x 0 16) then some { code := ENGINE_FAULT }
        else match s.cmdRead (probe c) (fget x 64 56 + 2 * fget x 16 16 : Nat) 2 with
          | .error e => some { code := e.1, addr := e.2 }
          | .ok n => if n = s.modNum then none else some { code := ENGINE_FAULT })
    (fun p => (some p.td, some p.ts, none))
    (fun c s => match s.groupDesc c.co.root (ga c) with
      | .error _ => s
      | .ok x => ((s.cmdKeep (probe c) (fget x 64 56 + 2 * fget x 16 16 : Nat)).cmdWrite (probe c) (ga c + 16 : Nat)
          (bytesOf 8 ((fget x 128 64 + 1) % 2 ^ 64))).toOption.getD s)
    (fun c m => { m with gdesc := BitVec.ofNat 56 (ga c) }) s

/-- `coll.allred sB, sG` (17 R256). -/
def execCollAllred (b g : BitVec 6) (s : State) : Host.Outcome State Fault Refusal := collWord (encCollAllred b g) b g 0 s

/-- `coll.redsc sB, sG` (17 R256). -/
def execCollRedsc (b g : BitVec 6) (s : State) : Host.Outcome State Fault Refusal := collWord (encCollRedsc b g) b g 1 s

/-- `coll.allgat sB, sG` (17 R256). -/
def execCollAllgat (b g : BitVec 6) (s : State) : Host.Outcome State Fault Refusal := collWord (encCollAllgat b g) b g 2 s

/-- `coll.bcast sB, sG` (17 R256). -/
def execCollBcast (b g : BitVec 6) (s : State) : Host.Outcome State Fault Refusal := collWord (encCollBcast b g) b g 3 s

/-- Minimum or maximum of two codes of a float format (09 R133): −0 below +0, a lone NaN gives the other. -/
def fmtMinMax (f : Fmt) (mx : Bool) (a b : Nat) : Nat :=
  let va := f.value a
  let vb := f.value b
  let less (x y : Nat) : Bool := (f.value x).lt (f.value y) || ((f.value x).eq (f.value y) && decide (f.signBit ≤ x) && decide (y < f.signBit))
  if va.isNan then (if vb.isNan then f.nanCode else b)
  else if vb.isNan then a else if (if mx then less a b else less b a) then b else a

/-- One combining step in a format (17 R257). -/
def collStep (fmt red a b : Nat) : Nat :=
  match floatType fmt with
  | some f => if red = 0 then f.round 0 false ((f.value a).add 0 (f.value b)) else fmtMinMax f (red == 2) a b
  | none =>
    let x : Word := BitVec.ofNat 32 a
    let y : Word := BitVec.ofNat 32 b
    (if red = 0 then x + y else if red = 1 then opMinS x y else opMaxS x y).toNat

/-- A member's elements of TS in TD's format, by element number with dimension 0 fastest. -/
def State.collData (s : State) (m : Cmd) : Except EFault (List Nat) :=
  let ts : Desc := m.ts
  (List.range ts.count).mapM fun k =>
    match s.elemRaw m ts (ts.index k) with
    | .error e => .error e
    | .ok x => s.copyConv m (ts.index k) x

/-- The flat number of an index in extents. -/
def flat (es ix : List Nat) : Nat := ((es.zip ix).foldl (fun (r : Nat × Nat) p => (r.1 + r.2 * p.2, r.2 * p.1)) (0, 1)).1

/-- The value of TD's element at an index, from every rank's data. -/
def collResult (fn : Nat) (td ts : Desc) (opt : Word) (rank : Nat) (data : List (List Nat)) (ix : List Nat) : Nat :=
  let at_ (r : Nat) (ix : List Nat) : Nat := (data.getD r []).getD (flat ((List.range ts.ndim).map ts.ext) ix) 0
  let fold (ix : List Nat) : Nat := (List.range data.length).tail.foldl (fun a r => collStep td.fmt (bits opt 0 3) a (at_ r ix)) (at_ 0 ix)
  match fn with
  | 0 => fold ix
  | 1 => fold (ix.set 1 (ix.getD 1 0 + rank * td.ext 1))
  | 2 => at_ (ix.getD 1 0 / max 1 (ts.ext 1)) (ix.set 1 (ix.getD 1 0 % max 1 (ts.ext 1)))
  | _ => at_ (bits opt 16 16) ix

/-- The members' commands match (17 R256). -/
def peerMatches (m : Cmd) (p : Peer) : Bool :=
  let td : Desc := m.td
  let ts : Desc := m.ts
  p.fn == m.fn && p.opt == m.p1 && p.fmt == td.fmt && p.exts == ts.exts

/-- `COLLECTIVE_ENGINE_RUN`: with what the other members bring, the collective is performed (17 R256, R257); while a
member is missing it waits. -/
def execCollectiveEngineRun (id : Nat) (peers : List Peer) (s : State) : Host.Outcome State Fault Refusal :=
  .next (match s.cmd? id with
    | none => s
    | some m =>
      let td : Desc := m.td
      let ts : Desc := m.ts
      if m.eng ≠ .coll ∨ s.cmdRuns m = false then s
      else match s.cmdRead m m.gdesc.toNat 4 with
        | .error e => s.cmdFault m e
        | .ok x =>
          let np := fget x 0 16
          let rank := fget x 16 16
          if !s.linkUp then s.cmdFault m (ECC_UNCORRECTED, 0)
          else if !((List.range np).all fun r => r == rank || peers.any fun p => p.rank == r) then s
          else if !(peers.all fun p => p.rank == rank || peerMatches m p) then s.cmdFault m (ENGINE_FAULT, 0)
          else
            let skip := m.fn = 3 ∧ bits m.p1 16 16 ≠ rank
            match (if skip then .ok [] else s.collData m) with
            | .error e => s.cmdFault m e
            | .ok own =>
              let data := (List.range np).map fun r => if r = rank then own
                else ((peers.find? fun p => p.rank == r).map fun p => p.data.map fun w => w.toNat).getD []
              let m1 := { m with prog := BitVec.ofNat 48 np }
              let s0 := (if skip then [] else List.range ts.count).foldl (fun (s : State) k => s.keepElem m ts (ts.fmt != td.fmt || ts.scm != 0) (ts.index k))
                (s.cmdKeep m m.gdesc.toNat)
              match (List.range td.count).foldlM (fun s k => State.putElem s m td (td.index k)
                  (collResult m.fn td ts m.p1 rank data (td.index k))) s0 with
              | .error e => (s0.updCmd id fun _ => m1).cmdFault m1 e
              | .ok s1 => s1.updCmd id fun m => { m with prog := BitVec.ofNat 48 np, done := true })

end Sys2Proof.Machine
end

