-- ==== Sys2Proof/Machine/Faceter.lean ====
section
/-! DEFINITION. The Faceter: headers, shares, shapes, tilings and costs (07.1 to 07.4), dispatch and placement (07.6), replay
(23.3). -/
namespace Sys2Proof.Machine

/-! ### The header check (07 R98) -/

/-- V(max) of 07 R100. -/
def hVmax (h : BitVec 1024) : Nat :=
  if hRoles h = 0 then 32 * min 16 (min (128 / max 1 (hRb h) * 32) 16) else 32 * hRoles h

/-- The reserved fields of Table 7.1 are 0. -/
def hReserved0 (h : BitVec 1024) : Bool :=
  [(24, 8), (120, 8), (246, 10), (304, 16), (368, 16), (624, 16), (675, 29), (736, 32), (888, 8), (952, 8), (1016, 8)].all
    fun p => hf h p.1 p.2 == 0

/-- The orders of a header are well formed: codes 1 to 4, none repeated, none after a zero, the first not zero. -/
def ordersOk (h : BitVec 1024) : Bool :=
  let os := (List.range 4).map (hOrd h)
  let used := os.takeWhile fun o => o != 0
  !used.isEmpty && used.all (fun o => decide (o ≤ 4)) && decide used.Nodup && (os.drop used.length).all fun o => o == 0

/-- A header that a Faceter accepts (07 R98). -/
def headerOk (h : BitVec 1024) : Bool :=
  let n := hNdim h
  hReserved0 h && hf h 16 8 == 1 && n != 0 && n != 7 &&
  (List.range n).all (fun i => hWid h i != 0 && decide (hEnvHi h i ≤ 9) && decide (hEnvLo h i ≤ hEnvHi h i) && decide (hEnvLo h i ≤ hWid h i)) &&
  decide (hSigma h ≤ 64) && hf h 128 64 / 2 ^ hSigma h == 0 &&
  ((List.range 6).drop n).all (fun i => hWid h i == 0 && hf h (256 + 8 * i) 8 == 0 && hHalo h i == 0 && hf h (384 + 32 * i) 32 == 0) &&
  ordersOk h && hWin h != 0 && hRb h != 0 && decide (hRb h ≤ 16) && [645, 650, 655].all (fun b => decide (hf h b 5 ≤ 16)) &&
  hEntry h % 4 == 0 && decide (hRoles h ≤ 16) && !(hRoles h == 0 && [645, 650, 655].any fun b => hf h b 5 != 0) &&
  decide (((List.range n).map fun i => 2 ^ hEnvLo h i).prod ≤ hVmax h) && decide (hFootprint h ≤ 2 ^ 20) &&
  !((hOrdered h || hReplay h) && decide (1 < (lanesOf (BitVec.ofNat 32 (hDmask h))).length)) && hDmask h != 0 &&
  !(hDict h && (hDictb h == 0 || hDictb h % 4096 != 0)) && !(hStrm h && decide (hChi h < hClo h))

/-! ### Shares and iterations (07 R95, R96) -/

/-- The dies of a launch, ascending. -/
def hDies (h : BitVec 1024) : List Nat := (List.range 4).filter fun d => hDmask h / 2 ^ d % 2 == 1

/-- The shares of a launch (07 R96). -/
def mkShares (h : BitVec 1024) : List Share :=
  let ds := hDies h
  let e := hExt h (hNdim h - 1)
  ds.zipIdx.map fun p =>
    let b := p.2 * e / ds.length
    { die := p.1, base := b, len := (p.2 + 1) * e / ds.length - b }

/-- Extents of a share, in share coordinates. -/
def shareExt (h : BitVec 1024) (sh : Share) : List Nat := (List.range (hNdim h)).map fun i => if i + 1 = hNdim h then sh.len else hExt h i

/-- Absolute coordinates of share coordinates. -/
def absCoord (sh : Share) (x : List Nat) : List Nat := x.set (x.length - 1) (x.getLastD 0 + sh.base)

/-- The IID of absolute coordinates. -/
def iidOf (h : BitVec 1024) (x : List Nat) : BitVec 64 := BitVec.ofNat 64 ((x.zipIdx.map fun p => p.1 * 2 ^ hOff h p.2).sum)

/-- Point k of a box of extents, dimension 0 fastest. -/
def pointAt (es : List Nat) (k : Nat) : List Nat := (es.foldl (fun (r : Nat × List Nat) e => (r.1 / max 1 e, r.2 ++ [r.1 % max 1 e])) (k, [])).2

/-- The points of a box. -/
def Box.points (b : Box) : List (List Nat) := (List.range b.ext.prod).map fun k => (pointAt b.ext k).zipWith (· + ·) b.org

/-- A point lies in a box. -/
def Box.has (b : Box) (x : List Nat) : Bool := (x.zip (b.org.zip b.ext)).all fun p => decide (p.2.1 ≤ p.1) && decide (p.1 < p.2.1 + p.2.2)

/-- The region of an IID (23 R329). -/
def regionOf (h : BitVec 1024) (a : BitVec 64) : Nat := (if 6 ≤ hSigma h then a.toNat / 2 ^ (hSigma h - 6) else a.toNat) % 64

/-- An iteration is undispatched: in no cut so far, and valid in a re-execution (23 R331). -/
def undisp (l : Launch) (sh : Share) (x : List Nat) : Bool :=
  !(sh.cuts.any fun b => b.has x) && (match l.rerun with
    | none => true
    | some m => m.getLsbD (regionOf l.hdr (iidOf l.hdr (absCoord sh x))))

/-- The undispatched iteration of lowest IID, from point k on. -/
def firstUndisp (l : Launch) (sh : Share) (es : List Nat) : Nat → Nat → Option (List Nat)
  | 0, _ => none
  | f + 1, k => if undisp l sh (pointAt es k) then some (pointAt es k) else firstUndisp l sh es f (k + 1)

/-! ### Shapes and tilings (07 R99 to R102) -/

/-- The envelope, ascending envelope index. -/
def envelope (h : BitVec 1024) : List (List Nat) :=
  let n := hNdim h
  let rs := (List.range n).map fun i => hEnvHi h i - hEnvLo h i + 1
  ((List.range rs.prod).map fun k => (pointAt rs k).zipIdx.map fun p => 2 ^ (hEnvLo h p.2 + p.1)).filter fun s => decide (s.prod ≤ hVmax h)

/-- Lists of naturals compared from the front. -/
def listGt : List Nat → List Nat → Bool
  | a :: s, b :: t => if a > b then true else if a = b then listGt s t else false
  | _, _ => false

/-- FirstShape (07 R101). -/
def firstShape (h : BitVec 1024) (sh : Share) : List Nat :=
  let es := shareExt h sh
  let lim (i : Nat) : Nat := max (2 ^ hEnvLo h i) (2 ^ Nat.log2 (max 1 (es.getD i 1 / 2)))
  let cand := (envelope h).filter fun s => s.zipIdx.all fun p => decide (p.1 ≤ lim p.2)
  cand.foldl (fun b s => if b.isEmpty || listGt (s.prod :: s) (b.prod :: b) then s else b) []

/-- The Morton key of grid coordinates. -/
def morton (g : List Nat) : Nat :=
  ((List.range 64).map fun b => (g.zipIdx.map fun p => p.1 / 2 ^ b % 2 * 2 ^ (b * g.length + p.2)).sum).sum

/-- The place of a tile in an order (07 Table 7.2), of shifted grid coordinates; `top` is the greatest g_0. -/
def orderKey (order top : Nat) (g : List Nat) : List Nat :=
  match order with
  | 2 => g
  | 3 => [morton g]
  | 4 => g.tail.reverse ++ [if g.tail.sum % 2 = 1 then top - g.headD 0 else g.headD 0]
  | _ => g.reverse

/-- The boxes of Tiling(S, order), clipped, in order (07 R102). -/
def tiling (l : Launch) (sh : Share) (shape : List Nat) (order : Nat) : List Box :=
  let es := shareExt l.hdr sh
  match firstUndisp l sh es es.prod 0 with
  | none => []
  | some a =>
    let org := a.zipWith (· % ·) shape
    -- grid coordinates counted from the box that holds coordinate 0
    let counts := (List.range shape.length).map fun i =>
      let o := org.getD i 0
      let s := shape.getD i 1
      (es.getD i 0 - o + s - 1) / s + (if o = 0 then 0 else 1)
    let box (g : List Nat) : Box :=
      let lo := g.zipIdx.map fun p =>
        let o := org.getD p.2 0
        let s := shape.getD p.2 1
        if o = 0 then p.1 * s else if p.1 = 0 then 0 else o + (p.1 - 1) * s
      let hi := g.zipIdx.map fun p =>
        let o := org.getD p.2 0
        let s := shape.getD p.2 1
        min (es.getD p.2 0) (if o = 0 then (p.1 + 1) * s else o + p.1 * s)
      { org := lo, ext := hi.zipWith (· - ·) lo }
    let kept := ((List.range counts.prod).map fun k => pointAt counts k).filter fun g => (box g).points.any (undisp l sh)
    let least := (List.range shape.length).map fun i => (kept.map fun g => g.getD i 0).foldl min ((kept.headD []).getD i 0)
    let shifted (g : List Nat) : List Nat := g.zipWith (· - ·) least
    let top := (kept.map fun g => (shifted g).headD 0).foldl max 0
    (sortKey (fun g => orderKey order top (shifted g)) kept).map box

/-! ### Costs (07 R106 to R108) -/

/-- The bucket of a coordinate in dimension i. -/
def bucket (h : BitVec 1024) (i x : Nat) : Nat := i * 1024 + x / 2 ^ (hWid h i - 10)

/-- An iteration is predicted marked. -/
def predicted (h : BitVec 1024) (sh : Share) (x : List Nat) : Bool :=
  (absCoord sh x).zipIdx.any fun p => Sparse.get false sh.exe (bucket h p.2 p.1) && !(Sparse.get false sh.notAll (bucket h p.2 p.1))

/-- The h and m of the cohorts of the window that ends: the first W to finish since the last window end, in a COOP launch those of
the wave (R107). -/
def Share.window (l : Launch) (sh : Share) : List (Nat × Nat) := if hCoop l.hdr then sh.hm else sh.hm.take (hWin l.hdr)

/-- LLR. -/
def Share.llr (l : Launch) (sh : Share) : Nat :=
  let h := ((sh.window l).map fun p => p.1).sum
  let m := ((sh.window l).map fun p => p.2).sum
  if m = 0 then 0 else min 4 (4 * h / m)

/-- Lines(t). -/
def tileLines (l : Launch) (sh : Share) (b : Box) : List Int :=
  ((b.points.filter (undisp l sh)).map fun x => (((absCoord sh x).zipIdx.map fun p => (p.1 : Int) * hStr l.hdr p.2).sum) / 128).eraseDups

/-- The lines of a tile that the tile before it lacks, summed. -/
def newLines : List (List Int) → Nat
  | a :: b :: t => (b.filter fun x => !a.contains x).length + newLines (b :: t)
  | _ => 0

/-- Cost(S, order). -/
def cost (l : Launch) (sh : Share) (shape : List Nat) (order : Nat) : Nat :=
  let t := (tiling l sh shape order).take 4096
  let und (b : Box) : List (List Nat) := b.points.filter (undisp l sh)
  let mixed := (t.filter fun b => (und b).any (predicted l.hdr sh) && (und b).any fun x => !predicted l.hdr sh x).length
  let edge := (t.filter fun b => decide ((und b).length < shape.prod)).length
  let ls := t.map (tileLines l sh)
  hf l.hdr 40 8 * mixed + hf l.hdr 48 8 * edge + hf l.hdr 56 8 * sh.llr l * ((ls.headD []).length + newLines ls)

/-- The allowed orders. -/
def hOrders (h : BitVec 1024) : List Nat := ((List.range 4).map (hOrd h)).takeWhile fun o => o != 0

/-- The pair of least cost, with its cost: larger V(S), then earlier order, then lower envelope index (07 R108). -/
def bestPair (l : Launch) (sh : Share) : List Nat × Nat × Nat :=
  let pairs := (envelope l.hdr).zipIdx.flatMap fun e => (hOrders l.hdr).zipIdx.map fun o => (e.1, o.1, o.2, e.2)
  let scored := pairs.map fun p => (p, cost l sh p.1 p.2.1)
  match scored with
  | [] => (sh.shape, sh.order, 0)
  | a :: t =>
    let b := t.foldl (fun b p =>
      let k (q : (List Nat × Nat × Nat × Nat) × Nat) : List Nat := [q.2, 2 ^ 20 - q.1.1.prod, q.1.2.2.1, q.1.2.2.2]
      if natsLt (k p) (k b) then p else b) a
    (b.1.1, b.1.2.1, b.2)

/-! ### Log entries of a Faceter (23 Tables 23.5, 23.6) -/

/-- Payload of a CUT entry. -/
def cutPay (cseq : Nat) (shape : List Nat) (order : Nat) (re : Bool) (best cur : Nat) : Nat :=
  fld 0 48 cseq + ((shape.zipIdx.map fun p => fld (48 + 4 * p.2) 4 (Nat.log2 p.1)).sum) + fld 72 3 order + fld 75 1 (Bool.n re) +
  fld 80 32 (min best (2 ^ 32 - 1)) + fld 112 32 (min cur (2 ^ 32 - 1))

/-- Payload of a DISP entry. -/
def dispPay (cseq : Nat) (org : BitVec 64) : Nat := fld 0 48 cseq + fld 48 64 org.toNat

/-- Payload of a MOVE entry. -/
def movePay (cseq left entered stop : Nat) (restore : Bool) : Nat :=
  fld 0 48 cseq + fld 48 9 left + fld 57 10 entered + fld 67 4 stop + fld 71 1 (Bool.n restore)

/-- FSTALL of a die. -/
def State.fstall (s : State) (die : Nat) : Bool := bit (s.reg (dieReg die 0x0428)) 0

/-- A Faceter lacks room for its entries: it stalls, a Headframe core is signalled, the PF's ring gets the event (23 R324). -/
def State.faceterStall (s : State) (die : Nat) : State :=
  if s.fstall die then s
  else ((s.setReg (dieReg die 0x0428) (s.reg (dieReg die 0x0428) ||| 1)).signal (.logStall die)).event 0 { src := 1 }

/-- Entries of these kinds fit. -/
def State.faceterRoom (s : State) (die : Nat) (kinds : List Nat) : Bool :=
  let n := (kinds.filter (s.kindOn die)).length
  n == 0 || decide ((n : Int) ≤ s.logFree die)

/-- `FACETER_LOG_RESUME` (23 R324): entries are free again. -/
def execFaceterLogResume (die : Nat) (s : State) : Host.Outcome State Fault Refusal :=
  .next (if s.fstall die && decide (0 < s.logFree die) then
      s.setReg (dieReg die 0x0428) (s.reg (dieReg die 0x0428) &&& ~~~1)
    else s)

/-! ### Placement (07 R113) -/

/-- Groups resident on a physical cell; a Winze group leaves when it has finished. -/
def State.cellGroups (s : State) (p : Nat) : List Group :=
  (s.cohorts.filter fun c => !c.isHF && s.pcell c.lcell == p && (match c.status with
    | .saved _ _ => false
    | .held => false
    | _ => true)).flatMap fun c => c.groups.take c.ngroups ++ (c.groups.drop c.ngroups).filter fun g => !g.fin

/-- A cohort that is on a physical cell, not saved. -/
def State.occupied (s : State) (p : Nat) : Bool := s.cohorts.any fun c => !c.isHF && s.pcell c.lcell == p && (match c.status with
  | .saved _ _ => false
  | .held => false
  | _ => true)

/-- Free granules of a cluster: SCRATCH banks that are not changing. -/
def State.bankFree (s : State) (k b : Nat) : Nat :=
  if s.bankMode k b = 1 ∧ !(s.cluster k).change.any (fun p => p.1 == b) then 16 - Sparse.get 0 (s.cluster k).grans b else 0

def State.granFree (s : State) (k : Nat) : Nat := ((List.range 64).map (s.bankFree k)).sum

/-- Take n granules of a cluster, from any SCRATCH banks: banks and counts. -/
def State.takeGrans (s : State) (k : Nat) : Nat → List Nat → List (Nat × Nat)
  | _, [] => []
  | n, b :: t => let m := min n (s.bankFree k b); if m = 0 then s.takeGrans k n t else (b, m) :: s.takeGrans k (n - m) t

/-- BOOTST. -/
def BOOTST : Nat := 0x0E00

/-- The module is in recovery: it runs no program (25 R350). -/
def State.recovery (s : State) : Bool := bits (s.reg BOOTST) 0 4 == 3

/-- The unit configuration of a header, without its dictionary entries (07 R118). Equal dictionary addresses name one dictionary under one
root alone. -/
def configOf (r : Root) (h : BitVec 1024) : UnitCfg := { root := if hDict h then r else .hf, dictb := BitVec.ofNat 56 (if hDict h then hDictb h else 0), roles := BitVec.ofNat 40 (hf h 640 35), lens := hLens h }

def UnitCfg.same (a b : UnitCfg) : Bool := a.root == b.root && a.dictb == b.dictb && a.roles == b.roles && a.lens == b.lens

/-- What a cohort asks of a cell. -/
structure Needs where
  die : Nat
  budgets : List Nat
  z : Nat
  cfg : UnitCfg
  /-- Only lens cells take it. -/
  lens : Bool
  /-- Not taken while a fence waits (25 R355). -/
  fresh : Bool
  /-- Of an ORDERED launch. -/
  ordered : Bool
  deriving DecidableEq, Repr

/-- A fence that waits keeps new cohorts from its logical cell and those above it (25 R355), but those of an ORDERED launch on the
fenced cell's die, for whose end it waits (DESIGN CHOICE, log entry 72). -/
def State.fencing (s : State) (n : Needs) (x : Nat) : Bool :=
  s.repairs.any fun r => r.kind == 0 && decide (s.lmap.idxOf r.index ≤ x) && !(n.ordered && n.die == r.index / 128)

/-- Items of a die's Cradle. -/
def State.items (s : State) (die : Nat) : List CradleItem := Sparse.get [] s.cradle die

/-- No saved cohort of the launch on the die goes back first (07 R118); one that waits for service does not count. -/
def State.savedAhead (s : State) (l : Launch) (die : Nat) : Bool :=
  s.cohorts.any fun c => c.launch == some l.num && c.die == die && (match c.status with
    | .saved st e => e.isNone && st != 6 && st != 7
    | .saving st e => e.isNone && st != 6 && st != 7
    | _ => false)

/-- A share has cuts to dispatch. A share whose tiling has not been formed, as every share of a REPLAY launch, has them while an
iteration is undispatched. -/
def Share.hasCuts (l : Launch) (sh : Share) : Bool :=
  !sh.stopped && (!sh.tiles.isEmpty || !sh.waiting.isEmpty ||
    sh.shape.isEmpty && (firstUndisp l sh (shareExt l.hdr sh) (shareExt l.hdr sh).prod 0).isSome)

/-- A launch waits for a cell of a die: it has a cut to dispatch, items to pack, or a pre-empted cohort (07 R118). -/
def State.waitsForCell (s : State) (die : Nat) (l : Launch) : Bool :=
  ((l.share? die).any (Share.hasCuts l)) || s.savedAhead l die || (s.items die).any fun i => i.launch == l.num

/-- The cell has been switched to its configuration and has not yet taken a cohort that waits with it (07 R118, step 4). -/
def State.dueFirst (s : State) (p : Nat) (f : UnitCfg) : Bool :=
  (s.cell p).due && s.launches.any fun l => f.same (configOf l.root l.hdr) && s.waitsForCell (p / 128) l

/-- A logical cell is eligible (07 R113); one that is being switched takes no cohort before its old ones are saved (R118). -/
def State.eligible (s : State) (n : Needs) (x : Nat) : Bool :=
  let p := s.pcell x
  let gs := s.cellGroups p
  decide (x < s.lmap.length) && p / 128 == n.die && decide (gs.length + n.budgets.length ≤ 48) &&
  decide ((gs.map fun g => g.budget).sum + n.budgets.sum ≤ 512) && decide ((n.z + 4095) / 4096 ≤ s.granFree (p / 8)) &&
  (match (s.cell p).cfg with
   | some f => f.same n.cfg || !s.occupied p && !s.dueFirst p f
   | none => true) &&
  (!n.lens || p % 8 == 0) && !(n.fresh && s.fencing n x) && (s.cell p).switch.isNone

/-- Lens cells alone take the cohorts of a launch: a cohort with a matrix-role group, or every cohort without a role map. -/
def lensOnly (h : BitVec 1024) : Bool := hLens h && (hRoles h == 0 || hNmat h != 0)

/-- The eligible cell with the fewest resident groups; the lowest on a tie. -/
def State.bestCell (s : State) (n : Needs) : Option Nat :=
  ((List.range s.lmap.length).filter (s.eligible n)).foldl (fun (b : Option Nat) x => match b with
    | none => some x
    | some y => if (s.cellGroups (s.pcell x)).length < (s.cellGroups (s.pcell y)).length then some x else b) none

/-- Slots of a physical cell that no group holds, ascending. -/
def State.freeSlots (s : State) (p : Nat) : List Nat := (List.range 48).filter fun i => !(s.cellGroups p).any fun g => g.slot == i

/-- The dictionary that unit loading writes (05 R79). A word that cannot be read is taken as an entry that the dictionary does not supply:
R79 names no fault of unit loading (DESIGN CHOICE, log entry 157). -/
def State.loadDict (s : State) (r : Root) (h : BitVec 1024) : List Word :=
  if hDict h then (List.range 1024).map fun i => match s.agentRead r (hDictb h + 4 * i) 4 with
    | .ok x => BitVec.ofNat 32 x
    | .error _ => 0xFFFFFFFF#32
  else []

/-- Load a unit configuration where the cell has another; a quantum starts (07 R118). -/
def State.loadUnit (s : State) (p : Nat) (r : Root) (h : BitVec 1024) : State :=
  let f := configOf r h
  if (s.cell p).cfg.any fun g => g.same f then s
  else (s.updCell p fun x => { x with cfg := some { f with dict := s.loadDict r h }, quantum := s.time, qlen := bits (s.reg (dieReg (p / 128) 0x0360)) 0 32 }).signal (.configuration p)

/-- Put a cohort on a logical cell: its slots, its granules, its unit configuration; its lanes begin with an acquire. It
arrives halted while the Loupe holds the cluster (23 R318). -/
def State.place (s : State) (c : Cohort) (x : Nat) (h : BitVec 1024) : State :=
  let p := s.pcell x
  let k := p / 8
  let gs := s.takeGrans k ((c.z + 4095) / 4096) (List.range 64)
  let halted := bit (s.reg (cluReg k 0x0488)) 0
  let slots := s.freeSlots p
  let s1 := s.loadUnit p c.root h
  let s2 := s1.updCluster k fun y => { y with grans := gs.foldl (fun (g : Sparse Nat) (q : Nat × Nat) => Sparse.set 0 g q.1 (Sparse.get 0 g q.1 + q.2)) y.grans }
  let groups : List Group := c.groups.zipIdx.map fun (q : Group × Nat) =>
    { q.1 with slot := slots.getD ((c.groups.take q.2).zipIdx.filter fun (r : Group × Nat) => decide (r.2 < c.ngroups) || !r.1.fin).length 48, halt := q.1.halt || halted, left := 0, skid := if halted then 0 else q.1.skid }
  let c1 : Cohort := { c with lcell := x, grans := gs, status := .resident, since := s.time, groups := groups }
  let s3 := { s2.updCell p fun q => { q with due := false } with cohorts := (s2.cohorts.filter fun (d : Cohort) => d.id != c.id) ++ [c1], stalled := [] }
  s3.acquire (some k)

/-! ### Dispatch of a cut (07 R103, R109, R113 to R115; 21 R305) -/

/-- The groups of a cut: box in share coordinates. -/
def mkGroups (l : Launch) (sh : Share) (b : Box) (dig : Bool) : List Group :=
  let h := l.hdr
  let vol := b.ext.prod
  let at_ (p : Nat) : List Nat := (pointAt b.ext p).zipWith (· + ·) b.org
  let valid (g : Nat) : List Nat := (List.range 32).filter fun i => decide (32 * g + i < vol) && undisp l sh (at_ (32 * g + i))
  let mk (g : Nat) : Group :=
    let ls := valid g
    let iid (i : Nat) : BitVec 64 := iidOf h (absCoord sh (at_ (32 * g + i)))
    { index := g, slot := 0, role := roleOf h g, budget := hBudget h (roleOf h g), valid := maskOf ls,
      iids := ls.filterMap (fun i => if iid i = 0 then none else some (i, iid i)),
      splits := [{ live := true, pc := BitVec.ofNat 56 (hEntry h), mask := maskOf ls }, {}, {}, {}],
      dg := if dig then ls.map fun i => (i, some { a := iid i, b := 0 }) else [] }
  if hRoles h = 0 then ((List.range ((vol + 31) / 32)).filter fun g => !(valid g).isEmpty).map mk else (List.range (hRoles h)).map mk

/-- The cohort of a cut with sequence k. -/
def mkCut (id : Nat) (l : Launch) (sh : Share) (b : Box) (k vol wave : Nat) : Cohort :=
  let gs := mkGroups l sh b l.dslot.isSome
  let c : Cohort := { id := id, launch := some l.num, kind := .cut, hdr := l.hdr, root := l.root, ltag := l.ltag, die := sh.die, lcell := 0, cseq := k, org := absCoord sh b.org, ext := b.ext, vol := vol, wave := wave, ngroups := gs.length, groups := gs, z := hFootprint l.hdr }
  { c with cls := blockClass c.blockSize }

/-- What the cohort needs of a cell. -/
def Cohort.needs (c : Cohort) (fresh : Bool) : Needs :=
  { die := c.die, budgets := ((c.groups.zipIdx).filter fun p => decide (p.2 < c.ngroups) || !p.1.fin).map fun p => p.1.budget, z := c.z, cfg := configOf c.root c.hdr,
    lens := hLens c.hdr && (hRoles c.hdr == 0 || (c.kind == .cut && hNmat c.hdr != 0)), fresh := fresh, ordered := hOrdered c.hdr }

/-- A cohort takes its context block and its cell; the launch's share counts it. -/
def State.dispatchTo (s : State) (l : Launch) (c : Cohort) (x : Nat) : Option State :=
  (s.poolPop c.die c.cls).map fun (a, s1) =>
    let s2 := (s1.place { c with ctx := BitVec.ofNat 56 a } x c.hdr).initBlock { c with ctx := BitVec.ofNat 56 a, lcell := x }
    (({ s2 with nextCohort := s2.nextCohort + 1 } : State).logWrite c.die 1 x c.ltag (dispPay c.cseq (iidOf c.hdr c.org))).updLaunch l.num fun l =>
      l.updShare c.die fun sh => { sh with running := sh.running + 1 }

/-- The share takes a box out of its tiling: it counts as dispatched from now on. -/
def Share.takeTile (sh : Share) (b : Box) : Share := { sh with tiles := sh.tiles.tail, cuts := sh.cuts ++ [b], cseq := sh.cseq + 1 }

/-- The cells of an ORDERED launch, ascending (07 R114). -/
def State.orderedCells (s : State) (l : Launch) (die : Nat) : List Nat :=
  (List.range s.lmap.length).filter fun x => s.pcell x / 128 == die && (!lensOnly l.hdr || s.pcell x % 8 == 0)

/-- Placement is ORDERED: by the header, or in a re-execution (23 R331). -/
def Launch.orderedPlace (l : Launch) : Bool := hOrdered l.hdr || l.rerun.isSome

/-- The share's first tiling, with its CUT entry (07 R101; 23 R323). -/
def State.formShare (s : State) (l : Launch) (sh : Share) : State :=
  let shape := firstShape l.hdr sh
  let order := hOrd l.hdr 0
  let t := tiling l sh shape order
  let s1 := s.updLaunch l.num fun l => l.updShare sh.die fun sh => { sh with shape := shape, order := order, tiles := t }
  if t.isEmpty then s1 else s1.logWrite sh.die 0 0 l.ltag (cutPay sh.cseq shape order true 0 0)

/-- A cohort of the launch has not finished. -/
def State.inFlight (s : State) (l : Nat) : Bool := s.cohorts.any fun c => c.launch == some l && c.status != .held

/-- The window limit lets the share dispatch (07 R107, R111); in a re-execution no other cohort of the launch is there besides, a task
group among them (23 R331). -/
def State.mayDispatch (s : State) (l : Launch) (sh : Share) : Bool :=
  if l.rerun.isSome && s.inFlight l.num then false
  else if hCoop l.hdr then sh.running == 0 && sh.hm.isEmpty
  else decide (sh.hm.length < hWin l.hdr) && (sh.open_ || decide (sh.running < hWin l.hdr))

/-- One cut to one cell. A waiting cut holds the positions that no earlier number had taken: the boxes of a later re-cut do not
count for it. -/
def State.dispatchTile (s : State) (l : Launch) (sh : Share) (b : Box) (k vol wave x : Nat) (waiting : Bool) : Option State :=
  let c := mkCut s.nextCohort l (if waiting then { sh with cuts := sh.cuts.takeWhile fun d => d != b } else sh) b k vol wave
  if s.eligible (c.needs true) x then s.dispatchTo l c x else none

/-- ORDERED dispatch (07 R114): the first waiting cut whose cell is eligible; else the next cut, which waits where its cell
is not. -/
def State.dispatchOrdered (s : State) (l : Launch) (sh : Share) : Option State :=
  let cells := s.orderedCells l sh.die
  let cellOf (k : Nat) : Nat := cells.getD (k % cells.length) 0
  let firstOnCell (w : Nat × Box × Nat) : Bool := sh.waiting.all fun v => decide (w.1 ≤ v.1) || cellOf v.1 != cellOf w.1
  match sh.waiting.findSome? fun w => if firstOnCell w then
      (s.dispatchTile l sh w.2.1 w.1 w.2.2 1 (cellOf w.1) true).map fun s1 =>
        s1.updLaunch l.num fun l => l.updShare sh.die fun sh => { sh with waiting := sh.waiting.erase w }
    else none with
  | some s1 => some s1
  | none =>
    match sh.tiles with
    | [] => none
    | b :: _ =>
      let k := sh.cseq
      let take (f : Share → Share) (s : State) : State := s.updLaunch l.num fun l => l.updShare sh.die fun sh => f (sh.takeTile b)
      match if sh.waiting.any fun v => cellOf v.1 == cellOf k then none else s.dispatchTile l sh b k sh.shape.prod 1 (cellOf k) false with
      | some s1 => some (take id s1)
      | none => some (take (fun sh => { sh with waiting := sh.waiting ++ [(k, b, sh.shape.prod)] }) s)

/-- The cell of a cut of a wave: the eligible cell of R113, in an ORDERED launch the cell of its number (R114). -/
def State.waveCell (s : State) (l : Launch) (c : Cohort) : Option Nat :=
  if hOrdered l.hdr then
    let cells := s.orderedCells l c.die
    cells[c.cseq % cells.length]?
  else s.bestCell (c.needs true)

/-- A COOP wave: the cuts of the tiling that can be placed at once (07 R111), in its order up to the first that fits no cell
(DESIGN CHOICE, log entry 70: R111 does not say whether later tiles are tried); at most `n` are tried. -/
def State.dispatchWave (l : Launch) (die : Nat) : Nat → State → State
  | 0, s => s
  | n + 1, s =>
    match (s.launch? l.num).bind fun l => l.share? die with
    | none => s
    | some sh =>
      match sh.tiles with
      | [] => s
      | b :: _ =>
        let c := mkCut s.nextCohort l sh b sh.cseq sh.shape.prod 0
        match (s.waveCell l c).bind fun x => s.dispatchTile l sh b sh.cseq sh.shape.prod 0 x false with
        | none => s
        | some s1 => State.dispatchWave l die n (s1.updLaunch l.num fun l => l.updShare die fun sh =>
            { sh.takeTile b with wave := sh.wave + 1 })

/-- Every cohort of a wave reads its size. -/
def State.setWave (s : State) (l die : Nat) (first : Nat) : State :=
  let n := s.nextCohort - first
  { s with cohorts := s.cohorts.map fun c => if c.launch = some l ∧ c.die = die ∧ first ≤ c.id then { c with wave := n } else c }

/-- An entry is the recorded launch's, and a CUT or DISP (23 R325). -/
def State.replays (s : State) (die e : Nat) : Bool := s.isRecorded die 0 e || s.isRecorded die 1 e

/-- The Faceter stops a REPLAY launch, and a Headframe core is signalled (07 R115; 23 R325). -/
def State.stopReplay (s : State) (l : Launch) (die : Nat) : State :=
  (s.updLaunch l.num fun l => l.updShare die fun sh => { sh with stopped := true }).signal (.replayStop l.num die)

/-- The cut that DISP entry w records: its box and its volume. None: no governing CUT entry, no such box, or its logical cell no
longer exists for the launch (07 R115; DEDUCED, log entry 71: a cell number that a fence has moved to another die, or off the lens
cells that the launch needs). -/
def State.recordedCut (s : State) (l : Launch) (sh : Share) (es : List Nat) (w : Nat) : Option (Box × Nat) :=
  let e := es.getD w 0
  let x := fget e 70 10
  ((es.take w).reverse.find? fun g => s.isRecorded sh.die 0 g && decide (fget g 96 48 ≤ fget e 96 48)).bind fun g =>
    let shape := (List.range (hNdim l.hdr)).map fun i => 2 ^ fget g (144 + 4 * i) 4
    if s.lmap.length ≤ x ∨ (s.orderedCells l sh.die).contains x = false then none
    else ((tiling l sh shape (fget g 168 3)).find? fun b => iidOf l.hdr (absCoord sh b.org) == BitVec.ofNat 64 (fget e 144 64)).map
      fun b => (b, shape.prod)

/-- DISP entry w dispatches its cut, with its recorded number, to its recorded cell; or the launch stops (true), or waits for the cell
(false). -/
def State.replayCut (l : Launch) (die : Nat) (es : List Nat) (s : State) (w : Nat) : Except Bool State :=
  match (s.launch? l.num).bind fun l => l.share? die with
  | none => .error false
  | some sh =>
    let k := fget (es.getD w 0) 96 48
    match s.recordedCut l sh es w with
    | none => .error true
    | some (b, vol) => match s.dispatchTile l sh b k vol 1 (fget (es.getD w 0) 70 10) false with
      | none => .error false
      | some s1 => .ok (s1.updLaunch l.num fun l => l.updShare die fun sh =>
          { sh with replay := w + 1, cuts := sh.cuts ++ [b], cseq := max sh.cseq (k + 1) })

/-- The next recorded entry of a REPLAY launch: a CUT entry is written again; a DISP entry dispatches its cut, in a COOP launch with
those of its wave, the DISP entries up to the next CUT entry (23 R325; 07 R111). -/
def State.dispatchReplay (s : State) (l : Launch) (sh : Share) : Option State :=
  let die := sh.die
  let es := s.recorded die
  let left := ((List.range es.length).drop sh.replay).filter fun w => s.replays die (es.getD w 0)
  if (firstUndisp l sh (shareExt l.hdr sh) (shareExt l.hdr sh).prod 0).isNone then none
  else match left with
  | [] => some (s.stopReplay l die)
  | w :: _ =>
    let e := es.getD w 0
    if fget e 64 4 = 0 then
      if s.faceterRoom die [0] then
        some ((s.logWrite die 0 (fget e 70 10) l.ltag (e / 2 ^ 96)).updLaunch l.num fun l => l.updShare die fun sh => { sh with replay := w + 1 })
      else some (s.faceterStall die)
    else if hCoop l.hdr && sh.running != 0 then none
    else
      let ws := if hCoop l.hdr then left.takeWhile fun v => fget (es.getD v 0) 64 4 == 1 else [w]
      match ws.foldlM (State.replayCut l die es) s with
      | .error true => some (s.stopReplay l die)
      | .error false => none
      | .ok s1 =>
        if !s.faceterRoom die (List.replicate ws.length 1) then some (s.faceterStall die)
        else some (if hCoop l.hdr then s1.setWave l.num die s.nextCohort else s1)

/-- Work under a root is stopped for a migration (25 R344). -/
def State.rootStopped (s : State) (r : Root) : Bool := match r with
  | .hf => false
  | .vd n => s.vdstopped.contains n

/-- The next dispatch of a launch on a die, when there is one now. -/
def State.dispatch (s : State) (l : Launch) (die : Nat) : Option State :=
  match l.share? die with
  | none => none
  | some sh =>
    if sh.stopped || s.rootStopped l.root || s.fstall die || l.result.isSome || s.savedAhead l die || s.recovery then none
    else if hReplay l.hdr && l.rerun.isNone then s.dispatchReplay l sh
    else if sh.shape.isEmpty then
      if (firstUndisp l sh (shareExt l.hdr sh) (shareExt l.hdr sh).prod 0).isNone then none
      else if s.faceterRoom die [0] then some (s.formShare l sh) else some (s.faceterStall die)
    else if (sh.tiles.isEmpty && sh.waiting.isEmpty) || !s.mayDispatch l sh then none
    else if l.orderedPlace && (s.orderedCells l die).isEmpty then
      some ((s.updLaunch l.num fun l => l.updShare die fun sh => { sh with stopped := true }).signal (.noLens l.num))
    else if !s.faceterRoom die [1] then some (s.faceterStall die)
    else if hCoop l.hdr && l.rerun.isNone then
      let s1 := State.dispatchWave l die sh.tiles.length s
      let n := s1.nextCohort - s.nextCohort
      if n = 0 then none
      else if !s.faceterRoom die (List.replicate n 1) then some (s.faceterStall die)
      else some (s1.setWave l.num die s.nextCohort)
    else if l.orderedPlace then s.dispatchOrdered l sh
    else match sh.tiles with
      | [] => none
      | b :: _ =>
        let c := mkCut s.nextCohort l sh b sh.cseq sh.shape.prod 1
        (s.bestCell (c.needs true)).bind fun x => (s.dispatchTile l sh b sh.cseq sh.shape.prod 1 x false).map fun s1 =>
          s1.updLaunch l.num fun l => l.updShare die fun sh => sh.takeTile b

/-- Launch a is served before launch b on a die: higher priority, then lower number (07 R113). -/
def Launch.before (a b : Launch) : Bool := decide (hPrio b.hdr < hPrio a.hdr) || (hPrio a.hdr == hPrio b.hdr && decide (a.num < b.num))

/-- The launch that a Faceter serves next, with what it does. -/
def State.served (s : State) (die : Nat) : Option (Launch × State) :=
  let ls := s.launches.filterMap fun l => (s.dispatch l die).map fun s1 => (l, s1)
  ls.find? fun p => ls.all fun q => !(q.1.before p.1)

/-- `COHORT_DISPATCH` (07 R113): the launch is the one its die's Faceter serves next. -/
def execCohortDispatch (l die : Nat) (s : State) : Host.Outcome State Fault Refusal :=
  .next (match s.served die with
    | some (x, s1) => if x.num = l then s1 else s
    | none => s)

/-- The cells that cuts of an ORDERED share wait for; in a COOP launch, that of the next cut of a wave that may start. -/
def State.awaited (s : State) (l : Launch) (sh : Share) : List Nat :=
  let cells := s.orderedCells l sh.die
  (sh.waiting.map (fun w => w.1) ++ if hCoop l.hdr && !sh.tiles.isEmpty && s.mayDispatch l sh then [sh.cseq] else []).filterMap
    fun k => cells[k % cells.length]?

/-- `ORDERED_CELL_WAIT_STALL` (07 R114): a cut has waited 2^24 fabric cycles, 5 × 2^22 cell cycles, for a cell that holds no cohort,
for want of granules. -/
def execOrderedCellWaitStall (l die : Nat) (s : State) : Host.Outcome State Fault Refusal :=
  .next (match (s.launch? l).bind fun x => (x.share? die).map fun sh => (x, sh) with
    | none => s
    | some (x, sh) =>
      let short (y : Nat) : Bool := !s.occupied (s.pcell y) && decide (s.granFree (s.pcell y / 8) < (hFootprint x.hdr + 4095) / 4096)
      if x.orderedPlace && !sh.stopped && (s.awaited x sh).any short then { s with time := s.time + 5 * 2 ^ 22 }.signal (.orderedWait l die) else s)

/-! ### The end of a window (07 R107, R108) -/

/-- A window of the share has ended: W cohorts, or a wave, have finished; a launch that dispatches by a recorded log has none (23
R325). -/
def Share.windowDue (sh : Share) (l : Launch) : Bool :=
  !(hReplay l.hdr && l.rerun.isNone) &&
  (if hCoop l.hdr then sh.running == 0 && !sh.hm.isEmpty else decide (hWin l.hdr ≤ sh.hm.length))

/-- `WINDOW_END`: costs are evaluated, the remainder is re-cut when the least cost is below the current pair's, and the
decision is recorded; with no remainder nothing is decided. -/
def execWindowEnd (l die : Nat) (s : State) : Host.Outcome State Fault Refusal :=
  .next (match (s.launch? l).bind fun x => (x.share? die).map fun sh => (x, sh) with
    | none => s
    | some (x, sh) =>
      if !sh.windowDue x || s.fstall die then s
      else
        let done_ (f : Share → Share) (s : State) : State := s.updLaunch l fun y => y.updShare die fun sh =>
          f { sh with hm := if hCoop x.hdr then [] else sh.hm.drop (hWin x.hdr), open_ := true, wave := 0 }
        if sh.tiles.isEmpty then done_ id s
        else if !s.faceterRoom die [0] then s.faceterStall die
        else
          let cur := cost x sh sh.shape sh.order
          let (shape, order, best) := bestPair x sh
          if best < cur then
            (done_ (fun y => { y with shape := shape, order := order, tiles := tiling x sh shape order }) s).logWrite die 0 0 x.ltag
              (cutPay sh.cseq shape order true best cur)
          else (done_ id s).logWrite die 0 0 x.ltag (cutPay sh.cseq sh.shape sh.order false best cur))

end Sys2Proof.Machine
end

