-- ==== Sys2Proof/Machine/Fence.lean ====
section
/-! DEFINITION. Fences and condition monitors (15.5, 15.6). -/
namespace Sys2Proof.Machine

/-! ### Fences (15 R229, R230) -/

/-- What a fence does to the cluster cache when it has device or system scope, or orders the lanes with engines, which reach
memory at its home slices whatever the scope (13 R196, R201, R204): dirty bytes go home, clean copies go (log entry 55). -/
def State.fenceCache (s : State) (k : Option Nat) (scope : Nat) (engines out inn : Bool) : State :=
  if scope < 2 ∧ !engines then s
  else
    let s1 := if out then s.release k else s
    if inn then s1.acquire k else s1

/-- Every value that the split's earlier accesses return has come. An access that faulted before the trap whose handler the split runs
took no effect, and is issued again after it (05 R75). -/
def Split.settled (x : Split) : Bool := x.windows.all fun w => w.ready || (w.re && w.under)

/-- A command of a class in the mask, issued by the group before the bound, still runs. -/
def State.running (s : State) (w : Who) (bound : Nat) (m : BitVec 6) : Bool :=
  s.cmds.any fun k => k.co == some w.co && k.gi == w.gi && decide (k.id < bound) && m.getLsbD k.eng.bit && !k.done

/-- The fence's condition holds (15 R229, R230): an `xfence` waits for the split's own accesses where its first mask names the lanes. -/
def State.fenceDone (s : State) (w : Who) (x : Split) : Bool := match x.wait with
  | .xfence _ bound m _ => (!m.getLsbD 0 || x.settled) && !s.running w bound m
  | _ => x.settled

/-- A class mask names an engine (15 R230). -/
def namesEngine (m : BitVec 6) : Bool := [1, 2, 3, 4].any m.getLsbD

/-- A fence word: it waits until its condition holds. -/
def fenceWord (word : Nat) (wf : Bool) (scope : Nat) (engines out inn : Bool) (w : State → Wait) (s : State) :
    Host.Outcome State Fault Refusal :=
  issue { word := word, wf := wf, hold := true, rel := out && (engines || decide (2 ≤ scope)) } (fun _ _ => none)
    (fun c s =>
      let s1 := (s.fenceCache (s.clusterOf c.co) scope engines out inn).updSp c.who fun x => { x with wait := w s }
      match s1.split? c.who with
      | none => s1
      | some x => if s1.fenceDone c.who x then s1.updSp c.who fun x => x.next else s1) s

/-- `fence.S` (15 R229). -/
def execFence (sc : BitVec 3) (s : State) : Host.Outcome State Fault Refusal :=
  fenceWord (encFence sc) (decide (sc.toNat ≤ 3)) sc.toNat false true true (fun _ => .fence sc.toNat) s

/-- `xfence.S before, after` (15 R230). -/
def execXfence (sc : BitVec 3) (a b : BitVec 6) (s : State) : Host.Outcome State Fault Refusal :=
  fenceWord (encXfence sc a b) (decide (sc.toNat ≤ 3) && a != 0 && b != 0 && !a.getLsbD 5 && !b.getLsbD 5) sc.toNat
    (namesEngine a || namesEngine b) (a.getLsbD 0) (b.getLsbD 0) (fun s => .xfence sc.toNat s.nextCmd a b) s

/-- `FENCE_COMPLETE`: the condition of a waiting fence holds (15 R229, R230). -/
def execFenceComplete (w : Who) (s : State) : Host.Outcome State Fault Refusal :=
  .next (match s.split? w with
    | none => s
    | some x =>
      let inn : Option (Nat × Bool × Bool) := match x.wait with
        | .fence sc => some (sc, false, true)
        | .xfence sc _ a b => some (sc, namesEngine a || namesEngine b, b.getLsbD 0)
        | _ => none
      match inn with
      | none => s
      | some (sc, e, i) =>
        if x.live && s.runs w && s.fenceDone w x then
          ({ s with stalled := [] }.fenceCache ((s.cohort? w.co).bind s.clusterOf) sc e false i).updSp w fun x => x.next
        else s)

/-! ### Monitors (15 R231, R232; 13 R199) -/

/-- Monitors held at a slice. -/
def State.monitorsAt (s : State) (slice : Nat) : Nat :=
  (s.cohorts.map fun c => (c.groups.map fun g => (g.splits.filter fun x =>
    x.live && x.mon.st == .armed && !x.mon.poll && sliceOf x.mon.key == slice).length).sum).sum

/-- Arm a monitor: the condition is evaluated at once against the word at its home (15 R232). -/
def State.arm (s : State) (w : Who) (addr : VAddr) (key : Nat) (wide : Bool) (cond : BitVec 3) (k : BitVec 64) : State :=
  let s0 := s.updSp w fun x => { x with mon := {} }
  let m : Monitor := { st := .armed, addr := addr, key := key, cmp := k, wide := wide, cond := cond,
                       poll := decide (32 ≤ s0.monitorsAt (sliceOf key)) }
  s0.updSp w fun x => { x with mon := if s0.monTrue m then { m with st := .fired, poll := false } else m }

/-- A monitor whose address names no word: it stays armed and never fires (13 R194; log entry 57). -/
def Monitor.nowhere (m : Monitor) : Monitor := { m with key := 2 ^ 62, poll := false }

/-- A `watch` word (15 R232), which is no access of the memory model. -/
def watchWord (word : Nat) (wide : Bool) (cond : BitVec 3) (a b : BitVec 6) (s : State) : Host.Outcome State Fault Refusal :=
  let addr (c : Ctx) : Nat := (c.gr.getS2 a.toNat).toNat
  issueFull { word := word, wf := decide (cond.toNat ≤ 6) && even a && (!wide || even b) }
    (fun c s => s.noLinkAt c.co .read (if wide then 8 else 4) [addr c])
    (fun c s => match s.laneAccess c.co .read (if wide then 8 else 4) (addr c) with
      | .error e => some { code := e, addr := BitVec.ofNat 64 (addr c) }
      | .ok p => if isRegKey p.key then some { code := PROTECTION, addr := BitVec.ofNat 64 (addr c) } else none)
    (fun c s => s.arm c.who (BitVec.ofNat 56 (addr c)) (s.keyAt c.co .read (addr c)) wide cond
      (if wide then c.gr.getS2 b.toNat else (c.gr.getS b.toNat).setWidth 64)) (fun _ s => s) s

/-- `watch.cc.b32 [sA], sB` (15 R232). -/
def execWatchB32 (c : BitVec 3) (a b : BitVec 6) (s : State) : Host.Outcome State Fault Refusal :=
  watchWord (encWatchB32 c a b) false c a b s

/-- `watch.cc.b64 [sA], sB` (15 R232). -/
def execWatchB64 (c : BitVec 3) (a b : BitVec 6) (s : State) : Host.Outcome State Fault Refusal :=
  watchWord (encWatchB64 c a b) true c a b s

/-- `watch.cancel` (15 R232). -/
def execWatchCancel (s : State) : Host.Outcome State Fault Refusal :=
  issue { word := encWatchCancel } (fun _ _ => none) (fun c s => s.updSp c.who fun x => { x with mon := {} }) s

/-- `MONITOR_POLL` (13 R199): a polling waiter reads its word at the home slice. -/
def execMonitorPoll (w : Who) (s : State) : Host.Outcome State Fault Refusal :=
  .next (match s.split? w with
    | none => s
    | some x => if x.live && x.mon.st == .armed && x.mon.poll && s.runs w && s.monTrue x.mon then
        s.updSp w fun x => { x with mon := { x.mon with st := .fired, poll := false } } else s)

/-! ### `waitc` (15 R233) -/

/-- WAKE entry (23 Table 23.6). -/
def wakePay (c : Cohort) (g : Group) (si : Nat) (a : VAddr) : Nat :=
  c.cseq % 2 ^ 48 + g.index % 16 * 2 ^ 48 + si % 4 * 2 ^ 52 + a.toNat * 2 ^ 54

/-- A split reserves a WAKE entry for its wait, when the kind is on (23 R324). -/
def State.wakeReserve (s : State) (w : Who) : State :=
  match s.cohort? w.co with
  | some c => if s.kindOn c.die 5 then (s.logReserve c.die 1).updSp w fun x => { x with wakeRsv := true } else s
  | none => s

/-- The reservation of a split's WAKE entry is released. -/
def State.wakeRelease (s : State) (w : Who) : State :=
  match s.cohort? w.co, s.split? w with
  | some c, some x => if x.wakeRsv then (s.logReserve c.die (-1)).updSp w fun x => { x with wakeRsv := false } else s
  | _, _ => s

/-- The entry of a wake is written, and its reservation released. -/
def State.logWake (s : State) (w : Who) (a : VAddr) : State :=
  match s.cohort? w.co, s.group? w.co w.gi with
  | some c, some g => (s.logWrite c.die 5 c.lcell c.ltag (wakePay c g w.si a)).wakeRelease w
  | _, _ => s

/-- The wait ends FIRED: the lanes acquire, the record is NONE, s[sD] is 1 and the split goes on (15 R233). -/
def State.waitcFired (s : State) (w : Who) (scope : Nat) (dst : Option (BitVec 6)) : State :=
  let a := ((s.split? w).map fun x => x.mon.addr).getD 0
  let s1 := (s.logWake w a).fenceCache ((s.cohort? w.co).bind s.clusterOf) scope false false true
  (s1.updGr w fun g => match dst with
    | some d => g.setS d.toNat 1
    | none => g).updSp w fun x => { x with mon := {} }.next

/-- The wait times out (15 R233). -/
def State.waitcOut (s : State) (w : Who) (dst : BitVec 6) : State :=
  ((s.wakeRelease w).updGr w fun g => g.setS dst.toNat 0).updSp w fun x => { x with mon := {} }.next

/-- `waitc.S sD, sT` (15 R233); the wait holds the time at which it runs out. -/
def execWaitc (sc : BitVec 3) (d t : BitVec 6) (s : State) : Host.Outcome State Fault Refusal :=
  issueLog { word := encWaitc sc d t, wf := decide (sc.toNat ≤ 3), hold := true } (fun _ _ => [(5, 1)]) (fun _ _ => false)
    (fun c s => s.logRoom c.co.die [(5, 1)])
    (fun c s =>
      let n := (c.gr.getS t.toNat).toNat
      match c.sp.mon.st with
      | .none => (s.updGr c.who fun g => g.setS d.toNat 2).updSp c.who fun x => x.next
      | .fired => (s.wakeReserve c.who).waitcFired c.who sc.toNat (some d)
      | .armed =>
        if n = 0 then (s.wakeReserve c.who).waitcOut c.who d
        else (s.wakeReserve c.who).updSp c.who fun x =>
          { x with wait := .waitc sc.toNat d (if n = 0xFFFFFFFF then none else some (s.now c.co + n)) }) (fun _ s => s) s

/-- `WAITC_WAKE` (15 R233): the record of a waiting split is FIRED. -/
def execWaitcWake (w : Who) (s : State) : Host.Outcome State Fault Refusal :=
  .next (match s.split? w with
    | none => s
    | some x => match x.wait with
      | .waitc sc d _ => if x.live && x.mon.st == .fired && s.runs w then { s with stalled := [] }.waitcFired w sc (some d) else s
      | .chwait sc => if x.live && x.mon.st == .fired && s.runs w then { s with stalled := [] }.waitcFired w sc none else s
      | _ => s)

/-- `WAITC_TIMEOUT` (15 R233): the cycles pass; FIRED would have won the tie. -/
def execWaitcTimeout (w : Who) (s : State) : Host.Outcome State Fault Refusal :=
  .next (match s.split? w with
    | none => s
    | some x => match x.wait with
      | .waitc _ d (some t) => if x.live && x.mon.st != .fired && s.runs w then
          { s with time := max s.time t, stalled := [] }.waitcOut w d else s
      | _ => s)

end Sys2Proof.Machine
end

