-- ==== Sys2Proof/Machine/Chain.lean ====
section
/-! DEFINITION. How a launch starts, completes and ends; chains: append, walk, start, completion, publication (17.7); digest
checks (23 R330, R331); device-side launches' acceptance (19 R274). -/
namespace Sys2Proof.Machine

/-! ### Launches (07 R98, R104; 23 R325, R327, R333) -/

/-- A launch header, under a root. -/
def State.header (s : State) (r : Root) (a : Nat) : Except Code (BitVec 1024) := (s.agentRead r a 128).map (BitVec.ofNat 1024)

/-- The lowest counter of a launch's stream that a registered stream, or that of a launch sent and not yet accepted, also
holds under the same seed (23 R333). -/
def State.overlap (s : State) (h : BitVec 1024) : Option Nat :=
  if !hStrm h || hShrs h then none
  else
    let regs := s.streams ++ (s.offers.filter fun l => hStrm l.hdr).map fun l =>
      { launch := l.num, seed := BitVec.ofNat 32 (hSeed l.hdr), lo := BitVec.ofNat 32 (hClo l.hdr), hi := BitVec.ofNat 32 (hChi l.hdr) : Stream }
    let hits := (regs.filter fun x => x.seed.toNat == hSeed h && decide (x.lo.toNat ≤ hChi h) && decide (hClo h ≤ x.hi.toNat)).map fun x =>
      max x.lo.toNat (hClo h)
    match hits with
    | [] => none
    | a :: t => some (t.foldl min a)

/-- BUSY of a die's RLTAG (23 Table 23.4). -/
def State.rlBusy (s : State) (die : Nat) : Bool := bit (s.reg (dieReg die 0x0448)) 63

/-- A fence or a lift of a cell of a die waits (25 R355). -/
def State.dieRepair (s : State) (die : Nat) : Bool := s.repairs.any fun r => (r.kind == 0 || r.kind == 3) && r.index / 128 == die

/-- A launch waits before it starts: for an entry of the stream registry, for the recorded log, for a repair of its die. -/
def State.launchWaits (s : State) (h : BitVec 1024) : Bool :=
  (hStrm h && decide (256 ≤ s.streams.length)) || (hReplay h && (hDies h).any s.rlBusy) || (hOrdered h && (hDies h).any s.dieRepair)

/-- Words of a digest area (23 Table 23.9). -/
def State.clearWords (s : State) (keys : List Nat) : State := keys.foldl (fun (s : State) k => s.hubWrite k (bytesOf 8 0) 0) s

/-- The digest slot that names a launch (23 R327). -/
def State.matchSlot (s : State) (name : VAddr) : Option Nat :=
  (List.range 4).find? fun i => bit (s.reg (dgCtl i)) 0 && bits (s.reg (dgNode i)) 0 56 == name.toNat

/-- A launch starts: it takes its number, its digest slot, its place in the stream registry and its shares; `name` is its
node's address, or its header's. -/
def State.startLaunch (s : State) (l : Launch) (name : VAddr) : State :=
  let n := s.nextLaunch
  let slot := s.matchSlot name
  let s1 := match slot with
    | some i =>
      let a := bits (s.reg (dgArea i)) 0 56
      s.clearWords ([a, a + 0x10, a + 0x18] ++ (List.range 64).map fun r => a + 0x40 + 8 * r)
    | none => s
  let s2 : State := if hReplay l.hdr then (hDies l.hdr).foldl (fun (s : State) d => s.setReg (dieReg d 0x0448) (s.reg (dieReg d 0x0448) ||| (1#64 <<< 63))) s1 else s1
  let st : List Stream := if hStrm l.hdr then
    [{ launch := n, seed := BitVec.ofNat 32 (hSeed l.hdr), lo := BitVec.ofNat 32 (hClo l.hdr), hi := BitVec.ofNat 32 (hChi l.hdr) }] else []
  { s2 with
    nextLaunch := n + 1, streams := s2.streams ++ st, stalled := []
    launches := s2.launches ++ [{ l with num := n, shares := mkShares l.hdr, dslot := slot }] }

/-- A share is complete: nothing undispatched, waiting or running (07 R96). -/
def Launch.shareDone (l : Launch) (sh : Share) : Bool :=
  sh.running == 0 && sh.waiting.isEmpty &&
  (firstUndisp l sh (shareExt l.hdr sh) (shareExt l.hdr sh).prod 0).isNone

/-- Everything of a launch has finished: cohorts, task groups and items, ordered operations, commands (17 R260; 19 R272). -/
def State.launchDone (s : State) (l : Launch) : Bool :=
  (l.result.isSome || l.shares.all l.shareDone) &&
  !s.cohorts.any (fun c => c.launch == some l.num) && !s.cradle.any (fun p => p.2.any fun i => i.launch == l.num) &&
  !s.ords.any (fun o => o.launch == l.num) && !s.sc.any (fun o => o.launch == some l.num) && !s.cmds.any (fun m => m.launch == some l.num)

/-- The recorded log is free again when its launch completes (23 R325). -/
def State.freeLog (s : State) (l : Launch) : State :=
  if hReplay l.hdr then (hDies l.hdr).foldl (fun (s : State) d => s.setReg (dieReg d 0x0448) (s.reg (dieReg d 0x0448) &&& ~~~(1#64 <<< 63))) s else s

/-- A launch is gone: its stream is freed (23 R333). -/
def State.dropLaunch (s : State) (n : Nat) : State :=
  { s with launches := s.launches.filter (fun l => l.num != n), streams := s.streams.filter (fun x => x.launch != n), stalled := [] }

/-! ### Digest checks (23 R330, R331) -/

/-- Set bits of the status word of a digest area. -/
def State.digestStatus (s : State) (n v : Nat) : State :=
  let a := bits (s.reg (dgArea n)) 0 56 + 0x10
  s.hubWrite a (bytesOf 8 (BitVec.ofNat 64 (s.homeRead a 8) ||| BitVec.ofNat 64 v).toNat) 0

/-- Regions whose digests differ from their references, with REG set. -/
def State.badRegions (s : State) (n : Nat) : List Nat :=
  let a := bits (s.reg (dgArea n)) 0 56
  if bit (s.reg (dgCtl n)) 1 then (List.range 64).filter fun r => s.homeRead (a + 0x40 + 8 * r) 8 != s.homeRead (a + 0x240 + 8 * r) 8 else []

/-- The digest of a launch is finalised and compared: the launch gets its result, or runs again. -/
def State.digestEnd (s : State) (l : Launch) (n : Nat) : State :=
  let ctl := s.reg (dgCtl n)
  let a := bits (s.reg (dgArea n)) 0 56
  let bad := s.badRegions n
  let s1 := s.digestStatus n 1
  let done (r : Nat × Code × BitVec 48) (s : State) : State := s.updLaunch l.num fun l => { l with result := some r }
  if !bit ctl 2 || (s.homeRead a 8 == s.homeRead (a + 8) 8 && bad.isEmpty) then done (0, 0, 0) s1
  else
    let mask : BitVec 64 := BitVec.ofNat 64 ((bad.map fun r => 2 ^ r).sum)
    let detail : BitVec 48 := BitVec.ofNat 48 (bad.headD 0 + (if bit ctl 1 then 64 else 0))
    let s2 := ((s1.digestStatus n 2).hubWrite (a + 0x18) (bytesOf 8 mask.toNat) 0).signal (.digestMismatch l.num detail)
    if bit ctl 3 ∧ l.rerun.isNone then
      let valid : BitVec 64 := if bit ctl 1 then mask else BitVec.allOnes 64
      ((s2.digestStatus n 4).clearWords (a :: ((List.range 64).filter fun r => mask.getLsbD r).map fun r => a + 0x40 + 8 * r)).updLaunch l.num fun l =>
        { l with rerun := some valid, shares := (mkShares l.hdr).take 1 }
    else done (2, DIGEST_MISMATCH, detail) s2

/-! ### Append (17 R259) -/

/-- The key of an access of the lanes path for an append; a register frame is refused. -/
def State.appendXlate (s : State) (c : Cohort) (a : Nat) : Except Code Nat :=
  match s.laneXlate c a .write with
  | .ok p => if isRegKey p.key then .error PROTECTION else .ok p.key
  | .error e => .error e

/-- `chain [sC], sE` (17 R259). -/
def execChain (a e : BitVec 6) (s : State) : Host.Outcome State Fault Refusal :=
  let ccb (c : Ctx) : Nat := (c.gr.getS2 a.toNat).toNat
  let ent (c : Ctx) : Nat := (c.gr.getS2 e.toNat).toNat
  let bad (a : Nat) : Option Trap :=
    if 2 ^ 56 ≤ a then some { code := PROTECTION, addr := BitVec.ofNat 64 a }
    else if a % 64 ≠ 0 then some { code := ALIGNMENT, addr := BitVec.ofNat 64 a } else none
  let go (c : Ctx) (s : State) := s.append (s.source c.co) c.co.root (s.appendXlate c.co) (BitVec.ofNat 56 (ccb c)) (BitVec.ofNat 56 (ent c))
  issueFull { word := encChain a e, wf := even a && even e, reads := true, rel := true } (fun c s => s.noLinkAt c.co .write 64 [ccb c, ent c])
    (fun c s => match bad (ccb c), bad (ent c) with
      | some t, _ => some t
      | none, some t => some t
      | none, none => match go c s with
        | .error (va, x) => some { code := x, addr := va.setWidth 64 }
        | .ok _ => none)
    (fun c s =>
      let k := s.clusterOf c.co
      let s1 := ((s.release k).flushLoc k (s.keyAt c.co .write (ccb c)) 64).flushLoc k (s.keyAt c.co .write (ent c)) 64
      match go c s1 with
      | .ok s2 => s2
      | .error _ => s1) (fun _ s => s) s

/-- `chwait.S [sC], sN` (17 R262): `watch.ge.n.b64` and `waitc.S` with no timeout. -/
def execChwait (sc : BitVec 3) (a n : BitVec 6) (s : State) : Host.Outcome State Fault Refusal :=
  let addr (c : Ctx) : Nat := (c.gr.getS2 a.toNat).toNat
  let trap (c : Ctx) (e : Code) : Option Trap := some { code := e, addr := BitVec.ofNat 64 (addr c) }
  issueLog { word := encChwait sc a n, wf := (sc == 2 || sc == 3) && even a && even n, reads := true, hold := true } (fun _ _ => [(5, 1)])
    (fun c s => s.noLinkAt c.co .read 8 [addr c])
    (fun c s =>
      if 2 ^ 56 ≤ addr c then trap c PROTECTION
      else if addr c % 16 ≠ 0 then trap c ALIGNMENT
      else match s.laneAccess c.co .read 8 (addr c) with
        | .error e => trap c e
        | .ok p => if isRegKey p.key then trap c PROTECTION else s.logRoom c.co.die [(5, 1)])
    (fun c s =>
      let s1 := (s.arm c.who (BitVec.ofNat 56 (addr c)) (s.keyAt c.co .read (addr c)) true 5 (c.gr.getS2 n.toNat)).wakeReserve c.who
      if (s1.split? c.who).any fun x => x.mon.st == .fired then s1.waitcFired c.who sc.toNat none
      else s1.updSp c.who fun x => { x with wait := .chwait sc.toNat }) (fun _ s => s) s

/-! ### Reading entries (17 R258, R260) -/

def State.chain? (s : State) (k : Nat) : Option Chain := s.chains[k]?

/-- The walker of a chain waits for a Headframe core: no node of it starts or publishes (13 R357). -/
def State.walkerWaits (s : State) (k : Nat) : Bool := s.waits.any fun w => w.act == .walker k

/-- Fields of an entry (17 Table 17.10). -/
def entType (e : BitVec 512) : Nat := bits e 0 4
def entNsucc (e : BitVec 512) : Nat := bits e 4 3
def entIrq (e : BitVec 512) : Bool := bit e 7
def entSeq (e : BitVec 512) : Nat := bits e 128 64
def entArg (e : BitVec 512) : Nat := bits e 192 56
def entSucc (e : BitVec 512) (m : Nat) : Nat := bits e (256 + 64 * m) 56

/-- An entry breaks 17 Table 17.10. -/
def entBad (e : BitVec 512) : Bool :=
  decide (4 < entType e) || decide (4 < entNsucc e) || bits e 17 47 != 0 || bits e 120 8 != 0 || bits e 248 8 != 0 ||
  (List.range 4).any (fun m => bits e (312 + 64 * m) 8 != 0 || (decide (entNsucc e ≤ m) && entSucc e m != 0)) ||
  (entType e == 0 && entArg e != 0)

/-- A command record breaks 17 R258: reserved bits, or a field that must be 0; fn6 a function of its major. -/
def recBad (ty : Nat) (x : BitVec 512) : Bool :=
  [(6, 26), (96, 32), (184, 8), (248, 8), (312, 8), (376, 136)].any (fun p => bits x p.1 p.2 != 0) ||
  bits x 32 32 != 0 || decide ((if ty = 2 then 1 else if ty = 3 then 2 else 3) < bits x 0 6)

/-- The command record of an entry. -/
def State.cmdRec (s : State) (r : Root) (e : BitVec 512) : Except Code (BitVec 512) := (s.agentRead r (entArg e) 64).map (BitVec.ofNat 512)

/-- A descriptor that a command record names is not global (17 R258): TD, and TS and TX where the function has them. One that cannot
be read now faults when the node starts. -/
def State.recLocal (s : State) (r : Root) (ty : Nat) (y : BitVec 512) : Bool :=
  [(128, true), (192, !(ty == 2 && bits y 0 6 == 1)), (256, ty == 3)].any fun p => p.2 && (match s.agentRead r (bits y p.1 56) 64 with
    | .ok d => Desc.loc (BitVec.ofNat 512 d) != 0
    | .error _ => false)

/-- The rejection of a launch header, or of its address (07 R98): its CODE. -/
def State.hdrReject (s : State) (r : Root) (a : Nat) : Option Code :=
  if a % 128 ≠ 0 then some ALIGNMENT
  else match s.header r a with
    | .error c => some c
    | .ok h => if headerOk h then none else some 0

/-- The rejection of an entry when it is read: its CODE (17 R260). A record or a header is read then, and again when the node starts
(DEDUCED, log entry 76). A command record that cannot be read rejects its entry, with the code of the access, as a header does: R260
gives no status for it (DESIGN CHOICE, log entry 161). -/
def State.entReject (s : State) (r : Root) (e : BitVec 512) : Option Code :=
  if entBad e then some 0
  else if entType e = 0 then none
  else if entType e = 1 then s.hdrReject r (entArg e)
  else if entArg e % 64 ≠ 0 then some ALIGNMENT
  else match s.cmdRec r e with
    | .error c => some c
    | .ok x => if recBad (entType e) x || s.recLocal r (entType e) x then some 0 else none

/-- The walker reads the entry that WALK names, and sets WALK to its NEXT (17 R260); an entry with STARTED is passed over. -/
def State.readEntry (s : State) (k : Nat) (c : Chain) : State :=
  match s.agentXlate c.root c.ccb.toNat .write with
  | .error x => s.await (.walker k) c.root c.ccb x
  | .ok kc =>
    let e := s.homeRead (kc + 32) 7
    if e = 0 then s
    else match s.agentXlate c.root e .read with
      | .error x => s.await (.walker k) c.root (BitVec.ofNat 56 e) x
      | .ok ke =>
        let x : BitVec 512 := BitVec.ofNat 512 (s.homeRead ke 64)
        let s1 := (s.numbered (s.walkerUnit c) (kc + 32)).homeWrite (kc + 32) (bytesOf 7 (bits x 64 56)) (s.vdTag c.root)
        if bit x 16 then s1
        else { s1 with nodes := s1.nodes ++ [{ chain := k, addr := BitVec.ofNat 56 e, entry := x,
                                               result := (s.entReject c.root x).map fun c => (1, c, 0) }] }

/-- `CHAIN_ENTRY_READ` (17 R260). -/
def execChainEntryRead (k : Nat) (s : State) : Host.Outcome State Fault Refusal :=
  .next (match s.chain? k with
    | none => s
    | some c => if s.walkerWaits k then s else s.readEntry k c)

/-- `WALKER_HANDOVER` (01 R18): once WALK is 0, the chain's walker is the hub for the slot that names it, or the Faceter of the die
that holds the CCB's home slice (`State.walkerDie`). -/
def execWalkerHandover (k : Nat) (s : State) : Host.Outcome State Fault Refusal :=
  .next (match s.chain? k with
    | none => s
    | some c => match s.agentXlate c.root c.ccb.toNat .read with
      | .error _ => s
      | .ok kc => if s.homeRead (kc + 32) 7 = 0 then { s with chains := s.chains.set k (s.chainAt c.root c.ccb kc) } else s)

/-! ### Starting a node (17 R260) -/

/-- A node has a result. -/
def State.nodeResult (s : State) (n : Nat) (r : Nat × Code × BitVec 48) : State :=
  { s with nodes := s.nodes.modify n fun x => { x with result := some r } }

/-- STARTED is written, by the chain's walker, and the node starts. -/
def State.markStarted (s : State) (n : Nat) (r : Root) (key : Nat) : State :=
  let u := (((s.nodes[n]?).bind fun x => s.chain? x.chain).map s.walkerUnit).getD (s.unit 80)
  { (s.numbered u (key + 2)).homeWrite (key + 2) (bytesOf 1 1) (s.vdTag r) with nodes := s.nodes.modify n fun x => { x with started := true } }

/-- A launch node starts, is rejected, or waits (07 R98; 23 R325, R333). -/
def State.startLaunchNode (s : State) (n : Nat) (x : Node) (r : Root) (key : Nat) : State :=
  let a := entArg x.entry
  match s.hdrReject r a, s.header r a with
    | some c, _ => s.nodeResult n (1, c, 0)
    | none, .error c => s.nodeResult n (1, c, 0)
    | none, .ok h =>
      if (s.overlap h).isSome then s.nodeResult n (1, STREAM_OVERLAP, 0)
      else if s.launchWaits h then s
      else (s.markStarted n r key).startLaunch
        { num := 0, hdr := h, haddr := BitVec.ofNat 56 a, root := r, ltag := BitVec.ofNat 16 (entSeq x.entry), node := some n, shares := [] } x.addr

/-- The engine and function of a command node. -/
def nodeEngine (ty : Nat) : Engine := if ty = 2 then .copy else if ty = 3 then .gather else .coll

/-- The command of a node, with copies of its descriptors; or its fault. -/
def State.nodeCmd (s : State) (n : Nat) (x : Node) (r : Root) : Except EFault Cmd :=
  match s.cmdRec r x.entry with
  | .error c => .error (c, BitVec.ofNat 64 (entArg x.entry))
  | .ok y =>
    let ty := entType x.entry
    let fn := bits y 0 6
    let m : Cmd := { id := s.nextCmd, eng := nodeEngine ty, fn := fn, co := none, launch := none, node := some n, root := r, p1 := BitVec.ofNat 32 (bits y 64 32), gdesc := BitVec.ofNat 56 (bits y 320 56) }
    let desc (lo : Nat) (used : Bool) : Except EFault Desc := if used then (s.cmdRead m (bits y lo 56 : Nat) 64).map (BitVec.ofNat 512) else .ok 0
    match desc 128 true, desc 192 (!(ty == 2 && fn == 1)), desc 256 (ty == 3) with
    | .ok d, .ok t, .ok i => .ok { m with td := d, ts := t, tx := i }
    | .error e, _, _ => .error e
    | _, .error e, _ => .error e
    | _, _, .error e => .error e

/-- ENGINE_FAULT of a command node: descriptors that are invalid, or that 17.5 and 17.6 refuse. -/
def nodeCmdBad (m : Cmd) : Bool :=
  let td : Desc := m.td
  let ts : Desc := m.ts
  let tx : Desc := m.tx
  let ok (t : Desc) : Bool := t.valid
  match m.eng with
  | .copy => !ok td || m.p1 != 0 || td.scm == 4 || (m.fn == 0 && (!ok ts || copyBad td ts))
  | .gather => !ok td || !ok ts || !ok tx || m.p1 != 0 || gatherBad m.fn td ts tx
  | _ => !ok td || !ok ts

/-- Descriptors of a command node must be global (17 R258). -/
def nodeLocal (m : Cmd) : Bool :=
  let td : Desc := m.td
  let ts : Desc := m.ts
  let tx : Desc := m.tx
  td.loc != 0 || ts.loc != 0 || tx.loc != 0

/-- What a collective's issue checks and does (17 R256): its group descriptor, and the addition to its COUNT. -/
def State.nodeColl (s : State) (m : Cmd) : Except EFault State :=
  if m.eng ≠ .coll then .ok s
  else if m.gdesc.toNat % 64 ≠ 0 then .error (ENGINE_FAULT, 0)
  else match s.groupDesc m.root m.gdesc.toNat with
    | .error e => .error e
    | .ok x =>
      if groupBad x || collBad m.fn m.td m.ts m.p1 (fget x 0 16) then .error (ENGINE_FAULT, 0)
      else match s.cmdRead m (fget x 64 56 + 2 * fget x 16 16 : Nat) 2 with
        | .error e => .error e
        | .ok n => if n ≠ s.modNum then .error (ENGINE_FAULT, 0)
          else s.cmdWrite m (m.gdesc.toNat + 16 : Nat) (bytesOf 8 ((fget x 128 64 + 1) % 2 ^ 64))

/-- A command node starts, or ends with the fault of its start (log entry 21). -/
def State.startCmdNode (s : State) (n : Nat) (x : Node) (r : Root) (key : Nat) : State :=
  match s.nodeCmd n x r with
  | .error e => (s.markStarted n r key).nodeResult n (2, e.1, 0)
  | .ok m =>
    if nodeLocal m then s.nodeResult n (1, 0, 0)
    else
      let s1 := s.markStarted n r key
      if nodeCmdBad m then s1.nodeResult n (2, ENGINE_FAULT, 0)
      else match s1.nodeColl m with
        | .error e => s1.nodeResult n (2, e.1, 0)
        | .ok s2 => { s2 with cmds := s2.cmds ++ [m], nextCmd := s2.nextCmd + 1 }

/-- A node whose PRED is 0 starts; a device that is stopped for migration starts none (25 R344), nor does a module in recovery (25
R350). -/
def State.startNode (s : State) (n : Nat) : State :=
  match s.nodes[n]? with
  | none => s
  | some x => match s.chain? x.chain with
    | none => s
    | some c =>
      if x.started || x.result.isSome || s.walkerWaits x.chain || s.rootStopped c.root || s.recovery then s
      else match s.agentXlate c.root x.addr.toNat .write with
        | .error e => s.await (.walker x.chain) c.root x.addr e
        | .ok key =>
          if s.homeRead (key + 1) 1 ≠ 0 then s
          else if entType x.entry = 0 then (s.markStarted n c.root key).nodeResult n (0, 0, 0)
          else if entType x.entry = 1 then s.startLaunchNode n x c.root key
          else s.startCmdNode n x c.root key

/-- `NODE_START` (17 R260). -/
def execNodeStart (n : Nat) (s : State) : Host.Outcome State Fault Refusal := .next (s.startNode n)

/-- `NODE_COMPLETE` (17 R260): everything of a launch node's launch has finished. -/
def execNodeComplete (n : Nat) (s : State) : Host.Outcome State Fault Refusal :=
  .next (match s.nodes[n]?, s.launches.find? fun l => l.node == some n with
    | some x, some l => if x.result.isNone && s.launchDone l then (s.freeLog l).nodeResult n (l.result.getD (0, 0, 0)) else s
    | _, _ => s)

/-! ### Publication (17 R260) -/

/-- An entry that the walker has yet to read comes before the node: it is read again after a migration (25 R345). -/
def State.unreadBefore (s : State) (x : Node) : Bool := (s.chain? x.chain).any fun c => match s.agentRead c.root (c.ccb.toNat + 32) 7 with
  | .error _ => false
  | .ok e => e != 0 && (match s.agentRead c.root (e + 16) 8 with
    | .error _ => false
    | .ok q => decide (q < entSeq x.entry))

/-- Every earlier node of the chain has published. -/
def State.publishTurn (s : State) (n : Nat) (x : Node) : Bool :=
  ((s.nodes.zipIdx).all fun p => p.2 == n || p.1.chain != x.chain || decide (entSeq x.entry < entSeq p.1.entry) || p.1.published) &&
  !s.unreadBefore x

/-- The completion of a chain's node as an event: the ring of the slot's function, or of the root's (25 R341). -/
def State.chainEvent (s : State) (c : Chain) (x : Node) (r : Nat × Code × BitVec 48) : State :=
  match c.slot with
  | some (f, j) => s.event f { src := 0, seq := entSeq x.entry, status := r.1, code := r.2.1, slot := j, addr := c.ccb.toNat }
  | none => s.event (rootFn c.root) { src := 0, seq := entSeq x.entry, status := r.1, code := r.2.1, slot := 0xFF, addr := c.ccb.toNat }

/-- A completion word is written as a device-scope release that covers every access of its node (13 R210): what the clusters hold
dirty goes to the home slices first. -/
def State.releaseAll (s : State) : State := s.clusters.foldl (fun (s : State) p => s.release (some p.1)) s

/-- A node publishes: its record, as a release, then its successors' decrements when STATUS is 0, then its interrupt. -/
def State.publish (s : State) (n : Nat) (x : Node) (c : Chain) (r : Nat × Code × BitVec 48) : State :=
  let a : AgentAct := .record (c.ccb + 16) (some (BitVec.ofNat 64 (entSeq x.entry))) (some (recHi r.1 r.2.1 r.2.2.toNat))
  let s1 : State := if x.recorded then s
    else { s.releaseAll.doAct c.root a with nodes := s.nodes.modify n fun x => { x with recorded := true } }
  if s1.behind a c.root then s1
  else
    let s2 := if r.1 = 0 then (List.range (entNsucc x.entry)).foldl (fun (s : State) m => s.doAct c.root (.decr (BitVec.ofNat 56 (entSucc x.entry m)))) s1 else s1
    let s3 := if entIrq x.entry then s2.chainEvent c x r else s2
    let s4 := match s3.launches.find? fun l => l.node == some n with
      | some l => s3.dropLaunch l.num
      | none => s3
    { s4 with nodes := s4.nodes.modify n fun x => { x with published := true } }

/-- `NODE_PUBLISH` (17 R260): a node with a result publishes in SEQ order; a digested launch is compared first (23 R330). -/
def execNodePublish (n : Nat) (s : State) : Host.Outcome State Fault Refusal :=
  .next (match s.nodes[n]? with
    | none => s
    | some x => match s.chain? x.chain, x.result with
      | some c, some r =>
        if x.published || !s.publishTurn n x || s.walkerWaits x.chain then s
        else match s.launches.find? fun l => l.node == some n && l.result.isNone && l.dslot.isSome with
          | none => s.publish n x c r
          | some l =>
            let s1 := s.digestEnd l (l.dslot.getD 0)
            match (s1.launch? l.num).bind fun l => l.result with
            | some r => s1.nodeResult n r
            | none => { s1 with nodes := s1.nodes.modify n fun x => { x with result := none } }
      | _, _ => s)

/-! ### Device-side launches (19 R274, R275) -/

/-- A launch that waits may be accepted now. -/
def State.offerOk (s : State) (l : Launch) : Bool := !s.launchWaits l.hdr && !s.rootStopped l.root

/-- `DEVICE_LAUNCH_ACCEPT` (19 R274): the n-th launch sent is accepted; one that must wait does not hold up those after it. -/
def execDeviceLaunchAccept (n : Nat) (s : State) : Host.Outcome State Fault Refusal :=
  .next (match s.offers[n]? with
    | none => s
    | some l =>
      if !s.offerOk l || (s.offers.take n).any (fun m => m.die == l.die && s.offerOk m) then s
      else
        let s1 := { s with offers := s.offers.eraseIdx n, nextCmd := s.nextCmd + 1 }
        s1.startLaunch { l with ltag := BitVec.ofNat 16 s.nextLaunch, cid := some s.nextCmd } l.haddr)

/-- A device-side launch completes as a command does (19 R275), after its digest has been compared (23 R330). -/
def State.completeLaunch (s : State) (l : Launch) : State :=
  if !s.launchDone l then s
  else
    let s1 := match l.dslot, l.result with
      | some i, none => s.digestEnd l i
      | _, _ => s
    match s1.launch? l.num with
    | none => s1
    | some l1 =>
      if l1.result.isNone ∧ l1.dslot.isSome then s1
      else
        let r := l1.result.getD (0, 0, 0)
        let s2 := (s1.freeLog l1).dropLaunch l1.num
        if l1.crec.toNat = 0 then s2
        else s2.releaseAll.doAct l1.root (.record l1.crec none (if r.1 = 0 then none else some (recHi r.1 r.2.1 r.2.2.toNat)))

/-- `COMMAND_COMPLETE` (17 R239, R261; 19 R275): a command, or a device-side launch, completes. -/
def execCommandComplete (id : Nat) (s : State) : Host.Outcome State Fault Refusal :=
  .next (match s.cmd? id with
    | some m => s.completeCmd m
    | none => match s.launches.find? fun l => l.cid == some id with
      | some l => s.completeLaunch l
      | none => s)

end Sys2Proof.Machine
end

