-- ==== Sys2Proof/Machine/Work.lean ====
section
/-! DEFINITION. Spawned items, the Cradle and task groups (19.2); device-side launches (19.3). -/
namespace Sys2Proof.Machine

/-! ### Spawn (19 R268, R269) -/

/-- `%tdepth` of a lane. -/
def Ctx.depth (c : Ctx) (l : Nat) : Nat := ((c.item l).map (·.depth)).getD 0

/-- The address of an entry descriptor. -/
def Ctx.entryAt (c : Ctx) (e : Nat) : Int := (c.co.kb + e : Nat) - 16

/-- The four loads of an entry descriptor, lowest first: the first that faults. -/
def entryFault (c : Ctx) (s : State) (e : Nat) : Option Trap :=
  (List.range 4).findSome? fun i =>
    let a := (c.entryAt e).toNat + 4 * i
    match s.laneAccess c.co .read 4 a with
    | .error x => some { code := x, addr := BitVec.ofNat 64 a }
    | .ok _ => none

/-- An entry descriptor (19 Table 19.2). -/
def entryDesc (c : Ctx) (s : State) (e : Nat) : Nat :=
  ofBytes ((List.range 4).flatMap fun i => s.loadBytes c.co ((c.entryAt e).toNat + 4 * i) 4)

/-- Its checks. -/
def descBad (d : Nat) : Bool :=
  fget d 5 27 != 0 || fget d 53 75 != 0 || fget d 0 5 == 0 || decide (16 < fget d 0 5) || decide (2 ^ 20 < fget d 32 21)

/-- The item of a lane (19 R269, R270). -/
def Ctx.mkItem (c : Ctx) (launch e d : Nat) (a0 a1 : Word) (l : Nat) : CradleItem :=
  { launch := launch, entry := e, arg0 := a0, arg1 := a1, depth := c.depth l + 1, iid := Sparse.get 0 c.gr.iids l, cseq := c.cutSeq l,
    org := ((c.item l).map (·.org)).getD c.co.org, ext := ((c.item l).map (·.ext)).getD c.co.ext, vol := c.cutVol l, wave := c.cutWave l,
    rb := fget d 0 5, scr := fget d 32 21, lcell := c.co.lcell }

/-- A spawn word: `lanes` says whose items it makes, `args` their arguments; a core with no launch makes none (log entry 31). -/
def spawnWord (word : Nat) (wf guard : Bool) (vr : List Nat) (e : BitVec 6) (lanes : Ctx → List Nat) (args : Ctx → Nat → Word × Word)
    (s : State) : Host.Outcome State Fault Refusal :=
  let off (c : Ctx) : Nat := (c.gr.getS e.toNat).toNat
  let check (c : Ctx) (s : State) : Option Trap :=
    if off c % 4 ≠ 0 ∨ off c < 16 then some { code := ALIGNMENT }
    else match entryFault c s (off c) with
      | some t => some t
      | none =>
        if descBad (entryDesc c s (off c)) ∨ c.co.launch = none then some { code := ENGINE_FAULT }
        else ((lanes c).find? fun l => 8 < c.depth l + 1).map fun l =>
          { code := SPAWN_DEPTH, lane := some l, detail := BitVec.ofNat 48 (c.depth l + 1) }
  issueFull { word := word, wf := wf, vr := vr, guard := guard, noMod := true, reads := true, rel := true }
    (fun c s => (off c % 4 == 0 && decide (16 ≤ off c) && s.noLinkAt c.co .read 4 ((List.range 4).map fun i => (c.entryAt (off c)).toNat + 4 * i)) ||
      ((check c s).isNone && decide (65536 < (s.items c.co.die).length + (lanes c).length))) check
    (fun c s =>
      let d := entryDesc c s (off c)
      let its := (lanes c).map fun l => c.mkItem (c.co.launch.getD 0) (off c) d (args c l).1 (args c l).2 l
      let s1 := (List.range 4).foldl (fun (s : State) i => s.touch c.co .read ((c.entryAt (off c)).toNat + 4 * i)) (s.release (s.clusterOf c.co))
      { s1 with cradle := Sparse.set [] s1.cradle c.co.die (s1.items c.co.die ++ its) })
    (fun _ s => s) s

/-- `spawn sE, vA` (19 R269). -/
def execSpawn (e a : BitVec 6) (s : State) : Host.Outcome State Fault Refusal :=
  spawnWord (encSpawn e a) (even a) true [a.toNat, a.toNat + 1] e (fun c => lanesOf c.partH)
    (fun c l => (c.gr.getV a.toNat l, c.gr.getV (a.toNat + 1) l)) s

/-- `spawn.u sE, sA` (19 R269): one item, of the lowest lane of Active(split). With no active lane, which R269 does not speak of, the
item is made all the same and takes the depth and the identity of lane 0 (DESIGN CHOICE, log entry 159). -/
def execSpawnU (e a : BitVec 6) (s : State) : Host.Outcome State Fault Refusal :=
  spawnWord (encSpawnU e a) (even a) false [] e (fun c => [(lanesOf c.sp.mask).headD 0])
    (fun c _ => (c.gr.getS a.toNat, c.gr.getS (a.toNat + 1))) s

/-! ### Task groups (19 R270 to R272) -/

/-- Items of a die's Cradle for a launch and an entry. -/
def State.packable (s : State) (die l e : Nat) : List CradleItem := (s.items die).filter fun i => i.launch == l && i.entry == e

/-- The items left when some have been taken. -/
def takeItems (l e : Nat) : Nat → List CradleItem → List CradleItem
  | _, [] => []
  | n, i :: t => if i.launch = l ∧ i.entry = e ∧ 0 < n then takeItems l e (n - 1) t else i :: takeItems l e n t

/-- The cohort of a task group. -/
def mkTask (id : Nat) (l : Launch) (die e : Nat) (its : List CradleItem) : Option Cohort :=
  its.head?.map fun i0 =>
    let m := maskOf (List.range its.length)
    let lanes : List (Nat × CradleItem) := its.zipIdx.map fun p => (p.2, p.1)
    let g : Group := {
      index := 0, slot := 0, role := 0, budget := i0.rb, valid := m
      iids := lanes.filterMap fun p => if p.2.iid = 0 then none else some (p.1, p.2.iid)
      splits := [{ live := true, pc := BitVec.ofNat 56 (hEntry l.hdr + e), mask := m }, {}, {}, {}]
      items := lanes.map fun p => (p.1, some p.2)
      dg := if l.dslot.isSome then lanes.map fun p => (p.1, some { a := p.2.iid, b := BitVec.ofNat 64 (2 ^ 48 + p.2.depth) }) else [] }
    let c : Cohort := {
      id := id, launch := some l.num, kind := .task, hdr := l.hdr, root := l.root, ltag := l.ltag, die := die, lcell := 0, cseq := l.tasks
      org := i0.org, ext := i0.ext, vol := i0.vol, wave := i0.wave, ngroups := 1, groups := [g], z := i0.scr }
    { c with cls := blockClass c.blockSize }

/-- Dispatch of a task group to the best eligible cell, with its context block. -/
def State.dispatchTask (s : State) (l : Launch) (die e : Nat) : Option State :=
  (mkTask s.nextCohort l die e ((s.packable die l.num e).take 32)).bind fun c =>
    (s.bestCell (c.needs true)).bind fun x => (s.poolPop die c.cls).map fun p =>
      let s1 := (p.2.place { c with ctx := BitVec.ofNat 56 p.1 } x l.hdr).initBlock { c with ctx := BitVec.ofNat 56 p.1, lcell := x }
      let s2 : State := { s1 with
        nextCohort := s1.nextCohort + 1, aged := s1.aged.filter fun t => t != (die, l.num, e)
        cradle := Sparse.set [] s1.cradle die (takeItems l.num e 32 (s1.items die)) }
      s2.updLaunch l.num fun l => { l with tasks := l.tasks + 1 }

/-- `TASK_GROUP_DISPATCH` (19 R270): 32 items, or a group released by age, go to a cell. -/
def execTaskGroupDispatch (die l e : Nat) (s : State) : Host.Outcome State Fault Refusal :=
  .next (match s.launch? l with
    | none => s
    | some x =>
      let n := (s.packable die l e).length
      if (32 ≤ n ∨ (0 < n ∧ s.aged.contains (die, l, e) = true)) ∧ (s.rootStopped x.root || s.recovery || (x.rerun.isSome && s.inFlight l)) = false then (s.dispatchTask x die e).getD s else s)

/-- `CRADLE_AGE_EXPIRY` (19 R270): the oldest item of a group has waited 256 fabric cycles, 320 cell cycles. -/
def execCradleAgeExpiry (die l e : Nat) (s : State) : Host.Outcome State Fault Refusal :=
  .next (if (s.packable die l e).isEmpty ∨ s.aged.contains (die, l, e) = true then s
    else { s with time := s.time + 320, aged := s.aged ++ [(die, l, e)] })

/-! ### Device-side launch (19 R273 to R275) -/

/-- Device-side launches of a die that have not completed. -/
def State.children (s : State) (die : Nat) : Nat :=
  (s.offers.filter fun l => l.die == die).length + (s.launches.filter fun l => l.cid.isSome && l.die == die).length

/-- The child of a lane, or its trap. -/
def Ctx.child (c : Ctx) (s : State) (a : BitVec 6) (crec : VAddr) (l : Nat) : Except Trap Launch :=
  let h := (c.gr.getV2 a.toNat l).toNat
  let trap (code : Code) (d : Nat) : Except Trap Launch := .error { code := code, lane := some l, addr := BitVec.ofNat 64 h, detail := BitVec.ofNat 48 d }
  if h % 128 ≠ 0 then trap ALIGNMENT 0
  else match s.laneAccess c.co .read 128 h with
    | .error e => trap ENGINE_FAULT e
    | .ok _ =>
      let hdr : BitVec 1024 := BitVec.ofNat 1024 (ofBytes (s.loadBytes c.co h 128))
      if !headerOk hdr then trap ENGINE_FAULT 0
      else match s.overlap hdr with
        | some n => .error { code := STREAM_OVERLAP, lane := some l, detail := BitVec.ofNat 48 n }
        | none => .ok { num := 0, hdr := hdr, haddr := BitVec.ofNat 56 h, root := c.co.root, ltag := 0, node := none, die := c.co.die,
                        crec := crec, shares := [] }

/-- The children of the participating lanes, in ascending order, each registered before the next is checked; or the lowest
lane's trap. -/
def Ctx.childrenOf (c : Ctx) (a : BitVec 6) (crec : VAddr) : List Nat → State → Except Trap State
  | [], s => .ok s
  | l :: t, s =>
    match c.child s a crec l with
    | .error e => .error e
    | .ok x => c.childrenOf a crec t { s.touch c.co .read (c.gr.getV2 a.toNat l).toNat with offers := s.offers ++ [x] }

/-- `launch [vA], sC` (19 R273 to R275). -/
def execLaunch (a c' : BitVec 6) (s : State) : Host.Outcome State Fault Refusal :=
  let crec (c : Ctx) : Nat := (c.gr.getS2 c'.toNat).toNat
  let make (c : Ctx) (s : State) := c.childrenOf a (BitVec.ofNat 56 (crec c)) (lanesOf c.partH) s
  let check (c : Ctx) (s : State) : Option Trap :=
    if crec c % 16 ≠ 0 then some { code := ALIGNMENT, addr := BitVec.ofNat 64 (crec c) }
    else if 2 ^ 56 ≤ crec c then some { code := PROTECTION, addr := BitVec.ofNat 64 (crec c) }
    else match make c s with
      | .error t => some t
      | .ok _ => none
  issueFull { word := encLaunch a c', wf := even a && even c', vr := [a.toNat, a.toNat + 1], guard := true, noMod := true, reads := true, rel := true }
    (fun c s => (crec c % 16 == 0 && decide (crec c < 2 ^ 56) && s.noLink c.co .read 128 ((lanesOf c.partH).map fun l => (l, (c.gr.getV2 a.toNat l).toNat))) || (check c s).isNone && decide (1024 < s.children c.co.die + (lanesOf c.partH).length)) check
    (fun c s => match make c s with
      | .ok s1 => s1.release (s1.clusterOf c.co)
      | .error _ => s)
    (fun _ s => s) s

end Sys2Proof.Machine
end

