-- ==== Sys2Proof/Machine/Winze.lean ====
section
/-! DEFINITION. The Winze (19.5): recursion objects, frames, the order of the work items, `recurse` and `wkids`. -/
namespace Sys2Proof.Machine

/-! ### Objects and frames (19 Tables 19.5, 19.6) -/

/-- A recursion object is invalid (19 R283). -/
def objBad (o : Nat) : Bool :=
  [(115, 5), (127, 1), (184, 8), (256, 256)].any (fun p => fget o p.1 p.2 != 0) ||
  fget o 0 32 % 4 != 0 || fget o 32 32 % 4 != 0 || fget o 64 32 % 4 != 0 || fget o 112 3 == 0 || decide (4 < fget o 112 3) ||
  fget o 120 7 == 0 || decide (64 < fget o 120 7) || fget o 96 16 % 32 != 0 || decide (4096 < fget o 96 16) || fget o 128 56 % 32 != 0 ||
  decide (fget o 192 64 < 32 + fget o 96 16)

/-- N, the frames of the arena (19 R284). -/
def WinzeRun.n (w : WinzeRun) : Nat := w.asize / (32 + w.fsz)

/-- S, the switch-over point (19 R285). -/
def WinzeRun.s (w : WinzeRun) : Nat := 32 * w.gw

/-- The address of a frame's header. -/
def WinzeRun.headerAt (w : WinzeRun) (f : Nat) : Nat := w.arena + f * (32 + w.fsz)

/-- STATE of a frame. -/
def Frame.state (f : Frame) : Nat := if f.stage = .done then 3 else if f.nkid = 0 then 1 else 2

/-- The fields of a new frame's header, bytes 0 to 23 (19 Table 19.6). -/
def frameBytes (parent cidx depth : Nat) : List Byte :=
  bytesOf 4 parent ++ [1, 0, BitVec.ofNat 8 cidx, BitVec.ofNat 8 depth] ++ bytesOf 16 (2 ^ 128 - 1)

/-- A frame's header cannot be written: the fault of its store (15 R216). -/
def headerFault (s : State) (c : Cohort) (w : WinzeRun) (f : Nat) : Option (Code × Nat) :=
  match s.laneAccess c .write 32 (w.headerAt f) with
  | .error e => some (e, w.headerAt f)
  | .ok _ => none

def WinzeRun.setFrame (w : WinzeRun) (f : Nat) (x : Option Frame) : WinzeRun := { w with frames := Sparse.set none w.frames f x }

def WinzeRun.updFrame (w : WinzeRun) (f : Nat) (g : Frame → Frame) : WinzeRun := w.setFrame f ((w.frame? f).map g)

def WinzeRun.stage (w : WinzeRun) (f : Nat) : Stage := ((w.frame? f).map (·.stage)).getD .idle

/-- Children of a frame. -/
def Frame.kids (f : Frame) : List Nat := (List.range f.nkid).map fun j => f.kid0 + j

/-! ### The order of the items (19 R286) -/

/-- The level is done: every divide of it has ended. -/
def WinzeRun.levelDone (w : WinzeRun) : Bool := w.df.isNone && !w.level.isEmpty && w.level.all fun f => match w.stage f with
  | .idle => false
  | .divide => false
  | .dividing => false
  | _ => true

/-- The next level, or the switch to the depth-first phase. -/
def WinzeRun.advance (w : WinzeRun) : WinzeRun :=
  if !w.levelDone then w
  else
    let next := w.level.flatMap fun f => ((w.frame? f).map Frame.kids).getD []
    if next.length < w.s then
      next.foldl (fun (w : WinzeRun) f => w.updFrame f fun x => { x with stage := .divide }) { w with level := next }
    else
      let n := min next.length w.s
      let k := (w.n - w.b) / n
      let ws : List Worker := (List.range n).map fun i =>
        { base := w.b + i * k, roots := (next.zipIdx.filter fun p => p.2 % n == i).map fun p => p.1 }
      next.zipIdx.foldl (fun (w : WinzeRun) p => w.updFrame p.1 fun x => { x with worker := some (p.2 % n) })
        { w with level := [], df := some k, workers := ws }

/-- Each worker goes on to its next root. -/
def WinzeRun.roots (w : WinzeRun) : WinzeRun :=
  let step (x : Worker) : Worker := { x with roots := x.roots.dropWhile fun r => w.stage r == .done }
  let w1 : WinzeRun := { w with workers := w.workers.map step }
  (w1.workers.filterMap fun (x : Worker) => x.roots.head?).foldl (fun (w : WinzeRun) r =>
    w.updFrame r fun x => if x.stage = .idle then { x with stage := .divide } else x) w1

/-- A frame whose next child is done is ready to combine; a worker's next child is ready to divide. -/
def WinzeRun.follow (w : WinzeRun) : WinzeRun :=
  (w.frames.map fun p => p.1).foldl (fun (w : WinzeRun) f =>
    match w.frame? f with
    | none => w
    | some x =>
      if x.stage ≠ .kids then w
      else
        let c := x.kid0 + x.next
        if w.stage c = .done then w.updFrame f fun x => { x with stage := .combine }
        else if x.worker.isSome ∧ w.stage c = .idle then w.updFrame c fun y => { y with stage := .divide }
        else w) w

def WinzeRun.settle (w : WinzeRun) : WinzeRun := w.advance.roots.follow

/-- Ready items of a routine, by frame: frame and child. -/
def WinzeRun.ready (w : WinzeRun) (rout : Nat) : List (Nat × Nat) :=
  w.frames.filterMap fun p => p.2.bind fun f =>
    if f.stage = (if rout = 0 then .divide else if rout = 1 then .base else .combine) then some (p.1, if rout = 2 then f.next else 0) else none

/-- The stage of a frame whose item runs. -/
def runStage (rout : Nat) : Stage := if rout = 0 then .dividing else if rout = 1 then .basing else .combining

/-- A frame is done: its STATE is written. -/
def State.frameDone (s : State) (c : Cohort) (w : WinzeRun) (f : Nat) : State := s.storeBytes c (w.headerAt f + 4) [3]

/-- The item of a lane has ended (19 R286, R288). -/
def WinzeRun.endItem (w : WinzeRun) (i : WItem) : WinzeRun :=
  match w.frame? i.frame with
  | none => w
  | some f =>
    if i.rout = 0 then w.updFrame i.frame fun x => { x with settled := true, stage := if x.nkid = 0 then .base else .kids }
    else if i.rout = 1 then w.updFrame i.frame fun x => { x with stage := .done }
    else if f.next + 1 < f.nkid then w.updFrame i.frame fun x => { x with next := x.next + 1, stage := .kids }
    else
      let w1 := w.updFrame i.frame fun x => { x with next := x.next + 1, stage := .done }
      match f.worker with
      | none => w1
      | some k => f.kids.foldl (fun (w : WinzeRun) j => w.setFrame j none)
          { w1 with workers := w1.workers.modify k fun x => { x with used := x.used - f.nkid } }

/-- A run begins (19 R285): frame 0's header, with STATE 1, and the release. -/
def State.beginRun (s : State) (c : Cohort) (w : WinzeRun) : State :=
  let s1 := s.storeBytes c (w.headerAt 0) (frameBytes (2 ^ 32 - 1) 0 0)
  (s1.release (s1.clusterOf c)).updCo c.id fun co => { co with run := some w }

/-- The `recurse` of a run that was waiting traps where its frame 0 cannot be written now. -/
def State.turnAway (s : State) (co : Nat) (w : WinzeRun) (e : Code × Nat) : State :=
  let v : Who := ⟨co, w.gi, w.si⟩
  let s1 := s.updSp v fun x => { x with wait := .none }
  match { s1 with focus := some v }.ctx? with
  | none => s1
  | some cx => { s1.raise cx w.word.toNat { code := e.1, addr := BitVec.ofNat 64 e.2 } with focus := s.focus }

/-- The run that has waited longest begins, once the one before it has ended (19 R285). -/
def State.nextRun (co : Nat) : List WinzeRun → State → State
  | [], s => s.updCo co fun c => { c with queued := [] }
  | w :: t, s => match s.cohort? co with
    | none => s
    | some c => match headerFault s c w 0 with
      | none => (s.updCo co fun c => { c with queued := t }).beginRun c w
      | some e => State.nextRun co t (s.turnAway co w e)

/-- End the items of some lanes of a Winze group, and the run with its root (19 R285, R288). -/
def State.endItems (s : State) (co gi : Nat) (ls : List Nat) : State :=
  match s.cohort? co, s.group? co gi with
  | some c, some g =>
    match c.run with
    | none => s
    | some w =>
      let items := ls.filterMap fun l => Sparse.get none g.wz l
      if items.isEmpty then s
      else
        let w1 := (items.foldl WinzeRun.endItem w).settle
        let done := (items.map fun i => i.frame).filter fun f => w1.stage f == .done
        let s1 := done.foldl (fun (s : State) f => s.frameDone c w f) s
        let s2 := s1.updGr ⟨co, gi, 0⟩ fun g => { g with wz := ls.foldl (fun (m : Sparse (Option WItem)) l => Sparse.set none m l none) g.wz }
        if w1.stage 0 = .done then
          State.nextRun co c.queued ((s2.updCo co fun c => { c with run := none }).updSp ⟨co, w.gi, w.si⟩ fun x =>
            if x.wait = .recurse then x.next else x)
        else s2.updCo co fun c => { c with run := some w1 }
  | _, _ => s

/-! ### Winze groups (19 R286) -/

/-- Winze groups of a cohort that run. -/
def Cohort.winzeLive (c : Cohort) : Nat := ((c.groups.drop c.ngroups).filter fun g => !g.fin).length

/-- The routine whose items go next, and its offset. -/
def WinzeRun.nextRoutine (w : WinzeRun) : Option (Nat × Word) :=
  [(0, BitVec.ofNat 32 w.div), (1, BitVec.ofNat 32 w.bas), (2, BitVec.ofNat 32 w.cmb)].find? fun p => !(w.ready p.1).isEmpty

/-- The place of the next Winze group: that of a finished one, or a new one. -/
def Cohort.winzePlace (c : Cohort) : Nat := ((List.range (c.groups.length - c.ngroups)).find? fun i =>
  (c.groups[c.ngroups + i]?).any fun g => g.fin).elim c.groups.length fun i => c.ngroups + i

/-- A Winze group at a place; its lanes' identities are free values (log entry 32). -/
def mkWinze (c : Cohort) (w : WinzeRun) (dig : Bool) (at_ slot rout : Nat) (off : Word) (items : List (Nat × Nat)) (free : Nat) : Group :=
  let m := maskOf (List.range items.length)
  let lanes : List (Nat × Nat × Nat) := items.zipIdx.map fun p => (p.2, p.1.1, p.1.2)
  let iid (l : Nat) : BitVec 64 := Config.freeValue (free + l)
  { index := c.slotsG + (at_ - c.ngroups), slot := slot, role := 0, budget := c.rb, valid := m,
    iids := (lanes.map fun p => (p.1, iid p.1)).filter fun p => p.2 != 0
    splits := [{ live := true, pc := BitVec.ofNat 56 (c.kb + off.toNat), mask := m }, {}, {}, {}]
    wz := lanes.map fun p => (p.1, some { rout := rout, frame := p.2.1, kid := p.2.2 })
    dg := if dig then lanes.map fun p => (p.1, some {
      a := w.iid, b := BitVec.ofNat 64 (2 ^ 40 + 8 * p.2.1 + (if rout = 2 then 2 + p.2.2 else rout)) }) else [] }

/-- The cell has a slot and the registers for one more group of the cohort. -/
def State.winzeRoom (s : State) (c : Cohort) : Bool :=
  c.isHF || (let gs := s.cellGroups (s.pcell c.lcell)
             decide (gs.length < 48) && decide ((gs.map fun g => g.budget).sum + c.rb ≤ 512))

/-- `WINZE_GROUP_START` (19 R286): up to 32 ready items of one routine start in a Winze group. A group in the place of a finished one has
a set of its own, with no expansion (19 R276). -/
def execWinzeGroupStart (co : Nat) (s : State) : Host.Outcome State Fault Refusal :=
  .next (match s.cohort? co with
    | none => s
    | some c => match c.run with
      | none => s
      | some w => match w.nextRoutine with
        | none => s
        | some (rout, off) =>
          if c.status ≠ .resident ∨ s.stopped c ∨ c.groups.any (fun g => g.halt) ∨ w.gw ≤ c.winzeLive ∨ s.winzeRoom c = false then s
          else
            let items := (w.ready rout).take 32
            let p := c.winzePlace
            let slot := if c.isHF then 0 else (s.freeSlots (s.pcell c.lcell)).headD 48
            let g := mkWinze c w (s.dslotOf c).isSome p slot rout off items s.free
            let w1 := items.foldl (fun (w : WinzeRun) i => w.updFrame i.1 fun x => { x with stage := runStage rout }) w
            ({ s with free := s.free + 32, stalled := [] } : State).updCo co fun c =>
              { c with run := some w1, sets := c.sets.filter fun st => st.k != 1 || st.first != g.index
                       groups := if p < c.groups.length then c.groups.set p g else c.groups ++ [g] })

/-! ### `recurse` (19 R285) -/

/-- A run from a valid object. -/
def mkRun (c : Ctx) (o : Nat) (word : Nat) : WinzeRun :=
  { gi := c.who.gi, si := c.who.si, word := BitVec.ofNat 32 word, div := fget o 0 32, bas := fget o 32 32, cmb := fget o 64 32, fan := fget o 112 3,
    maxd := fget o 120 7, fsz := fget o 96 16, arena := fget o 128 56, asize := fget o 192 64,
    gw := winzeGroups c.co.ngroups c.co.rb, iid := Sparse.get 0 c.gr.iids ((lanesOf c.sp.mask).headD 0),
    frames := [(0, some { parent := none, cidx := 0, depth := 0, stage := .divide })] }

/-- `recurse [sO]`: the object is read and checked; while another run of the cohort is in progress the new one waits for it to end;
the split waits until the root's STATE is 3. -/
def execRecurse (o : BitVec 6) (s : State) : Host.Outcome State Fault Refusal :=
  let addr (c : Ctx) : Nat := (c.gr.getS2 o.toNat).toNat
  let obj (c : Ctx) (s : State) : Nat := ofBytes (s.loadBytes c.co (addr c) 64)
  let check (c : Ctx) (s : State) : Option Trap :=
    match s.laneAccess c.co .read 64 (addr c) with
    | .error e => some { code := e, addr := BitVec.ofNat 64 (addr c) }
    | .ok _ =>
      if objBad (obj c s) then some { code := ENGINE_FAULT }
      else (headerFault s c.co (mkRun c (obj c s) (encRecurse o)) 0).map fun e => { code := e.1, addr := BitVec.ofNat 64 e.2 }
  issueFull { word := encRecurse o, wf := even o, noMod := true, noHandler := true, reads := true, hold := true, rel := true }
    (fun c s => s.noLinkAt c.co .read 64 [addr c]) check
    (fun c s =>
      let w := mkRun c (obj c s) (encRecurse o)
      let s1 := s.touch c.co .read (addr c)
      (if c.co.run.isSome then s1.updCo c.who.co fun co => { co with queued := co.queued ++ [w] } else s1.beginRun c.co w).updSp c.who
        fun x => { x with wait := .recurse })
    (fun _ s => s) s

/-! ### `wkids` (19 R287) -/

/-- A lane's divide item that has not asked yet. -/
def Ctx.divide? (c : Ctx) (l : Nat) : Option Nat := match Sparse.get none c.gr.wz l with
  | some i => if i.rout = 0 ∧ i.asked = false then some i.frame else none
  | none => none

/-- A lower frame of the level has not issued `wkids` or ended, and is not among the frames of this issue. -/
def WinzeRun.mustWait (w : WinzeRun) (fs : List Nat) : Bool :=
  w.df.isNone && fs.any fun f => w.level.any fun g => decide (g < f) && !fs.contains g && !((w.frame? g).any fun x => x.settled)

/-- The next free frame for the children of f: in the breadth-first phase B, else in its worker's stack. -/
def WinzeRun.nextFree (w : WinzeRun) (f : Nat) : Nat := match (w.frame? f).bind (·.worker) with
  | none => w.b
  | some k => match w.workers[k]? with
    | none => w.b
    | some x => x.base + x.used

/-- There is no room for c children of f. -/
def WinzeRun.full (w : WinzeRun) (f c : Nat) : Bool := match (w.frame? f).bind (·.worker) with
  | none => decide (w.n < w.b + c)
  | some k => match w.workers[k]?, w.df with
    | some x, some d => decide (d < x.used + c)
    | _, _ => true

/-- Allocate c children of f. -/
def WinzeRun.alloc (w : WinzeRun) (f c : Nat) : WinzeRun :=
  match w.frame? f with
  | none => w
  | some x =>
    let k0 := w.nextFree f
    let w1 : WinzeRun := match x.worker with
      | none => { w with b := w.b + c }
      | some k => { w with workers := w.workers.modify k fun y => { y with used := y.used + c } }
    (List.range c).foldl (fun (w : WinzeRun) j => w.setFrame (k0 + j) (some { parent := some f, cidx := j, depth := x.depth + 1, worker := x.worker }))
      (w1.updFrame f fun x => { x with nkid := c, kid0 := k0, settled := true })

/-- The lanes' requests in ascending order: the run after them, with each lane's value; or the lane that finds no room. -/
def WinzeRun.allocAll : List (Nat × Nat × Nat) → WinzeRun → Except (Nat × Nat) (WinzeRun × List (Nat × Word))
  | [], w => .ok (w, [])
  | (l, f, c) :: t, w =>
    if c = 0 then (WinzeRun.allocAll t (w.updFrame f fun x => { x with settled := true })).map fun r => (r.1, (l, 0xFFFFFFFF#32) :: r.2)
    else if w.full f c then .error (l, w.nextFree f)
    else (WinzeRun.allocAll t (w.alloc f c)).map fun r => (r.1, (l, BitVec.ofNat 32 (w.nextFree f)) :: r.2)

/-- The header writes of a frame's new children, and of the frame itself (19 R284). -/
def State.writeKids (s : State) (c : Cohort) (w : WinzeRun) (f : Nat) : State :=
  match w.frame? f with
  | none => s
  | some x =>
    if x.nkid = 0 then s
    else
      let s1 := (x.kids.zipIdx).foldl (fun (s : State) p => s.storeBytes c (w.headerAt p.1) (frameBytes f p.2 (x.depth + 1))) s
      let s2 := s1.storeBytes c (w.headerAt f + 4) [2, BitVec.ofNat 8 x.nkid]
      s2.storeBytes c (w.headerAt f + 8) (x.kids.flatMap fun k => bytesOf 4 k)

/-- `wkids vD <- vC` (19 R287). -/
def execWkids (a d : BitVec 6) (l : BitVec 4) (s : State) : Host.Outcome State Fault Refusal :=
  let q : Req := { word := encWkids a d l, vr := [a.toNat, d.toNat], vw := [d.toNat], guard := true, noMod := true, noHandler := true, look := l.toNat }
  let ls (c : Ctx) : List Nat := lanesOf c.partH
  let reqs (c : Ctx) : List (Nat × Nat × Nat) := (ls c).map fun l => (l, (c.divide? l).getD 0, (c.gr.getV a.toNat l).toNat)
  let depth (w : WinzeRun) (f : Nat) : Nat := ((w.frame? f).map (·.depth)).getD 0
  issueFull q
    (fun c _ => (ls c).all (fun l => (c.divide? l).isSome) && c.co.run.any fun w => w.mustWait ((reqs c).map fun r => r.2.1))
    (fun c s =>
      match (ls c).find? fun l => (c.divide? l).isNone || c.co.run.isNone with
      | some l => some { code := ILLEGAL, lane := some l }
      | none => match c.co.run with
        | none => none
        | some w => match (reqs c).find? fun r => decide (w.fan < r.2.2) with
          | some r => some { code := ENGINE_FAULT, lane := some r.1 }
          | none => match (reqs c).find? fun r => r.2.2 != 0 && decide (w.maxd ≤ depth w r.2.1 + 1) with
            | some r => some { code := DEPTH_OVERFLOW, lane := some r.1, detail := BitVec.ofNat 48 (depth w r.2.1) }
            | none => match WinzeRun.allocAll (reqs c) w with
              | .error e => some { code := ARENA_FULL, lane := some e.1, detail := BitVec.ofNat 48 e.2 }
              | .ok (w1, _) => ((reqs c).filter fun r => r.2.2 != 0).findSome? fun r => match w1.frame? r.2.1 with
                | none => none
                | some x => (r.2.1 :: x.kids).findSome? fun f => (headerFault s c.co w f).map fun e =>
                    { code := e.1, lane := some r.1, addr := BitVec.ofNat 64 e.2 })
    (fun c s => match c.co.run with
      | none => s
      | some w => match WinzeRun.allocAll (reqs c) w with
        | .error _ => s
        | .ok (w1, vs) =>
          let s1 := (reqs c).foldl (fun (s : State) r => s.writeKids c.co w1 r.2.1) s
          let s2 := s1.updCo c.who.co fun co => { co with run := some w1.settle }
          s2.updGr c.who fun g =>
            let g1 : Group := { g with wz := (ls c).foldl (fun (m : Sparse (Option WItem)) l =>
              Sparse.set none m l ((Sparse.get none m l).map fun i => { i with asked := true })) g.wz }
            g1.result c.who.si { c.window q d.toNat 1 c.partH with vals := vs.map fun p => (32 * d.toNat + p.1, p.2) })
    (fun _ s => s) s

end Sys2Proof.Machine
end

