-- ==== Sys2Proof/Machine/Finish.lean ====
section
/-! DEFINITION. The end of lanes, splits, groups and cohorts: `exit` (11 R165), `wret` (19 R288), and what a Faceter is told of
a finished cohort (07 R105, R106). -/
namespace Sys2Proof.Machine

/-! ### Lanes (11 R151) -/

/-- Lanes leave the stack: out of MASK and ARR; an entry left with no lane goes. -/
def Group.dropLanes (g : Group) (m : Word) : Group :=
  { g with stack := (g.stack.map fun e => { e with mask := e.mask &&& ~~~m, arr := e.arr &&& ~~~m }).filter fun e => e.mask != 0 }

/-- Other splits lose the lanes; one that is left with none ends. -/
def Group.dropOthers (g : Group) (si : Nat) (m : Word) : Group :=
  { g with splits := g.splits.zipIdx.map fun p =>
      if p.2 = si ∨ !p.1.live ∨ p.1.mask &&& m = 0 then p.1
      else if p.1.mask &&& ~~~m = 0 then {} else { p.1 with mask := p.1.mask &&& ~~~m } }

/-- JOIN entries whose lanes have all arrived complete (11 R151, R160). -/
def Group.completeAll (g : Group) : Group :=
  (g.stack.filter fun e => e.kind == .join && e.arr == e.mask).foldl (fun g e => if g.stack.contains e then g.complete e else g) g

/-- The split of lanes that have ended: it takes a DEFER entry that is its T, or ends (11 R165). -/
def Group.endSplit (g : Group) (si : Nat) : Group :=
  match g.top? si with
  | some e => if e.kind = .defer then (g.updSp si fun x => { x with mon := {}, windows := [] }).takeDefer si e else g.updSp si fun _ => {}
  | none => g.updSp si fun _ => {}

/-- The group has finished (11 R165). -/
def Group.isOver (g : Group) : Bool := g.liveCount == 0 && !g.stack.any fun e => e.kind == .defer

/-- A receiver lane closes what is left to it, in the expansion of each set that it has been in (19 R278). -/
def Cohort.leaveSluice (c : Cohort) (gidx l : Nat) : Cohort := { c with sets := c.sets.map (SluiceSet.leave gidx l) }

/-- What a lane's end closes: its digest contexts, its Sluice share (19 R278; 23 R328). -/
def State.leaveLane (s : State) (w : Who) (gidx : Nat) (l : Nat) : State :=
  ((s.closeLane w.co w.gi l).closeLane w.co w.gi l).updCo w.co fun c => c.leaveSluice gidx l

/-! ### Groups and cohorts -/

/-- The members of a co-dealing set that have not finished. -/
def Cohort.setMembers (c : Cohort) (k first : Nat) : List Nat :=
  ((c.groups.take c.ngroups).filter fun g => !g.fin && decide (first ≤ g.index) && decide (g.index < first + k)).map fun g => g.index

/-- A group has finished: a set whose other members have all issued `xpand` forms its expansion (19 R277); where the check
fails, the last contribution is withdrawn and its split traps. -/
def State.expandRest (s : State) (co : Nat) : State :=
  match s.cohort? co with
  | none => s
  | some c =>
    match c.sets.find? fun st => !st.contribs.isEmpty && (c.setMembers st.k st.first).all fun h => (c.contrib h).isSome with
    | none => s
    | some st =>
      let gs := c.setMembers st.k st.first
      let cs := gs.filterMap c.contrib
      let os := (List.range (max st.k 1)).flatMap fun i => (cs.filter fun x => x.g == st.first + i).flatMap fun x => x.owners
      match st.contribs.getLast? with
      | none => s
      | some x =>
        if cs.any (fun y => y.k != x.k || y.op != x.op) || decide (2 ^ 24 < (os.map fun o => o.len).sum) then
          let gi := c.groups.findIdx fun g => g.index == x.g
          let w : Who := ⟨co, gi, x.si⟩
          let s1 := (s.updCo co fun c => { c with sets := c.sets.map fun st => { st with contribs := st.contribs.filter fun y => y.g != x.g } }).updSp w
            fun x => { x with wait := .none }
          match { s1 with focus := some w }.ctx? with
          | none => s1
          | some cx => { s1.raise cx x.word.toNat { code := ENGINE_FAULT } with focus := s.focus }
        else s.updCo co fun c =>
          let c1 := c.expand st.k st.first x.op gs os
          { c1 with groups := c1.groups.map fun g => if gs.contains g.index then
              { g with splits := g.splits.map fun x => if x.wait = .xpand then x.next else x } else g }

/-- The marks of a finished cohort enter the tables of its share (07 R106). -/
def Share.learn (sh : Share) (c : Cohort) : Share :=
  (c.groups.take c.ngroups).foldl (fun (sh : Share) g => (lanesOf g.valid).foldl (fun (sh : Share) l =>
    (List.range (hNdim c.hdr)).foldl (fun (sh : Share) i =>
      let b := bucket c.hdr i (coordOf c.hdr (Sparse.get 0 g.iids l) i)
      { sh with exe := Sparse.set false sh.exe b true
                notAll := if g.marks.getLsbD l then sh.notAll else Sparse.set false sh.notAll b true }) sh) sh) sh

/-- The counters of a cohort that finishes: c with its last residency (07 Table 7.3). -/
def Cohort.counters (c : Cohort) (now : Nat) : Counters := { c.ctr with c := c.ctr.c + (now - c.since) }

def Counters.add (a b : Counters) : Counters := { s := a.s + b.s, d := a.d + b.d, m := a.m + b.m, h := a.h + b.h, c := a.c + b.c }

/-- The Faceter is told of a finished cut: its counters and its marks (07 R105 to R107). -/
def Share.finish (sh : Share) (c : Cohort) (now : Nat) : Share :=
  { sh.learn c with running := sh.running - 1, hm := sh.hm ++ [(c.ctr.h, c.ctr.m)], returned := sh.returned.add (c.counters now) }

/-- Every group of the cohort has finished, and no run of the Winze goes on. -/
def Cohort.isOver (c : Cohort) : Bool := c.groups.all (fun g => g.fin) && c.run.isNone

/-- A cohort finishes (07 R105): its share is told; it goes, or its block is held by its commands (17 R238). -/
def State.finishCohort (s : State) (c : Cohort) : State :=
  let s1 := match c.kind, c.launch with
    | .cut, some l => s.updLaunch l fun l => l.updShare c.die fun sh => sh.finish c s.time
    | _, _ => s
  let s2 := { s1 with stalled := [] }.updCo c.id fun c => { c with status := .held, ctr := c.counters s.time }
  s2.tidy (some c.id)

/-- The consequences of a group's end: expansions, the cohort barrier, the cohort's own end. -/
def State.groupOver (s : State) (co : Nat) : State :=
  let s1 := (s.expandRest co).updCo co Cohort.checkBarc
  match s1.cohort? co with
  | none => s1
  | some c => if c.isOver then s1.finishCohort c else s1

/-! ### `exit` and `wret` -/

/-- ENGINE_FAULTs that waited in a group which has finished go to the launch's fault queue (17 R237, R265; log entry 60). -/
def State.lateFaults (s : State) (c : Cohort) (q : List (TrapRec × Option (BitVec 256))) : State :=
  (q.filterMap fun p => p.2).foldl (fun (s : State) e => s.faultEntry c e) s

/-- The lanes of a split end; `all` ends the split with them. A `waitj` that runs out in the cycle leaves before them, since they arrive
nowhere (11 R161; log entry 51). -/
def State.endLanes (s : State) (c : Ctx) (m : Word) (all : Bool) : State :=
  let w := c.who
  let s1 := (lanesOf m).foldl (fun (s : State) l => s.leaveLane w c.gr.index l) s
  let s2 := s1.endItems w.co w.gi (lanesOf m)
  let s3 := s2.updGr w fun g =>
    let g1 := ((g.expire (s2.nowOf w.co + 1)).dropLanes m).dropOthers w.si m
    let g2 := if all then g1.endSplit w.si else g1.updSp w.si fun x => { x.next with mask := x.mask &&& ~~~m }
    let g3 := g2.completeAll
    { g3 with fin := g3.isOver, pend := if g3.isOver then none else g3.pend, queued := if g3.isOver then [] else g3.queued, trap := if all && c.sp.handler then none else g3.trap, hcyc := if all && c.sp.handler then 0 else g3.hcyc }
  let s4 := (if all && c.sp.handler then s3.nextTrap w.co else s3).lateFaults c.co
    (if (s3.group? w.co w.gi).any fun g => g.fin then ((s2.group? w.co w.gi).map fun g => g.queued).getD [] else [])
  if (s4.group? w.co w.gi).any fun g => g.fin then s4.groupOver w.co
  else (s4.updCo w.co Cohort.checkBarc).checkDeadlock w

/-- The lanes that an `exit` ends: in a handler split, those of its TRAP entry too (11 R165). -/
def Ctx.exitLanes (c : Ctx) : Word :=
  if c.sp.handler then
    match c.gr.stack.find? fun e => e.kind == .trap with
    | some e => c.sp.mask ||| e.mask
    | none => c.sp.mask
  else c.sp.mask

/-- `exit` (11 R165; 21 R298). -/
def execExit (s : State) : Host.Outcome State Fault Refusal :=
  issue { word := encExit, ctrl := true, jumps := true, hold := true } (fun _ _ => none) (fun c s => s.endLanes c c.exitLanes true) s

/-- `wret` (19 R288): the participating lanes' items end. -/
def execWret (s : State) : Host.Outcome State Fault Refusal :=
  issue { word := encWret, guard := true, noMod := true, noHandler := true, reads := true, jumps := true, hold := true }
    (fun c _ => if c.partH &&& c.sp.mask ≠ c.sp.mask ∧ c.sp.pc.toNat + 4 ≥ 2 ^ 56 then some { code := PROTECTION, addr := 2 ^ 56 } else none)
    (fun c s => if c.partH = c.sp.mask then s.endLanes c c.sp.mask true else s.endLanes c c.partH false) s

end Sys2Proof.Machine
end

