-- ==== Sys2Proof/Machine/System.lean ====
section
/-! DEFINITION. System and debug instructions (21.7, 23.6), service replies, the handler budget (21 R297) and errors in cell
state (21 R295). -/
namespace Sys2Proof.Machine

/-- The IID of the lowest active lane; 0 with none. -/
def Ctx.lowIid (c : Ctx) : BitVec 64 := match lanesOf c.sp.mask with
  | l :: _ => Sparse.get 0 c.gr.iids l
  | [] => 0

/-- `svc sD <- sA, n` (21 R313): a release, the request, and the wait. -/
def execSvc (d a : BitVec 6) (n : BitVec 10) (s : State) : Host.Outcome State Fault Refusal :=
  issue { word := encSvc d a n, wf := even a, ctrl := true, hold := true, rel := true } (fun _ _ => none)
    (fun c s => ((s.release (s.clusterOf c.co)).signal
        (.svc c.who n (c.gr.getS2 a.toNat) (s.lhdr c.co) c.lowIid)).updSp c.who fun x => { x with wait := .svc d }) s

/-- `SVC_REPLY` (21 R313): the reply goes to s[d] and the wait ends with an acquire; in a saved cohort it goes into the
saved group record. A reply whose wait a trap has ended goes to its s[d] all the same, before that of a later `svc` (DESIGN CHOICE, log
entry 154). -/
def execSvcReply (w : Who) (v : BitVec 32) (s : State) : Host.Outcome State Fault Refusal :=
  .next (match s.cohort? w.co, s.group? w.co w.gi, s.split? w with
    | some c, some g, some x =>
      let saved := c.isSaved
      let a := c.recordAt w.gi g
      let put (d : BitVec 6) : State :=
        (if saved then s.dieWrite c.die (a + 320 + 4 * d.toNat) (bytesOf 4 v.toNat) 0 else { s with stalled := [] }.acquire (s.clusterOf c)).updGr w
          fun g => g.setS d.toNat v
      (match x.owed, x.wait with
       | some d, _ => (put d).updSp w fun x => { x with owed := none }
       | none, .svc d =>
         if !x.live then s
         else if saved then ((put d).dieWrite c.die (a + 64 + 64 * w.si + 48) (bytesOf 1 0) 0).updSp w fun x => x.advance
         else (put d).updSp w fun x => x.next
       | none, _ => s)
    | _, _, _ => s)

/-- `escal n` (21 R314): only in a handler split; CODE, DETAIL and HCYC are kept, ESCN is n. -/
def execEscal (n : BitVec 8) (s : State) : Host.Outcome State Fault Refusal :=
  issue { word := encEscal n, ctrl := true, hold := true } (fun c _ => if c.sp.handler then none else some { code := ILLEGAL })
    (fun c s => match c.gr.trap with
      | none => s
      | some r => (s.updSp c.who fun x => x.next).escalate c.who.co c.who.gi { r with escn := n } 6) s

/-- `brk n` (23 R334): BREAK, with the instruction after as its resume point; in a handler it escalates with cause 3, at
itself (21 R297). -/
def execBrk (n : BitVec 16) (s : State) : Host.Outcome State Fault Refusal :=
  issueFull { word := encBrk n, ctrl := true } (fun _ _ => false)
    (fun c _ => if c.sp.handler then some { code := BREAK, detail := n.setWidth 48 } else none)
    (fun _ s => s)
    (fun c s => s.raise c (encBrk n) { code := BREAK, detail := n.setWidth 48, after := true }) s

/-- `dfold va` (23 R334): each active lane folds N(v[a]) into its context, when the launch is digested. -/
def execDfold (a : BitVec 7) (s : State) : Host.Outcome State Fault Refusal :=
  issue { word := encDfold a, vr := [a.toNat], ctrl := true } (fun _ _ => none)
    (fun c s => if (s.dslotOf c.co).isSome then
        s.updGr c.who fun g => (lanesOf c.sp.mask).foldl (fun (g : Group) l => g.foldCtx l 0 0 (c.gr.getV a.toNat l).toNat) g
      else s) s

/-- USER payload (23 Table 23.6). -/
def userPay (value : BitVec 64) (n : BitVec 16) (cseq : Nat) : Nat := value.toNat + n.toNat * 2 ^ 64 + cseq % 2 ^ 48 * 2 ^ 80

/-- `lmark sA, n` (23 R334): one USER entry; LOG_FULL under R324; nothing when USER is off. -/
def execLmark (a : BitVec 6) (n : BitVec 16) (s : State) : Host.Outcome State Fault Refusal :=
  issueLog { word := encLmark a n, wf := even a, ctrl := true } (fun _ _ => [(7, 1)]) (fun _ _ => false)
    (fun c s => s.logRoom c.co.die [(7, 1)])
    (fun c s => s.logWrite c.co.die 7 c.co.lcell c.co.ltag (userPay (c.gr.getS2 a.toNat) n c.co.cseq)) (fun _ s => s) s

/-- `HANDLER_BUDGET_SPENT` (21 R297): the resident cycles of a live handler reach HBUDGET: cause 4. -/
def execHandlerBudgetSpent (co gi : Nat) (s : State) : Host.Outcome State Fault Refusal :=
  .next (match s.cohort? co, s.group? co gi with
    | some c, some g =>
      let budget := bits (s.reg (dieReg c.die 0x0330)) 0 32
      match g.trap with
      | some r =>
        if g.splits.any (fun x => x.live && x.handler) && c.status == .resident && !s.stopped c && !c.isHF && budget != 0 then
          ({ s with time := max s.time (g.hstart + (budget - g.hcyc)), stalled := [] } : State).escalate co gi r 4
        else s
      | none => s
    | _, _ => s)

/-- `ECC_UNCORRECTED_CELL` (21 R295): the register file, stack or accumulators of a cell lose state: an escalation with
cause 7, POISON in the groups that lost it, and an event (25 R341); a live handler's own record is kept beside it. -/
def execEccUncorrectedCell (co : Nat) (lost : List Nat) (s : State) : Host.Outcome State Fault Refusal :=
  .next (match s.cohort? co with
    | none => s
    | some c =>
      if c.isHF ∨ c.status ≠ .resident then s
      else
        let gi := ((List.range c.groups.length).find? fun i => lost.contains i).getD 0
        let s1 := ({ s with stalled := [] } : State).updCo co fun c =>
          { c with groups := c.groups.zipIdx.map fun (p : Group × Nat) => if lost.contains p.2 then { p.1 with poison := true } else p.1 }
        match c.groups[gi]? with
        | none => s
        | some g =>
          let x := ((g.standIn 0).bind fun i => g.splits[i]?).getD {}
          let r : TrapRec := { code := ECC_UNCORRECTED, split := (g.standIn 0).getD 0, pc := x.pc, pos := x.pos, rpc := x.past.1, rpos := x.past.2 }
          (((s1.haltCohort co none).updCo co fun c => { c.updGr gi fun g => g.escalated { r with cause := 7 } s.time with
            status := .saving 5 (some gi) }).signal (.escalation co gi 7)).event 0 { src := 5, code := ECC_UNCORRECTED })

end Sys2Proof.Machine
end

