-- ==== Sys2Proof/Machine/Context.lean ====
section
/-! DEFINITION. Pre-emption: the save of a cohort into its context block, the end of a launch, restore and its service
outcomes, and the free lists (21.4 to 21.6). -/
namespace Sys2Proof.Machine

/-! ### Extension pages (21 R310) -/

/-- Elements packed into pages of 4,080 bytes; none straddles a page. -/
def packPages : List (List Byte) → List Byte → List (List Byte)
  | [], cur => if cur.isEmpty then [] else [cur]
  | e :: t, cur => if cur.length + e.length ≤ 4080 then packPages t (cur ++ e) else cur :: packPages t e

/-- Pages of a kind, chained in front of `next`: the first page; none while EXTPOOL is empty. -/
def State.writePages (s : State) (die kind next : Nat) : List (List Byte) → Option (Nat × State)
  | [] => some (next, s)
  | p :: t => (s.writePages die kind next t).bind fun (n, s1) => (s1.poolPop die 5).map fun (a, s2) =>
      (a, s2.dieWrite die a (bytesOf 16 (fld 0 56 n + fld 64 4 kind + fld 68 12 p.length) ++ p) 0)

/-- Pages go back to EXTPOOL (log entry 40). -/
def State.freePages (die : Nat) : Nat → Nat → State → State
  | 0, _, s => s
  | n + 1, a, s => if a = 0 then s else
    let next := s.homeRead a 7
    State.freePages die n next (s.poolPush die 5 a)

/-- The bytes in use of the pages of a kind in a chain, in its order. -/
def State.pageBytes (s : State) (kind : Nat) : Nat → Nat → List Byte
  | 0, _ => []
  | n + 1, a => if a = 0 then [] else
    let h := s.homeRead a 16
    (if fget h 64 4 = kind then s.homeBytes (a + 16) (fget h 68 12) else []) ++ s.pageBytes kind n (fget h 0 56)

/-- Pieces of w bytes, as numbers. -/
def pieces (w : Nat) : Nat → List Byte → List Nat
  | 0, _ => []
  | n + 1, bs => if bs.length < w then [] else ofBytes (bs.take w) :: pieces w n (bs.drop w)

/-- Pages that a chain can have. -/
def maxPages : Nat := 65536

/-- The elements of a kind in a chain, w bytes each. -/
def State.elements (s : State) (kind w a : Nat) : List Nat :=
  let bs := s.pageBytes kind maxPages a
  pieces w (bs.length + 1) bs

/-- FIFO images: the banks with their entries. -/
def readImages : Nat → List Byte → List (Nat × List (List Byte))
  | 0, _ => []
  | n + 1, bs =>
    if bs.length < 16 then []
    else
      let x := ofBytes (bs.take 16)
      let k := min (fget x 64 64) 512
      (fget x 0 32, (List.range k).map fun i => (bs.drop (16 + 128 * i)).take 128) :: readImages n (bs.drop (16 + 128 * k))

/-- Digest contexts as elements of KIND 5 (21 R310; 23 R329). -/
def digestElem (slot lane : Nat) (cur : Bool) (d : DigestCtx) : List Byte :=
  bytesOf 16 (fld 0 16 slot + fld 16 8 lane + fld 24 1 (Bool.n cur)) ++ bytesOf 8 d.a.toNat ++ bytesOf 8 d.b.toNat ++
  bytesOf 8 d.d.toNat ++ bytesOf 8 d.x.toNat

def Cohort.digestElems (c : Cohort) : List (List Byte) := (c.groups.zipIdx).flatMap fun p =>
  (p.1.dg.filterMap fun q => q.2.map fun d => digestElem (c.slotOf p.2 p.1) q.1 true d) ++
  (p.1.dgIter.filterMap fun q => q.2.map fun d => digestElem (c.slotOf p.2 p.1) q.1 false d)

/-- FIFO images (KIND 3): the bank's element, with head 0, then its entries in pop order (log entry 63). -/
def State.fifoElems (s : State) (k : Nat) (c : Cohort) : List (List Byte) := c.fifos.flatMap fun b =>
  let es := (s.fifo k b).entries
  bytesOf 16 (fld 0 32 b + fld 64 64 es.length) :: es

/-- Saved commands (KIND 4); beside what R310 names, the accumulator handle and the issuing group, in bytes 2 and 3 (DESIGN CHOICE, log
entry 45). -/
def cmdElem (m : Cmd) : List Byte :=
  bytesOf 64 (fld 0 8 m.major + fld 8 8 m.fn + fld 16 5 m.acc + fld 24 6 m.gi + fld 64 64 m.id + fld 128 64 m.prog.toNat + fld 192 32 m.p0.toNat + fld 224 32 m.p1.toNat) ++
  bytesOf 64 m.td.toNat ++ bytesOf 64 m.ts.toNat ++ bytesOf 64 m.tx.toNat

/-- Frames of a Winze run (KIND 2). -/
def WinzeRun.frameElems (w : WinzeRun) : List (List Byte) := w.frames.filterMap fun p => p.2.map fun f =>
  bytesOf 8 (fld 0 8 f.state + fld 8 8 f.nkid + fld 16 8 f.next + fld 24 8 (Bool.n f.settled) + fld 32 32 (f.worker.getD 0xFFFFFFFF))

/-- Pairs of an expansion that are closed and not yet folded (KIND 1). -/
def Expansion.pairElems (e : Expansion) : List (List Byte) := e.held.map fun h =>
  bytesOf 16 (fld 0 32 h.1 + fld 32 32 h.2.1 + fld 64 32 (h.2.2.getD 0).toNat + fld 96 1 (Bool.n h.2.2.isSome))

/-! ### The sections (21 R305 to R309) -/

/-- Offset of a slot's registers in VREG. -/
def Cohort.vregAt (c : Cohort) (slot : Nat) : Nat := c.sect 4 + ((List.range slot).map fun i => 1024 * c.slotBudget i).sum

/-- Windows that a group record can hold: those whose value has come or that are marked for re-issue. -/
def Window.recorded (w : Window) : Bool := w.ready || w.re

/-- What a group puts into GRP, STK, WVAL and VREG: offsets and bytes. -/
def Cohort.groupWrites (c : Cohort) (gi : Nat) (g : Group) (now : Nat) : List (Nat × List Byte) :=
  let i := c.slotOf gi g
  let g0 : Group := { g with splits := g.splits.map fun (x : Split) => { x with windows := x.windows.filter Window.recorded } }
  let ws := (g0.splits.zipIdx).flatMap fun p => p.1.windows.map fun w => (p.2, w)
  ((g0.record now).map fun p => (c.sect 1 + 1024 * i + p.1, p.2)) ++
  [(c.sect 2 + 2048 * i, (List.range 64).flatMap fun j => bytesOf 32 (match g.stack.reverse[j]? with
      | some e => e.record
      | none => 0)),
   (c.sect 3 + 18432 * i, (List.range 64).flatMap fun j => match ws[j]? with
      | some (si, w) => bytesOf 32 (w.record si) ++ w.area
      | none => bytesOf 288 0),
   (c.vregAt i, (List.range (8 * c.slotBudget i)).flatMap fun r => (List.range 32).flatMap fun l => bytesOf 4 (g.getV r l).toNat)]

/-- TTAB, ACC and SCR. -/
def Cohort.tableWrites (c : Cohort) : List (Nat × List Byte) :=
  [(c.sect 5, (List.range 64).flatMap fun i => bytesOf 64 (Sparse.get 0 c.ttab i).toNat)] ++
  ((List.range 32).filter fun n => c.aheld.getLsbD n).map (fun n => (c.sect 6 + 16896 * n,
    ((List.range 4096).flatMap fun e => bytesOf 4 (c.accElem n (e / 64) (e % 64)).toNat) ++
    ((List.range 64).flatMap fun r => bytesOf 4 (c.accSideM n r).toNat) ++ ((List.range 64).flatMap fun r => bytesOf 4 (c.accSideL n r).toNat))) ++
  [(c.sect 9, c.scratchBytes 0 c.z)]

/-- What a slot that no group uses holds: zeros, so that nothing of an earlier cohort of the block is left. -/
def Cohort.emptyWrites (c : Cohort) (i : Nat) : List (Nat × List Byte) :=
  [(c.sect 1 + 1024 * i, bytesOf 1024 0), (c.sect 2 + 2048 * i, bytesOf 2048 0), (c.sect 3 + 18432 * i, bytesOf 18432 0)]

/-- The slots of no group. -/
def Cohort.emptySlots (c : Cohort) : List Nat :=
  (List.range c.ng).filter fun i => (c.groups.zipIdx).all fun p => c.slotOf p.2 p.1 != i

/-- The expansions of a cohort, newest first. -/
def Cohort.expansions (c : Cohort) : List (SluiceSet × Expansion) := c.sets.filterMap fun st => st.exp.map fun e => (st, e)

/-- A lane is an owner or a receiver of an expansion. -/
def Expansion.has (e : Expansion) (g l : Nat) : Bool := e.recvs.any (fun r => r.g == g && r.lane == l) || e.owners.any fun o => o.g == g && o.lane == l

/-- The lanes of an expansion that the section has a record for: those of groups 0 to 15 (log entry 64). -/
def Expansion.lanes (e : Expansion) : List (Nat × Nat) :=
  ((e.recvs.map fun r => (r.g, r.lane)) ++ (e.owners.map fun o => (o.g, o.lane))).eraseDups.filter fun q => decide (q.1 < 16)

/-- A lane's record. -/
def Expansion.laneRecord (e : Expansion) (g l : Nat) : Nat :=
  let r := e.recvs.find? fun r => r.g == g && r.lane == l
  let o := e.owners.find? fun o => o.g == g && o.lane == l
  fld 0 32 ((r.map fun r => r.taken).getD 0) + fld 32 16 (((r.bind fun r => r.cur).map fun p => p.1).getD 0) +
  fld 48 32 (((r.bind fun r => r.cur).map fun p => p.2).getD 0) + fld 80 32 (((r.bind fun r => r.posted).getD 0)).toNat +
  fld 112 32 ((o.bind fun o => o.acc).getD 0).toNat + fld 144 32 ((o.map fun o => o.next).getD 0) +
  fld 176 8 (Bool.n (r.any fun r => r.cur.isSome)) + fld 184 8 (Bool.n (r.any fun r => r.posted.isSome)) +
  fld 192 8 (Bool.n (o.any fun o => o.acc.isSome))

/-- SLU: set headers with the first pages of their pairs, then the lane records of receivers and owners, the newest set's last
(21 R309; log entry 64). -/
def Cohort.sluiceWrites (c : Cohort) (pages : List Nat) : List (Nat × List Byte) :=
  let hdr (p : (SluiceSet × Expansion) × Nat) : List Byte :=
    bytesOf 32 (fld 0 32 p.1.2.t + fld 32 8 p.1.2.op + fld 40 8 (Nat.log2 p.1.2.k) + fld 48 8 p.1.1.first + fld 64 64 (pages.getD p.2 0))
  (c.sect 7, bytesOf 16896 0) :: (((c.expansions.take 16).zipIdx.map fun p => (c.sect 7 + 32 * p.2, hdr p)) ++
  ((c.expansions.take 16).reverse.flatMap fun p => p.2.lanes.map fun q =>
    (c.sect 7 + 512 + 32 * (32 * q.1 + q.2), bytesOf 32 (p.2.laneRecord q.1 q.2))))

/-- WNZ: the object copy, the state and the workers (21 R309); zeros without a run. -/
def Cohort.winzeWrites (c : Cohort) : List (Nat × List Byte) := match c.run with
  | none => [(c.sect 8, bytesOf 8320 0)]
  | some w =>
    [(c.sect 8, bytesOf 64 (fld 0 32 w.div + fld 32 32 w.bas + fld 64 32 w.cmb + fld 96 16 w.fsz + fld 112 3 w.fan + fld 120 7 w.maxd +
        fld 128 56 w.arena + fld 192 64 w.asize)),
     (c.sect 8 + 64, bytesOf 64 (fld 0 64 (Bool.n w.df.isSome) + fld 64 64 w.level.length + fld 128 64 w.b + fld 192 64 (w.df.getD 0) +
        fld 256 64 w.workers.length)),
     (c.sect 8 + 128, w.workers.flatMap fun x => bytesOf 8 x.base ++ bytesOf 8 (x.base + x.used))]

/-! ### Save (21 R300) -/

/-- A load, `aget` or `sred.get` in flight is cancelled, to be issued again (05 R75; 15 R220; 21 R308). -/
def Window.cancel (w : Window) : Window :=
  if [0x30, 0x32, 0x34, 0x2E, 0x3B].contains (bits w.word 25 6) then { w with re := true, ready := false, vals := [] } else w

/-- The order of a window among the open windows of its split. -/
def Split.newOrd (x : Split) (o : Nat) : Nat := (x.windows.filter fun w => decide (w.ord < o)).length

/-- A split as it is saved: at its resume point, outside any chain (05 R64), or at a word that it has issued and waits in, its pause and
starvation count dropped, its windows numbered in their order (21 R308). -/
def Split.toSave (x : Split) : Split :=
  if !x.live then x
  else { x with pc := if x.wait.issued then x.pc else x.resume.1
                pos := x.resume.2, chain := [], codes := [], landed := true, pauseEnd := 0, boosted := false, skids := false
                wakeRsv := x.wakeRsv && (match x.wait with
                  | .chwait _ => false
                  | _ => true)
                windows := (sortKey (fun (w : Window) => [w.ord]) x.windows).map fun w =>
                  let v := w.cancel
                  { v with ord := x.newOrd w.ord, saved := v.recorded } }

/-- The splits of a cohort that wait in `chwait` give up their WAKE entries: the word will be issued again. -/
def State.releaseWakes (s : State) (c : Cohort) : State :=
  (c.groups.flatMap fun g => g.splits.filter fun x => x.live && (match x.wait with
    | .chwait _ => true
    | _ => false) && x.wakeRsv).foldl (fun (s : State) _ => s.logReserve c.die (-1)) s

/-- The page chains of a save: EXT, DGEXT and the sets' own chains. -/
def State.savePages (s : State) (c : Cohort) : Option (Nat × Nat × List Nat × State) :=
  let k := (s.clusterOf c).getD 0
  let cs := s.cmds.filter fun m => m.co == some c.id && m.eng != .coll
  let frames := match c.run with
    | some w => w.frameElems
    | none => []
  (s.writePages c.die 4 0 (packPages (cs.map cmdElem) [])).bind fun (e1, s1) =>
  (s1.writePages c.die 3 e1 (packPages (s.fifoElems k c) [])).bind fun (e2, s2) =>
  (s2.writePages c.die 2 e2 (packPages frames [])).bind fun (e3, s3) =>
  (s3.writePages c.die 5 0 (packPages c.digestElems [])).bind fun (d, s4) =>
  (c.sets.filterMap fun st => st.exp).foldl (fun (r : Option (List Nat × State)) e => r.bind fun (ps, s) =>
      (s.writePages c.die 1 0 (packPages e.pairElems [])).map fun (a, s') => (ps ++ [a], s')) (some ([], s4)) |>.map fun (ps, s5) => (e3, d, ps, s5)

/-- Write pieces at offsets from a base. -/
def State.writeParts (s : State) (die base : Nat) (ps : List (Nat × List Byte)) : State :=
  ps.foldl (fun (s : State) p => s.dieWrite die (base + p.1) p.2 0) s

/-- An SC operation of a cohort waits for its ticket: it completes before a save (15 R225; 21 R300). -/
def State.scPending (s : State) (co : Nat) : Bool := s.sc.any fun o => o.who.co == co

/-- What completes before a save (05 R75; 15 R225; 21 R300): SC operations, ordered operations that are due, and the write-back of its
release, as long as no link port carries it (25 R347). -/
def State.savePending (s : State) (c : Cohort) : Bool := s.scPending c.id || s.ordPending c || (s.clusterOf c).any s.unbacked

/-- The record of a live handler's own trap, with the cycles that the handler has used (21 R297). -/
def Group.used (g : Group) (now : Nat) : Option TrapRec := g.trap.map fun r =>
  if r.cause = 0 ∧ g.splits.any (fun x => x.live && x.handler) = true then { r with hcyc := g.hcyc + (now - g.hstart) } else r

/-- HALT as it is saved: a halt that outlasts the save, which the Loupe's and that of a trap do (21 R300; 23 R318; log entry 65). -/
def Cohort.keepsHalt (c : Cohort) (held : Bool) : Bool := held || c.groups.any fun g => g.trap.isSome || g.pend.isSome

/-- The order of the held ordered operations of a cohort follows their windows' new numbers. -/
def State.renumber (s : State) (c : Cohort) : State :=
  { s with ords := s.ords.map fun (o : OrdOp) => if o.who.co ≠ c.id then o else
      { o with ord := (((c.groups[o.who.gi]?).bind fun g => g.splits[o.who.si]?).map fun x => x.newOrd o.ord).getD o.ord } }

/-- Save one halted cohort with STOP (21 R300): its operations complete first; then a device-scope release, its commands stopped, its
block written with the header last, its granules freed, a MOVE entry; none while a page is lacking (R310). What is left of timeouts
and budgets is counted at the cohort's own time (23 R318). -/
def State.saveOne (s : State) (c0 : Cohort) (stop : Nat) (esc : Option Nat) : Option State :=
  if s.savePending c0 then none
  else
    let p := s.pcell c0.lcell
    let now := s.now c0
    let c1 := c0.mapSplits Split.toSave
    let c : Cohort := { c1 with groups := c1.groups.map (fun (g : Group) => { g with trap := g.used now }), ctr := { c0.ctr with c := c0.ctr.c + (s.time - c0.since) }, leftCell := p }
    let c' : Cohort := { c with groups := c.groups.map fun g => { g with halt := c.keepsHalt (s.stopped c0) && g.halt } }
    let s1 := ((s.release (s.clusterOf c0)).releaseWakes c0).renumber c0
    (s1.savePages c').map fun (ext, dgext, ps, s2) =>
      let parts := c'.emptySlots.flatMap c'.emptyWrites ++ (c'.groups.zipIdx).flatMap (fun q => c'.groupWrites q.2 q.1 now) ++
        c'.tableWrites ++ c'.sluiceWrites ps ++ c'.winzeWrites
      let s3 := (s2.writeParts c.die c.ctx.toNat parts).dieWrite c.die c.ctx.toNat (bytesOf 256 (s2.contextHeader c' true stop ext dgext)) 0
      let s4 := match s3.clusterOf c0 with
        | none => s3
        | some k => s3.updCluster k fun x => { x with grans := c.grans.foldl (fun (g : Sparse Nat) (q : Nat × Nat) => Sparse.set 0 g q.1 (Sparse.get 0 g q.1 - q.2)) x.grans }
      let s5 := s4.logWrite c.die 2 c.lcell c.ltag (movePay c.cseq p 0x3FF stop false)
      let s6 : State := { s5 with
        cmds := s5.cmds.map fun m => if m.co = some c.id ∧ m.eng ≠ .coll then { m with stopped := true } else m
        stalled := [] }
      s6.updCo c.id fun _ => { c with grans := [], status := .saved stop esc }

/-! ### The arrival log of a saved context (13 R200, Table 13.9; 21 R310) -/

/-- An entry of the log; a wake names its split as 4 × slot + split (log entry 66). -/
def Cohort.arrivalEntry (c : Cohort) (a : Arrival) : Nat :=
  let target : Nat := if a.wake then 4 * (((c.groups[a.gi]?).map fun g => c.slotOf a.gi g).getD 0) + a.si else a.target
  fld 0 32 target + fld 32 1 (Bool.n (!a.wake && a.q)) + fld 60 4 (Bool.n a.wake) + fld 64 64 a.stamp

/-- An entry goes into the first page of the block's chain when that is a page of the log with room, else into a new page before it;
none while EXTPOOL is empty. -/
def State.logArrival1 (s : State) (c : Cohort) (a : Arrival) : Option State :=
  let b := c.ctx.toNat
  let ext := fget (s.homeRead b 256) 544 56
  let h := s.homeRead ext 16
  let used := fget h 68 12
  let stamp (s : State) : State := s.dieWrite c.die (b + 84) (bytesOf 8 (a.stamp + 1)) 0
  if ext ≠ 0 ∧ fget h 64 4 = 0 ∧ used + 16 ≤ 4080 then
    some (stamp ((s.dieWrite c.die (ext + 16 + used) (bytesOf 16 (c.arrivalEntry a)) 0).dieWrite c.die ext (bytesOf 16 (h - fld 68 12 used + fld 68 12 (used + 16))) 0))
  else (s.poolPop c.die 5).map fun (n, s1) =>
    stamp ((s1.dieWrite c.die n (bytesOf 16 (fld 0 56 ext + fld 68 12 16) ++ bytesOf 16 (c.arrivalEntry a)) 0).dieWrite c.die (b + 68) (bytesOf 7 n) 0)

/-- The arrivals of a cohort that have come enter its log as long as there are pages; the others wait. -/
def State.flushLog (co : Nat) : List Arrival → State → State
  | [], s => s
  | a :: t, s => match s.cohort? co with
    | none => s
    | some c => match s.logArrival1 c a with
      | none => s
      | some s1 => State.flushLog co t (s1.updCo co fun c => { c with alog := c.alog.erase a })

/-- The cohorts that are pre-empted and restored with a cohort: its COOP wave (07 R111). -/
def State.waveOf (s : State) (c : Cohort) : List Cohort :=
  if c.kind == .cut && hCoop c.hdr then
    s.cohorts.filter fun d => d.launch == c.launch && d.die == c.die && d.kind == .cut && d.status != .held
  else [c]

/-- Cohorts halt to be saved with STOP (21 R291, R300). -/
def State.startSaves (s : State) (stop : Nat) (cs : List Cohort) : State := cs.foldl (fun (s : State) c => s.startSave c.id stop) s

/-- Cohorts that have halted to be saved are saved together, each with the STOP of its status; none if one of them cannot be yet. -/
def State.saveAll (s : State) (cs : List Cohort) : Option State :=
  cs.foldl (fun (r : Option State) c => r.bind fun s => match s.cohort? c.id with
    | none => some s
    | some d => match d.status with
      | .saving n e => s.saveOne d n e
      | _ => some s) (some s)

/-- Room for a MOVE entry of each cohort of a die. -/
def State.moveRoom (s : State) (die n : Nat) : Bool := !s.kindOn die 2 || decide ((n : Int) ≤ s.logFree die)

/-- `COHORT_SAVE` (21 R300): a cohort that is to be saved, with its wave; a Headframe core has no block and stays stopped
(log entry 41). For one that is saved, the arrivals that have come enter its log (13 R200). -/
def execCohortSave (co : Nat) (s : State) : Host.Outcome State Fault Refusal :=
  .next (match s.cohort? co with
    | none => s
    | some c => match c.status with
      | .saving stop _ =>
        if c.isHF then s
        else
          let cs := s.waveOf c
          let s1 := s.startSaves stop cs
          if !s1.moveRoom c.die cs.length then s1.faceterStall c.die else (s1.saveAll cs).getD s1
      | .saved _ _ => State.flushLog co c.alog s
      | _ => s)

/-! ### The end of a launch (21 R304) -/

/-- Reservations that the discarded operations and waits of a launch held (23 R324). -/
def State.releaseLogs (s : State) (n : Nat) : State :=
  let s1 := (s.sc.filter fun o => o.launch == some n && o.rsv).foldl (fun (s : State) o => s.logReserve o.die (-1)) s
  let s2 := (s.ords.filter fun o => o.launch == n).foldl (fun (s : State) o =>
    s.logReserve o.die (-(Bool.n o.rsv + Bool.n o.rsvRed : Nat) : Int)) s1
  (s.cohorts.filter fun c => c.launch == some n).foldl (fun (s : State) c =>
    (c.groups.flatMap fun g => g.splits.filter fun x => x.live && x.wakeRsv).foldl (fun (s : State) _ => s.logReserve c.die (-1)) s) s2

/-- A saved cohort's pages go back. -/
def State.dropPages (s : State) (c : Cohort) : State :=
  match c.status with
  | .saved _ _ =>
    let h := s.homeRead c.ctx.toNat 256
    let s1 := State.freePages c.die 4096 (fget h 736 56) (State.freePages c.die 4096 (fget h 544 56) s)
    ((List.range 16).map fun i => fget (s.homeRead (c.ctx.toNat + c.sect 7 + 32 * i) 32) 64 56).foldl (fun (s : State) a => State.freePages c.die 4096 a s) s1
  | _ => s

/-- The launch ends: cohorts, task groups, Winze groups and items are discarded, commands end with STATUS 2, held
operations are dropped, and the launch has its result. -/
def State.endLaunch (s : State) (n : Nat) (code : Code) (detail : BitVec 48) : State :=
  let s1 := s.releaseLogs n
  let s2 := (s1.cmds.filter fun m => m.launch == some n).foldl (fun (s : State) m => s.finishCmd m 2 code) s1
  let s3 := (s2.cohorts.filter fun c => c.launch == some n).foldl (fun (s : State) c => (s.dropPages c).dropCohort c.id) s2
  let s4 : State := { s3 with
    sc := s3.sc.filter fun o => o.launch != some n
    ords := s3.ords.filter fun o => o.launch != n
    aged := s3.aged.filter fun t => t.2.1 != n
    cradle := [0, 1, 2, 3].foldl (fun (g : Sparse (List CradleItem)) d => Sparse.set [] g d ((Sparse.get [] g d).filter fun i => i.launch != n)) s3.cradle
    stalled := [] }
  s4.updLaunch n fun l => { l with result := some (2, code, detail), shares := l.shares.map fun sh =>
    { sh with stopped := true, waiting := [], tiles := [], running := 0 } }

/-! ### The checks of a restore (21 R302) -/

/-- Bytes of a block, as a number. -/
def State.block (s : State) (c : Cohort) (off n : Nat) : Nat := s.homeRead (c.ctx.toNat + off) n

def State.header21 (s : State) (c : Cohort) : Nat := s.block c 0 256

/-- VER, VALID and the reserved fields of the header. -/
def headerRefused (h : Nat) : Bool :=
  fget h 0 8 != 1 || fget h 8 1 != 1 || fget h 27 5 != 0 || fget h 88 8 != 0 || fget h 152 8 != 0 || fget h 236 20 != 0 ||
  fget h 600 8 != 0 || fget h 792 8 != 0 || fget h 800 1248 != 0

/-- The stack of a slot, newest first; none where an entry breaks 11 Table 11.1. -/
def State.stackAt (s : State) (c : Cohort) (i n : Nat) : Option (List StackEntry) :=
  ((List.range n).map fun j => StackEntry.ofRecord (s.block c (c.sect 2 + 2048 * i + 32 * j) 32)).foldl
    (fun (r : Option (List StackEntry)) e => match r, e with
      | some l, some x => some (x :: l)
      | _, _ => none) (some [])

/-- A lane stands in two live splits or DEFER entries (11 R148, R151). -/
def lanesTwice (ms : List Word) : Bool := (ms.foldl (fun (r : Word × Bool) m => (r.1 ||| m, r.2 || r.1 &&& m != 0)) (0, false)).2

/-- Reserved bits of a stack entry (11 Table 11.1), in use or not. -/
def stackReserved (e : Nat) : Bool := fget e 131 125 != 0

/-- Reserved bits of the copy of a recursion object (19 Table 19.5). -/
def objectReserved (o : Nat) : Bool := fget o 115 5 != 0 || fget o 127 1 != 0 || fget o 184 8 != 0 || fget o 256 256 != 0

/-- Reserved bits of a group record, in use or not. -/
def recordReserved (r : Nat) : Bool :=
  fget r 27 485 != 0 || fget r 4832 32 != 0 || fget r 5376 2816 != 0 ||
  (List.range 4).any (fun j => splitReserved (fget r (512 + 512 * j) 512)) || trapReserved (fget r 4864 512)

/-- A slot fails a check. -/
def State.groupRefused (s : State) (c : Cohort) (i : Nat) : Bool :=
  let r := s.block c (c.sect 1 + 1024 * i) 1024
  let sp (j : Nat) : Nat := fget r (512 + 512 * j) 512
  let live := (List.range 4).filter fun j => fget (sp j) 0 1 == 1
  recordReserved r || (List.range 64).any (fun j => windowReserved (s.block c (c.sect 3 + 18432 * i + 288 * j) 32)) ||
  (List.range 64).any (fun j => stackReserved (s.block c (c.sect 2 + 2048 * i + 32 * j) 32)) ||
  (fget r 0 1 == 1 &&
   (fget r 5 1 == 1 || decide (64 < fget r 20 7) || fget r 13 4 != (live.map fun j => 2 ^ j).sum ||
    (match s.stackAt c i (fget r 20 7) with
     | none => true
     | some st => lanesTwice ((live.map fun j => BitVec.ofNat 32 (fget (sp j) 72 32)) ++ (st.filter fun e => e.kind == .defer).map fun e => e.mask))))

/-- Reserved bits of the pages of a chain, and of their elements (21 R310; 13 Table 13.9). -/
def State.pagesRefused (s : State) : Nat → Nat → Bool
  | 0, _ => false
  | n + 1, a => a != 0 &&
    let h := s.homeRead a 16
    let bs := s.homeBytes (a + 16) (fget h 68 12)
    fget h 56 8 != 0 || decide (5 < fget h 64 4) || fget h 80 48 != 0 ||
    (fget h 64 4 == 0 && (pieces 16 256 bs).any fun e => fget e 33 27 != 0 || decide (1 < fget e 60 4)) ||
    (fget h 64 4 == 5 && (pieces 48 86 bs).any fun e => fget e 25 7 != 0 || fget e 32 96 != 0) || s.pagesRefused n (fget h 0 56)

/-- The block fails its checks. -/
def State.refused (s : State) (c : Cohort) : Bool :=
  let h := s.header21 c
  headerRefused h || (List.range c.ng).any (s.groupRefused c) || objectReserved (s.block c (c.sect 8) 64) || s.pagesRefused maxPages (fget h 544 56) || s.pagesRefused maxPages (fget h 736 56) ||
  (List.range c.expansions.length).any fun j => s.pagesRefused maxPages (fget (s.block c (c.sect 7 + 32 * j) 32) 64 56)

/-- A refusal: CTXSTAT records the block, a Headframe core is signalled, and the PF's ring gets the event (25 R341). -/
def State.refuse (s : State) (die : Nat) (a : VAddr) : State :=
  ((s.setReg (dieReg die 0x0340) (BitVec.ofNat 64 (bits (s.reg (dieReg die 0x0340)) 62 1 * 2 ^ 62 + a.toNat + 2 ^ 63))).signal
    (.restoreRefused a)).event 0 { src := 2, addr := a.toNat }

/-! ### Reading a block back (21 R307, R308) -/

/-- The windows of a split: those the block holds, in their order, and those that still wait for an ordered operation (log entry 67).
One marked for re-issue in some of its lanes keeps the others' values (log entry 62). -/
def State.windowsAt (s : State) (c : Cohort) (i si : Nat) (old : Split) : List Window :=
  let was (o : Nat) : Option Window := old.windows.find? fun w => w.saved && w.ord == o
  (List.range 64).filterMap (fun j =>
    let off := c.sect 3 + 18432 * i + 288 * j
    let d := s.block c off 32
    if fget d 0 1 = 1 ∧ fget d 16 2 = si then
      let w := Window.ofRecord d (s.homeBytes (c.ctx.toNat + off + 32) 256)
      some { w with under := (was w.ord).any fun v => v.under
                    vals := if w.re then ((was w.ord).map fun v => v.vals).getD [] else w.vals }
    else none) ++
  old.windows.filter fun w => !w.saved

/-- What a split with a WAIT of 2, 4 or 5 waits for, by the word that it waits in: before its PC for a `barp`, which has issued (21
R307). -/
def State.wordWait (s : State) (c : Cohort) (r x : Nat) : Wait :=
  let pc : VAddr := BitVec.ofNat 56 (fget x 16 56)
  match s.fetch c (if fget x 3 3 = 4 then pc - 4 else s.chainTarget c 8 pc) with
  | .error _ => .none
  | .ok w =>
    let fn := bits w 0 10
    if bits w 22 10 = 0x159 then .waitj (w.extractLsb' 19 3) 0
    else if bits w 22 10 = 0x161 ∧ (fn = 0x100 ∨ fn = 0x200) then .barp (fget r (2560 + 32 * bits w 16 6) 32) 0
    else if bits w 25 7 = 0x37 ∧ fn = 0x50 then .waitc (bits w 22 3) (w.extractLsb' 16 6) none
    else .none

/-- A split from its record. A `recurse` or `xpand` that waits goes on waiting: its run or its contribution stands (19 R277, R289;
log entry 68). -/
def State.splitAt (s : State) (c : Cohort) (i r x j : Nat) (old : Split) : Split :=
  let y := Split.ofRecord old (if old.wait.code = fget x 3 3 then old.wait else s.wordWait c r x) x s.time
  if !y.live then y
  else { y with
    windows := s.windowsAt c i j old
    wait := if (old.wait = .recurse ∨ old.wait = .xpand) ∧ fget x 3 3 = 6 ∧ y.pc = old.pc then old.wait else y.wait }

/-- A group from its slot. A pending trap that stands beside the current one is the module's own (log entry 58). -/
def State.groupAt (s : State) (c : Cohort) (gi : Nat) (g : Group) : Group :=
  let i := c.slotOf gi g
  let r := s.block c (c.sect 1 + 1024 * i) 1024
  let st := (s.stackAt c i (fget r 20 7)).getD []
  let sps := g.splits.zipIdx.map fun (p : Split × Nat) => s.splitAt c i r (fget r (512 + 512 * p.2) 512) p.2 p.1
  let t := fget r 4864 512
  let rec_ : TrapRec := TrapRec.ofRecord t (match st.find? fun e => e.kind == .trap with
    | some e => e.pos
    | none => ((sps[fget t 172 2]?).getD {}).pos)
  let has := fget t 160 8 != 0
  let current := has && fget r 3 1 == 0
  if fget r 0 1 = 0 then g
  else { g with
    fin := fget r 1 1 == 1, halt := fget r 2 1 == 1, poison := fget r 5 1 == 1, skid := fget r 17 3, left := 0, splits := sps, stack := st
    s := (List.range 64).foldl (fun (m : Sparse Word) j => Sparse.set 0 m j (BitVec.ofNat 32 (fget r (2560 + 32 * j) 32))) []
    p := (List.range 7).foldl (fun (m : Sparse Word) j => Sparse.set 0 m j (BitVec.ofNat 32 (fget r (4608 + 32 * j) 32))) []
    v := (List.range (256 * c.slotBudget i)).foldl (fun (m : Sparse Word) j =>
      Sparse.set 0 m j (BitVec.ofNat 32 (s.block c (c.vregAt i + 4 * j) 4))) []
    trap := if current then some rec_ else none
    pend := if current then g.pend else if has then some rec_ else none
    hcyc := if current then rec_.hcyc else 0
    hstart := s.time }

/-- The expansions of a cohort's sets from SLU, the newer sets' lanes first (21 R309, R310). -/
def State.expAt (s : State) (c : Cohort) (j : Nat) (newer : List (SluiceSet × Expansion)) (e : Expansion) : Expansion :=
  let h := s.block c (c.sect 7 + 32 * j) 32
  let x (g l : Nat) : Nat := s.block c (c.sect 7 + 512 + 32 * (32 * g + l)) 32
  let mine (g l : Nat) : Bool := decide (g < 16) && newer.all fun p => !p.2.has g l
  { e with
    t := fget h 0 32, op := fget h 32 8, k := 2 ^ fget h 40 8
    owners := e.owners.map fun o => if !mine o.g o.lane then o else
      { o with acc := if fget (x o.g o.lane) 192 8 ≠ 0 then some (BitVec.ofNat 32 (fget (x o.g o.lane) 112 32)) else none
               next := fget (x o.g o.lane) 144 32 }
    recvs := e.recvs.map fun r => if !mine r.g r.lane then r else
      { r with taken := fget (x r.g r.lane) 0 32
               cur := if fget (x r.g r.lane) 176 8 ≠ 0 then some (fget (x r.g r.lane) 32 16, fget (x r.g r.lane) 48 32) else none
               posted := if fget (x r.g r.lane) 184 8 ≠ 0 then some (BitVec.ofNat 32 (fget (x r.g r.lane) 80 32)) else none }
    held := (s.elements 1 16 (fget h 64 56)).map fun p => (fget p 0 32, fget p 32 32, if fget p 96 1 = 1 then some (BitVec.ofNat 32 (fget p 64 32)) else none) }

def State.setsAt (s : State) (c : Cohort) : Nat → List (SluiceSet × Expansion) → List SluiceSet → List SluiceSet
  | _, _, [] => []
  | j, newer, st :: t => match st.exp with
    | none => st :: s.setsAt c j newer t
    | some e => (if j < 16 then { st with first := fget (s.block c (c.sect 7 + 32 * j) 32) 48 8, exp := some (s.expAt c j newer e) } else st) ::
        s.setsAt c (j + 1) (newer ++ [(st, e)]) t

/-- A Winze run from WNZ and its frame copies; a frame whose STATE is as it was keeps its place in the order (log entry 64). -/
def State.runAt (s : State) (c : Cohort) (ext : Nat) (w : WinzeRun) : WinzeRun :=
  let o := s.block c (c.sect 8) 64
  let x := s.block c (c.sect 8 + 64) 64
  let fs := s.elements 2 8 ext
  let frame (e : Nat) (f : Frame) : Frame :=
    { f with nkid := fget e 8 8, next := fget e 16 8, settled := fget e 24 1 == 1
             worker := if fget e 32 32 = 0xFFFFFFFF then none else some (fget e 32 32)
             stage := if fget e 0 8 = f.state then f.stage else if fget e 0 8 = 3 then .done else if fget e 0 8 = 2 then .kids else .divide }
  let live := w.frames.filter fun p => p.2.isSome
  { w with
    div := fget o 0 32, bas := fget o 32 32, cmb := fget o 64 32, fsz := fget o 96 16, fan := fget o 112 3, maxd := fget o 120 7
    arena := fget o 128 56, asize := fget o 192 64, b := fget x 128 64
    df := if fget x 0 64 = 1 then some (fget x 192 64) else none
    frames := live.zipIdx.map fun (p : (Nat × Option Frame) × Nat) => (p.1.1, p.1.2.map fun f => match fs[p.2]? with
      | some e => frame e f
      | none => f)
    workers := w.workers.zipIdx.map fun (p : Worker × Nat) =>
      let y := s.block c (c.sect 8 + 128 + 16 * p.2) 16
      { p.1 with base := fget y 0 64, used := fget y 64 64 - fget y 0 64 } }

/-- Digest contexts from the pages of DGEXT. -/
def Cohort.readDigests (c : Cohort) (es : List Nat) : Cohort :=
  let ctxOf (e : Nat) : DigestCtx := { a := BitVec.ofNat 64 (fget e 128 64), b := BitVec.ofNat 64 (fget e 192 64), d := BitVec.ofNat 64 (fget e 256 64), x := BitVec.ofNat 64 (fget e 320 64) }
  { c with groups := c.groups.zipIdx.map fun (p : Group × Nat) =>
      let mine := es.filter fun e => fget e 0 16 == c.slotOf p.2 p.1
      let put (cur : Bool) : Sparse (Option DigestCtx) := (mine.filter fun e => (fget e 24 1 == 1) == cur).foldl
        (fun (m : Sparse (Option DigestCtx)) e => Sparse.set none m (fget e 16 8) (some (ctxOf e))) []
      { p.1 with dg := put true, dgIter := put false } }

/-- The cohort that its block describes. -/
def State.cohortAt (s : State) (c : Cohort) : Cohort :=
  let h := s.header21 c
  let held : Word := BitVec.ofNat 32 (fget h 608 32)
  let words (n lo k : Nat) (d : Word) : Sparse Word := (List.range k).foldl (fun (m : Sparse Word) j =>
    Sparse.set d m (n * k + j) (BitVec.ofNat 32 (s.block c (c.sect 6 + 16896 * n + lo + 4 * j) 4))) []
  let names := (List.range 32).filter fun n => held.getLsbD n
  let d := c.readDigests (s.elements 5 48 (fget h 736 56))
  { d with
    groups := d.groups.zipIdx.map fun (p : Group × Nat) => s.groupAt c p.2 p.1
    sets := s.setsAt c 0 [] c.sets
    run := c.run.map (s.runAt c (fget h 544 56))
    astamp := fget h 672 64
    aheld := held
    tvec := BitVec.ofNat 32 (fget h 640 32)
    lcell := fget h 226 10
    ttab := (List.range 64).foldl (fun (m : Sparse (BitVec 512)) i => Sparse.set 0 m i (BitVec.ofNat 512 (s.block c (c.sect 5 + 64 * i) 64))) []
    accE := names.flatMap fun n => words n 0 4096 0
    accM := names.flatMap fun n => words n 16384 64 negInf
    accL := names.flatMap fun n => words n 16640 64 0
    scratch := (List.range c.z).foldl (fun (m : Sparse Byte) j => Sparse.set 0 m j (BitVec.ofNat 8 (s.block c (c.sect 9 + j) 1))) [] }

/-! ### Restore (21 R301, R303, R314, R356) -/

/-- Deliver a trap under R296 as class C; with `%tvec` = 0 the launch ends (21 Table 21.4). -/
def State.deliverC (s : State) (w : Who) (r : TrapRec) : State :=
  match s.cohort? w.co with
  | none => s
  | some c => if c.tvec = 0 then (match c.launch with
      | some l => s.endLaunch l r.code r.detail
      | none => s)
    else s.takeTrap w { r with cause := 0 }

/-- The commands of a cohort as its pages hold them (21 R310). -/
def State.cmdsAt (s : State) (c : Cohort) : State :=
  let es := s.elements 4 256 (fget (s.header21 c) 544 56)
  { s with cmds := s.cmds.map fun (m : Cmd) => if m.co ≠ some c.id then m else match es.find? fun e => fget e 64 64 == m.id with
      | none => m
      | some e => { m with prog := BitVec.ofNat 48 (fget e 128 48), p0 := BitVec.ofNat 32 (fget e 192 32), p1 := BitVec.ofNat 32 (fget e 224 32),
                           td := BitVec.ofNat 512 (fget e 512 512), ts := BitVec.ofNat 512 (fget e 1024 512), tx := BitVec.ofNat 512 (fget e 1536 512) } }

/-- The commands of a cohort run again, each from its progress point (17 R238, R254); a faulted one stays stopped until its service
says. -/
def State.restartCmds (s : State) (co : Nat) : State :=
  { s with cmds := s.cmds.map fun m => if m.co = some co ∧ m.fault.isNone then { m with stopped := false, ahead := [] } else m }

/-- The faulted command of a group. -/
def State.faulted (s : State) (co gi : Nat) : Option Cmd := s.cmds.find? fun m => m.co == some co && m.gi == gi && m.fault.isSome

/-- A command goes on at its progress point. -/
def State.resumeCmd (s : State) (id : Nat) : State := s.updCmd id fun m => { m with fault := none, stopped := false, ahead := [] }

/-- A split goes on at its resume point (21 Table 21.4): one that waits there still, or past a word that it has issued, goes on waiting. -/
def Split.resumeAt (pc : VAddr) (x : Split) : Split :=
  if x.past.1 = pc then x else { x with pc := pc, wait := .none, chain := [], codes := [], landed := true }

/-- The service outcome acts on the escalated trap: 1 RESUME, 2 DELIVER (21 Table 21.4, R303, R314, R356). A live handler whose record
was kept aside has it back and goes on at its own PC; beside it a delivered trap waits. -/
def State.serviced (s : State) (co gi : Nat) (r : TrapRec) (out : Nat) : State :=
  let w : Who := ⟨co, gi, r.split⟩
  let back := s.updGr w fun g => { g with trap := g.kept.map fun t => { t with cause := 0 }, kept := none, hcyc := (g.kept.map fun t => t.hcyc).getD 0, hstart := s.time }
  let kept := (s.group? co gi).any fun g => g.kept.isSome
  let entry := (s.group? co gi).bind fun g => g.stack.find? fun e => e.kind == .trap
  let unpush (e : StackEntry) : State := back.updGr w fun g => (g.popEntry e).updSp w.si fun x =>
    { x with mask := e.mask, pc := e.pc, pos := e.pos, handler := false, chain := [], codes := [], landed := true }
  if r.cause = 8 then
    (match s.faulted co gi with
     | none => back.nextTrap co
     | some m => (if out = 1 then back.resumeCmd m.id else back.deliverCmd m r.code).nextTrap co)
  else if r.cause = 6 then
    (match entry with
     | none => back.nextTrap co
     | some e => if out = 1 then s.returnTrap w e else (unpush e).deliverC w r)
  else if r.cause = 3 ∨ r.cause = 4 then
    (if out = 1 then s.updGr w fun g => { g with trap := some { r with cause := 0 }, hstart := s.time } else s.escalate co gi r 3)
  else if out = 1 then (if kept then back else back.updSp w (Split.resumeAt r.rpc)).nextTrap co
  else if (s.cohort? co).any fun c => c.handling then (back.engineFault w { r with cause := 0 } none).nextTrap co
  else back.deliverC w r

/-- The arrivals of a saved cohort, by STAMP: barrier arrival or wake, parity, target, stamp (13 R200). -/
def State.arrivals (s : State) (c : Cohort) : List Nat := sortKey (fun e => [fget e 64 64]) (s.elements 0 16 (fget (s.header21 c) 544 56))

/-- One barrier arrival of the log is applied as R169 says, and the command that made it ends; one that overruns leaves its word, and its
command faults when the restore is done (17 R238, R239; log entry 42). -/
def State.replayArrival (s : State) (co : Nat) (e : Nat) : State :=
  if fget e 60 4 ≠ 0 then s
  else
    let off := fget e 0 32
    let m? := s.cmds.find? fun m => m.co == some co && m.logged == some (fget e 64 64)
    match s.cohort? co with
    | none => s
    | some c => match c.arriveAt off (fget e 32 1) with
      | none => s
      | some r =>
        let s1 := s.updCo co fun _ => { r.2.2 with cmdWords := (off :: c.cmdWords).eraseDups }
        match m? with
        | none => s1
        | some m => s1.finishCmd m 0 0

/-- A monitor that was saved ARMED reads its word at the home slice, which its address names by the tables as they are now: it fires, or
is armed again (13 R194, R200; 15 R233; log entry 57). -/
def State.rearmSaved (s : State) (w : Who) : State := match s.cohort? w.co, s.split? w with
  | some c, some x => if x.mon.st ≠ .armed then s
    else match s.laneXlate c x.mon.addr.toNat .read with
      | .ok p => s.arm w x.mon.addr p.key x.mon.wide x.mon.cond x.mon.cmp
      | .error _ => s.updSp w fun x => { x with mon := x.mon.nowhere }
  | _, _ => s

/-- The arrival log is replayed in STAMP order, before any split issues. -/
def State.replayLog (s : State) (co : Nat) (es : List Nat) : State :=
  let s1 := es.foldl (fun (s : State) e => s.replayArrival co e) s
  match s1.cohort? co with
  | none => s1
  | some c => ((c.groups.zipIdx).flatMap fun q => (List.range q.1.splits.length).map fun i => (⟨co, q.2, i⟩ : Who)).foldl (fun (s : State) w => s.rearmSaved w) s1

/-- The commands whose logged arrival overran meet that fault (17 R239). -/
def State.overruns (s : State) (co : Nat) : State :=
  match s.cmds.find? fun m => m.co == some co && m.logged.isSome with
  | none => s
  | some m =>
    let s1 := { s with cmds := s.cmds.map fun (n : Cmd) => if n.co = some co then { n with logged := none } else n }
    s1.cmdFault { m with logged := none } (BARRIER_OVERRUN, 0)

/-- The banks that a cohort claims can be had on a cluster: they are its own there, or free and not about to change their mode (13 R184,
R185). -/
def State.fifosFree (s : State) (c : Cohort) (k : Nat) : Bool := c.fifos.all fun b =>
  (s.fifo k b).owner == some c.id ||
  (s.bankMode k b == 2 && (s.fifo k b).owner.isNone && (s.cluster k).change.all fun p => p.1 != b)

/-- FIFO images come to the cohort's cluster (21 R310); of another module's context its banks are claimed there. -/
def State.moveFifos (s : State) (c : Cohort) (k : Nat) (is : List (Nat × List (List Byte))) : State := c.fifos.foldl (fun (s : State) b =>
  match s.fifoHome c.id b with
  | none => s.setFifo k b { owner := some c.id, entries := ((is.find? fun p => p.1 == b).map fun p => p.2).getD [] }
  | some (k0, f) => (if k0 = k then s else s.setFifo k0 b {}).setFifo k b { f with entries := ((is.find? fun p => p.1 == b).map fun p => p.2).getD f.entries }) s

/-- A cohort may return: its logical cell is eligible, its FIFO banks and handles can be had, its device is not stopped, and no
arrival waits to enter its log. -/
def State.mayRestore (s : State) (c : Cohort) : Bool :=
  let x := fget (s.header21 c) 226 10
  let p := s.pcell x
  s.eligible (c.needs false) x && s.fifosFree c (p / 8) && !s.rootStopped c.root && c.alog.isEmpty &&
  decide ((lanesOf (BitVec.ofNat 32 (fget (s.header21 c) 608 32))).length + s.accUsed p ≤ 32)

/-- The marked windows of a split are issued again in order, up to one that keeps its mark (05 R75): a handler's own as well, not those
below its TRAP entry. -/
def State.reissueSplit (s : State) (w : Who) : State :=
  match s.split? w with
  | none => s
  | some x => (sortKey (fun (v : Window) => [v.ord]) (x.windows.filter fun v => v.re && !v.under)).foldl (fun (s : State) v =>
      if (s.cohort? w.co).any (fun c => c.status == .resident && !s.stopped c) &&
          !((s.split? w).any fun y => y.windows.any fun u => u.re && !u.under && decide (u.ord < v.ord)) then s.reissue w v else s) s

/-- A split that goes on waiting in its word stands at it, its chain read again (05 R62), and the codes of its pair word (R80). -/
def State.skipChain (s : State) (c : Cohort) (dict : List Word) : Nat → Split → Split
  | 0, x => x
  | n + 1, x => match s.fetch c x.pc with
    | .error _ => x
    | .ok w =>
      if bits w 25 7 = 0x3F then s.skipChain c dict n
        { x with chain := x.chain ++ [w], chainPc := if x.chain.isEmpty then x.pc else x.chainPc, pc := x.pc + 4 }
      else if bit w 31 then { x with codes := pairCodes dict w } else x

/-- The splits of a restored cohort that go on waiting stand in their words again; one past its word needs none of it. -/
def State.rewait (s : State) (c : Cohort) : Cohort :=
  let dict := ((s.cell (s.pcell c.lcell)).cfg.map fun f => f.dict).getD []
  c.mapSplits fun x => if x.live ∧ x.wait ≠ .none ∧ x.wait.issued = false then s.skipChain c dict 8 x else x

/-- WAKE entries that a saved split kept for a `waitc` which its record no longer has are given up (23 R324). -/
def State.dropWakes (s : State) (c : Cohort) : State :=
  (c.groups.zipIdx).foldl (fun (s : State) p => (p.1.splits.zipIdx).foldl (fun (s : State) q => match q.1.wait with
    | .waitc _ _ _ => s
    | _ => s.wakeRelease ⟨c.id, p.2, q.2⟩) s) s

/-- Restore one cohort that passes its checks (21 R301): placement with its acquire, the log, the windows, the commands, then
its traps. -/
def State.restoreOne (s : State) (c0 : Cohort) (stop : Nat) (esc : Option Nat) : State :=
  let h := s.header21 c0
  let c := s.cohortAt c0
  let log := s.arrivals c0
  let images := readImages 65 (s.pageBytes 3 maxPages (fget h 544 56))
  let traps := c.groups.any fun g => g.trap.isSome || g.pend.isSome || !g.queued.isEmpty
  let c1 : Cohort := { c with groups := c.groups.map fun (g : Group) => { g with halt := g.halt || traps } }
  let s0 := ((s.cmdsAt c0).dropPages c0).place c1 c.lcell c.hdr
  let s1 := (s0.updCo c.id s0.rewait).dropWakes c1
  let p := s1.pcell c.lcell
  let s2 := (s1.moveFifos c (p / 8) images).logWrite c.die 2 c.lcell c.ltag (movePay c.cseq c0.leftCell p stop true)
  let s3 := s2.replayLog c.id log
  let ws := (c.groups.zipIdx).flatMap fun q => (List.range q.1.splits.length).map fun i => (⟨c.id, q.2, i⟩ : Who)
  let s4 := (ws.foldl (fun (s : State) w => s.reissueSplit w) s3).restartCmds c.id
  let s5 := match esc.bind fun gi => ((s4.group? c.id gi).bind fun g => g.trap).map fun r => (gi, r) with
    | some (gi, r) => s4.serviced c.id gi r (fget h 22 2)
    | none => if traps then s4.nextTrap c.id else s4
  s5.overruns c.id

/-- Whether the service of an escalated cohort has chosen END, or nothing. -/
def State.outcomeOf (s : State) (c : Cohort) : Nat := fget (s.header21 c) 22 2

/-- A Headframe core has chosen END (21 Table 21.4) for an escalated cohort, or for one whose restore was refused, or is (R302). -/
def State.ended (s : State) (d : Cohort) : Bool := (match d.status with
    | .saved n _ => n == 5 || s.signals.contains (.restoreRefused d.ctx) || s.refused d
    | _ => false) && s.outcomeOf d == 3

/-- Restore a saved cohort, with its wave (07 R111): a refusal by R302 for a block that fails its checks or that its service
has not decided; END ends the launch, with CODE and DETAIL 0 where no trap was escalated (R304); else all return together when each
may. -/
def State.restore (s : State) (c : Cohort) : State :=
  let cs := s.waveOf c
  let bad (d : Cohort) : Bool := s.refused d || (match d.status with
    | .saved 5 _ => s.outcomeOf d == 0
    | _ => false)
  match cs.find? s.ended with
  | some d =>
    let r := (match d.status with
      | .saved _ (some gi) => (d.groups[gi]?).bind fun g => (s.groupAt d gi g).trap
      | _ => none)
    (match d.launch with
     | some l => s.endLaunch l ((r.map fun r => r.code).getD 0) ((r.map fun r => r.detail).getD 0)
     | none => s)
  | none =>
    if cs.any (fun d => match d.status with
      | .saved _ _ => false
      | _ => true) then s
    else match cs.find? bad with
      | some d => s.refuse d.die d.ctx
      | none =>
        if !s.moveRoom c.die cs.length then s.faceterStall c.die
        else if s.fstall c.die then s
        else
          let go := cs.foldl (fun (r : Option State) d => r.bind fun s => match s.cohort? d.id with
            | none => none
            | some e => match e.status with
              | .saved stop esc => if s.mayRestore e then some (s.restoreOne e stop esc) else none
              | _ => none) (some s)
          go.getD s

/-- `COHORT_RESTORE` (21 R301, R302). A held cohort whose finished groups' command faulted is served here too (21 R356). -/
def execCohortRestore (co : Nat) (s : State) : Host.Outcome State Fault Refusal :=
  .next (match s.cohort? co with
    | none => s
    | some c => match c.status with
      | .saved _ _ => s.restore c
      | .held =>
        (match s.cmds.find? fun m => m.co == some co && m.fault.isSome with
         | none => s
         | some m =>
           let r : TrapRec := ((c.groups[m.gi]?).map fun g => TrapRec.ofRecord (s.homeRead (c.recordPlace m.gi g) 64) 0).getD { code := 0, split := 0, pc := 0, pos := 0, rpc := 0, rpos := 0 }
           match s.outcomeOf c with
           | 1 => s.resumeCmd m.id
           | 2 => s.deliverCmd m r.code
           | 3 => (match c.launch with
             | some l => s.endLaunch l r.code r.detail
             | none => s)
           | _ => s)
      | _ => s)

/-! ### Pre-emption requests and pools (21 R300, R311) -/

/-- The cohorts that a request on a die names: those of a launch or of a logical cell, wherever they are, or those of the die. -/
def State.named (s : State) (die mode a : Nat) (c : Cohort) : Bool :=
  !c.isHF && (match mode with
    | 0 => (c.launch.bind s.launch?).any fun l => l.node.any fun n => (s.nodes[n]?).any fun x => x.addr.toNat == a
    | 1 => c.lcell == a % 1024
    | _ => c.die == die)

/-- A request halts every named cohort, and the waves they belong to, to be saved. -/
def State.preempt (s : State) (stop : Nat) (f : Cohort → Bool) : State :=
  ((s.cohorts.filter f).flatMap s.waveOf).foldl (fun (s : State) c => s.startSave c.id stop) { s with stalled := [] }

/-- The value of PREQ: GO reads 1 until every save is done. -/
def State.preqBusy (s : State) (die : Nat) : Bool :=
  let r := s.reg (dieReg die 0x0338)
  bit r 63 && s.cohorts.any fun c => s.named die (bits r 56 2) (bits r 0 56) c && (match c.status with
    | .saving _ _ => true
    | _ => false)

/-- `PREEMPT_REQUEST` (21 R300, Table 21.11): a PREQ write; with GO it starts, and MODE 3 is ignored; a write while GO reads
1 is ignored (log entry 43). -/
def State.writePreq (s : State) (die : Nat) (v : BitVec 64) : State :=
  let off := dieReg die 0x0338
  if s.preqBusy die ∨ bits v 56 2 = 3 then s
  else
    let s1 := s.setReg off (v &&& (BitVec.ofNat 64 (2 ^ 58 - 1) ||| (1#64 <<< 63)))
    if bit v 63 then s1.preempt 1 (s.named die (bits v 56 2) (bits v 0 56)) else s1

def execPreemptRequest (die : Nat) (v : BitVec 64) (s : State) : Host.Outcome State Fault Refusal := .next (s.writePreq die v)

/-- A push onto a pool list (21 R311); a bad address is ignored and sets PERR. -/
def State.writePool (s : State) (die c : Nat) (v : BitVec 64) : State :=
  let a := v.toNat % 2 ^ 56
  if a = 0 ∨ hbmEnd ≤ a ∨ a % 4096 ≠ 0 then s.setReg (dieReg die 0x0340) (s.reg (dieReg die 0x0340) ||| (1#64 <<< 62))
  else { s with stalled := [] }.poolPush die c a

/-- `CTXPOOL_PUSH` (21 R311). -/
def execCtxpoolPush (die c : Nat) (v : BitVec 64) (s : State) : Host.Outcome State Fault Refusal :=
  .next (if c < 5 then s.writePool die c v else s)

/-- `EXTPOOL_PUSH` (21 R311). -/
def execExtpoolPush (die : Nat) (v : BitVec 64) (s : State) : Host.Outcome State Fault Refusal := .next (s.writePool die 5 v)

end Sys2Proof.Machine
end

