-- ==== Sys2Proof/Machine/Cells.lean ====
section
/-! DEFINITION. What cells and their Faceters do by themselves: latency levels (07 R117), quanta (R118), temperatures and
thermal moves (R120, R121); and write-backs and page walks (13 R182, R192). -/
namespace Sys2Proof.Machine

/-- A new LLS from the victim hits and memory instructions of the last 4,096 cycles, after n times 256 cycles, of which the first holds
what has been counted (07 R117). -/
def Cell.newLls (x : Cell) (n : Nat) : Cell :=
  let hist := (List.replicate (min 16 (n - 1)) (0, 0) ++ (x.h, x.m) :: x.hist).take 16
  let h := (hist.map fun p => p.1).sum
  let m := (hist.map fun p => p.2).sum
  { x with h := 0, m := 0, hist := hist, llsAt := x.llsAt + 256 * n, lls := if m = 0 then 0 else min 4 (1024 * h / m / 128) }

/-- `LLS_UPDATE` (07 R117): every 256 cell cycles; nothing changes on a cell that has counted nothing in 4,096. -/
def execLlsUpdate (cell : Nat) (s : State) : Host.Outcome State Fault Refusal :=
  let x := s.cell cell
  let t := max s.time (x.llsAt + 256)
  .next (if x.quiet then s else { s with time := t, stalled := [] }.updCell cell fun x => x.newLls ((t - x.llsAt) / 256))

/-! ### Quanta (07 R118) -/

/-- Cohorts on a physical cell, neither saved nor finished. -/
def State.residents (s : State) (p : Nat) : List Cohort := s.cohorts.filter fun c => !c.isHF && s.pcell c.lcell == p && (match c.status with
  | .resident => true
  | .saving _ _ => true
  | _ => false)

/-- The launch that takes the cell: with another configuration and a priority at least as high as the residents'. -/
def State.successor (s : State) (p : Nat) : Option Launch :=
  let top := ((s.residents p).map fun c => hPrio c.hdr).foldl max 0
  let ls := s.launches.filter fun l => s.waitsForCell (p / 128) l && decide (top ≤ hPrio l.hdr) &&
    (match (s.cell p).cfg with
     | some f => !f.same (configOf l.root l.hdr)
     | none => false)
  ls.find? fun l => ls.all fun k => !(k.before l)

/-- The cell has been cleared for a launch: its configuration is loaded, and the cell takes the waiting cohorts first; nothing is loaded
for a launch that has ended meanwhile. -/
def State.switchTo (s : State) (cell n : Nat) : State :=
  let s1 := s.updCell cell fun x => { x with switch := none }
  match s1.launch? n with
  | none => s1
  | some l => if l.result.isSome then s1 else (s1.loadUnit cell l.root l.hdr).updCell cell fun x => { x with due := true }

/-- `QUANTUM_END`: the cell's quantum, of 2,500 cell cycles a microsecond, has ended; where a launch with another
configuration waits, the residents are pre-empted with STOP 2, and once every one of them is saved the new configuration is loaded.
Until then nothing is dispatched to the cell (07 R118). A quantum that ended with none waiting is looked at again whenever one has come
(DESIGN CHOICE, log entry 73: R118 speaks of the end of a quantum alone). No quantum ends on a stopped cell (23 R318). -/
def execQuantumEnd (cell : Nat) (s : State) : Host.Outcome State Fault Refusal :=
  .next (
    let q := s.cell cell
    match q.switch with
    | some n => if (s.residents cell).isEmpty then { s with stalled := [] }.switchTo cell n else s
    | none =>
      if q.qlen = 0 ∨ bit (s.reg (cluReg (cell / 8) 0x0488)) 0 ∨ (s.residents cell).isEmpty then s
      else match s.successor cell with
        | none => s
        | some l =>
          let s1 : State := { s with time := max s.time (q.quantum + 2500 * q.qlen), stalled := [] }
          let cs := (s1.residents cell).flatMap s1.waveOf
          let s2 := s1.startSaves 2 cs
          if !s1.moveRoom (cell / 128) cs.length then s1.faceterStall (cell / 128)
          else match s2.saveAll cs with
            | some s3 => s3.switchTo cell l.num
            | none => s2.updCell cell fun x => { x with switch := some l.num })

/-! ### Temperatures and thermal moves (07 R120, R121) -/

/-- `TEMPERATURE_CHECK`: the temperatures of a die's cells, in 1/16 °C, enter TSTAT and are held against TTHRESH. Of equally hot
cells TSTAT names the lowest (DESIGN CHOICE, log entry 74). -/
def execTemperatureCheck (die : Nat) (temps : List Nat) (s : State) : Host.Outcome State Fault Refusal :=
  .next (
    if 4 ≤ die then s
    else
      let s1 := (List.range 128).foldl (fun (s : State) i => s.updCell (128 * die + i) fun x => { x with temp := temps.getD i 0 % 4096 }) s
      let best := (List.range 128).foldl (fun (b : Nat) i => if (s1.cell (128 * die + b)).temp < (s1.cell (128 * die + i)).temp then i else b) 0
      let limit := bits (s1.reg (dieReg die 0x0368)) 0 12
      let hots := ((List.range 128).map fun i => 128 * die + i).filter fun c => decide (limit < (s1.cell c).temp)
      { s1.setReg (dieReg die 0x0370) (BitVec.ofNat 64 (best + (s1.cell (128 * die + best)).temp * 2 ^ 16)) with
        hot := (s1.hot.filter fun c => c / 128 != die) ++ hots })

/-- The coolest cell of the die, not fenced, that can take every cohort of a hot cell: its logical number, lowest on a tie. -/
def State.coolest (s : State) (hot : Nat) : Option Nat :=
  let cs := s.residents hot
  ((List.range s.lmap.length).filter fun x => s.pcell x != hot && s.pcell x / 128 == hot / 128 && !s.fenced.contains (s.pcell x) &&
      cs.all fun c => s.eligible (c.needs false) x).foldl (fun (b : Option Nat) x => match b with
    | none => some x
    | some y => if (s.cell (s.pcell x)).temp < (s.cell (s.pcell y)).temp then some x else b) none

/-- Two logical cells exchange their physical cells. -/
def State.swapCells (s : State) (x y : Nat) : State := { s with lmap := (s.lmap.set x (s.pcell y)).set y (s.pcell x) }

/-- A finished cohort whose commands still run stands on a physical cell (17 R238). -/
def State.holds (s : State) (p : Nat) : Bool := s.cohorts.any fun c => c.status == .held && s.pcell c.lcell == p

/-- `THERMAL_MOVE`: every cohort of the hot cell and of the coolest is saved with STOP 3, once resident for 2 ms, and the map
is changed; they return to their logical cells (21 R301). It waits for the commands of finished cohorts there. -/
def execThermalMove (die hot : Nat) (s : State) : Host.Outcome State Fault Refusal :=
  .next (
    if !(s.hot.contains hot && hot / 128 == die && s.lmap.contains hot) then s
    else match s.coolest hot with
      | none => s
      | some y =>
        let x := s.lmap.idxOf hot
        let cs := s.residents hot ++ s.residents (s.pcell y)
        let s1 : State := { s with time := (cs.map fun c => c.since + 5000000).foldl max s.time, stalled := [] }
        let all := cs.flatMap s1.waveOf
        if s.holds hot || s.holds (s.pcell y) then s
        else if !s1.moveRoom die all.length then s1.faceterStall die
        else match (s1.startSaves 3 all).saveAll all with
          | none => s
          | some s2 => { s2.swapCells x y with hot := s2.hot.filter fun c => c != hot })

/-! ### Write-backs and walks (13 R182, R192, R193) -/

/-- Dirty bytes that no link port has carried to their owner are lost: the PF's ring gets the uncorrectable error (25 R347; DESIGN CHOICE,
log entry 162). -/
def State.lineLost (s : State) (k : Nat) (l : Line) : State :=
  ({ s with time := max s.time (s.lineDue l), stalled := [] }.updCluster k fun c => { c with
    lines := (c.lines.map fun (m : Line) => if m.key = l.key then { m with bytes := m.bytes.filter fun p => (p.2.bind fun b => b.dirty).isNone }
      else m).filter fun m => !m.bytes.isEmpty }).event 0 { src := 5, code := ECC_UNCORRECTED, addr := l.key * 128 }

/-- `DIRTY_WRITEBACK_DEADLINE`: a line's dirty bytes are written back to their home slices (13 R182). -/
def execDirtyWritebackDeadline (k line : Nat) (s : State) : Host.Outcome State Fault Refusal :=
  .next (match (s.cluster k).line? line with
    | none => s
    | some l => if !l.isDirty then s
      else if s.noRoute (l.key * 128) then s.lineLost k l
      else { s with stalled := [] }.backLine k line)

/-- `PAGE_WALK`: a miss is walked and its translation kept, in a cluster's cache, a gather unit's (64 + die) or the
collective engine's (68); a walk that faults keeps nothing, and the access that missed takes the fault. -/
def execPageWalk (k : Nat) (root : Root) (va : Nat) (s : State) : Host.Outcome State Fault Refusal :=
  .next (
    if 2 ^ 56 ≤ va ∨ 69 ≤ k then s
    else match s.xlate (if k < 64 then (s.cluster k).tlb else Sparse.get [] s.tlbs (k - 64)) root va .read false with
      | .error _ => s
      | .ok p =>
        let (f, s1) := s.draw
        if k < 64 then s1.updCluster k fun x => { x with tlb := tlbAdd x.tlb 4096 f root p }
        else { s1 with tlbs := Sparse.set [] s1.tlbs (k - 64) (tlbAdd (Sparse.get [] s1.tlbs (k - 64)) 1024 f root p) })

end Sys2Proof.Machine
end

