-- ==== Sys2Proof/Machine/Hash.lean ====
section
/-! DEFINITION. SHAKE256 and SLH-DSA-SHAKE-256s, which 25 R349 to R352 name and two outside standards define: FIPS 202 and FIPS 205
(PRESUMED, log entry 13). -/
namespace Sys2Proof.Machine

/-! ### SHAKE256 (FIPS 202) -/

/-- Lane (x, y) of a Keccak state of 25 lanes, held by x + 5y; coordinates modulo 5. -/
def lane25 (a : List (BitVec 64)) (x y : Nat) : BitVec 64 := a.getD (x % 5 + 5 * (y % 5)) 0

/-- A state from its lanes. -/
def lanes25 (f : Nat → Nat → BitVec 64) : List (BitVec 64) := (List.range 25).map fun k => f (k % 5) (k / 5)

/-- The rotation of each lane (rho): a walk over the lanes from (1, 0), (x, y) to (y, 2x + 3y); step t turns its lane by the
triangular number (t + 1)(t + 2)/2. Lane (0, 0) is not on the walk. -/
def rhoWalk : Nat → Nat → Nat → Nat → List Nat → List Nat
  | 0, _, _, _, out => out
  | n + 1, t, x, y, out => rhoWalk n (t + 1) y ((2 * x + 3 * y) % 5) (out.set (x + 5 * y) ((t + 1) * (t + 2) / 2 % 64))

def rhoTurns : List Nat := rhoWalk 24 0 1 0 (List.replicate 25 0)

/-- The shift register behind the round constants: a byte is doubled, and a bit that leaves at the top comes back as 71H. -/
def iotaNext (r : Nat) : Nat := if r < 128 then 2 * r else (2 * r - 256) ^^^ 0x71

/-- The constant of one round, seven values of the register from r on: the value of step j gives bit 2^j - 1; with the register after it. -/
def iotaWord (r : Nat) : BitVec 64 × Nat :=
  (List.range 7).foldl (fun (p : BitVec 64 × Nat) j => (p.1 ||| BitVec.ofNat 64 (p.2 % 2 * 2 ^ (2 ^ j - 1)), iotaNext p.2)) (0, r)

/-- One round: theta, rho and pi, chi, iota. -/
def keccakRound (a : List (BitVec 64)) (rc : BitVec 64) : List (BitVec 64) :=
  let c := (List.range 5).map fun x => (List.range 5).foldl (fun (v : BitVec 64) y => v ^^^ lane25 a x y) 0
  let t := lanes25 fun x y => lane25 a x y ^^^ lane25 c (x + 4) 0 ^^^ (lane25 c ((x + 1) % 5) 0).rotateLeft 1
  let b := lanes25 fun x y => (lane25 t (x + 3 * y) x).rotateLeft (rhoTurns.getD ((x + 3 * y) % 5 + 5 * x) 0)
  let e := lanes25 fun x y => lane25 b x y ^^^ (~~~lane25 b (x + 1) y &&& lane25 b (x + 2) y)
  e.modify 0 fun v => v ^^^ rc

/-- n rounds, the shift register going on from one to the next. -/
def keccakRounds : Nat → Nat → List (BitVec 64) → List (BitVec 64)
  | 0, _, a => a
  | n + 1, r, a => let (rc, r1) := iotaWord r; keccakRounds n r1 (keccakRound a rc)

/-- The permutation: 24 rounds, the register from 1. -/
def keccakF (a : List (BitVec 64)) : List (BitVec 64) := keccakRounds 24 1 a

/-- The bytes in each block: 1,088 bits. -/
def shakeRate : Nat := 136

/-- A block enters the state. -/
def keccakAbsorb (a : List (BitVec 64)) (block : List Byte) : List (BitVec 64) :=
  keccakF (lanes25 fun x y => lane25 a x y ^^^ BitVec.ofNat 64 (ofBytes ((block.drop (8 * (x + 5 * y))).take 8)))

/-- Blocks of a padded message enter the state. -/
def shakeAbsorb : Nat → List Byte → List (BitVec 64) → List (BitVec 64)
  | 0, _, a => a
  | n + 1, m, a => shakeAbsorb n (m.drop shakeRate) (keccakAbsorb a (m.take shakeRate))

/-- The output, block by block. -/
def shakeSqueeze : Nat → List (BitVec 64) → List Byte
  | 0, _ => []
  | n + 1, a => (a.flatMap fun v => bytesOf 8 v.toNat).take shakeRate ++ shakeSqueeze n (keccakF a)

/-- SHAKE256 of a message, n bytes of output. -/
def shake256 (n : Nat) (m : List Byte) : List Byte :=
  let k := m.length / shakeRate + 1
  let padded := ((m ++ [0x1F]) ++ List.replicate (k * shakeRate - m.length - 1) 0).modify (k * shakeRate - 1) fun b => b ||| 0x80
  (shakeSqueeze ((n + shakeRate - 1) / shakeRate) (shakeAbsorb k padded (List.replicate 25 0))).take n

/-! ### Addresses and hashes (FIPS 205) -/

/-- A number in n bytes, most significant first. -/
def beBytes (n v : Nat) : List Byte := (bytesOf n v).reverse

/-- A number from bytes, most significant first. -/
def ofBe (bs : List Byte) : Nat := ofBytes bs.reverse

/-- ADRS. -/
structure HashAdrs where
  layer : Nat := 0
  tree : Nat := 0
  type : Nat := 0
  pair : Nat := 0
  /-- Chain address, or tree height. -/
  chain : Nat := 0
  /-- Hash address, or tree index. -/
  index : Nat := 0
  deriving DecidableEq, Repr

def HashAdrs.bytes (a : HashAdrs) : List Byte :=
  beBytes 4 a.layer ++ beBytes 12 a.tree ++ beBytes 4 a.type ++ beBytes 4 a.pair ++ beBytes 4 a.chain ++ beBytes 4 a.index

/-- setTypeAndClear, with the key pair address kept or set again. -/
def HashAdrs.toType (a : HashAdrs) (t p : Nat) : HashAdrs := { layer := a.layer, tree := a.tree, type := t, pair := p }

/-- F, H, T and PRF: 32 bytes of SHAKE256 over the public seed, the address and the message. -/
def thash (seed : List Byte) (a : HashAdrs) (m : List Byte) : List Byte := shake256 32 (seed ++ a.bytes ++ m)

/-- base_2^b: n digits of b bits, most significant first. -/
def digits (b n : Nat) (bs : List Byte) : List Nat :=
  let k := 8 * bs.length
  (List.range n).map fun i => ofBe bs / 2 ^ (k - b * (i + 1)) % 2 ^ b

/-- Piece i of a string of 32-byte values. -/
def piece (bs : List Byte) (i : Nat) : List Byte := (bs.drop (32 * i)).take 32

/-! ### WOTS+, with 67 chains of 16 values -/

/-- The chain function, s steps from step i. -/
def wotsChain (seed : List Byte) (a : HashAdrs) : Nat → Nat → List Byte → List Byte
  | 0, _, x => x
  | s + 1, i, x => wotsChain seed a s (i + 1) (thash seed { a with index := i } x)

/-- The digits of a message, with those of its checksum. -/
def wotsDigits (m : List Byte) : List Nat :=
  let ds := digits 4 64 m
  ds ++ digits 4 3 (beBytes 2 (16 * (ds.map fun d => 15 - d).sum))

/-- The private value of a chain. -/
def wotsSecret (sk seed : List Byte) (a : HashAdrs) (i : Nat) : List Byte := thash seed { a.toType 5 a.pair with chain := i } sk

/-- The public key of the values at the ends of the chains. -/
def wotsEnds (seed : List Byte) (a : HashAdrs) (ends : List (List Byte)) : List Byte := thash seed (a.toType 1 a.pair) ends.flatten

def wotsPkGen (sk seed : List Byte) (a : HashAdrs) : List Byte :=
  wotsEnds seed a ((List.range 67).map fun i => wotsChain seed { a with chain := i } 15 0 (wotsSecret sk seed a i))

def wotsSign (sk seed : List Byte) (a : HashAdrs) (m : List Byte) : List Byte :=
  ((wotsDigits m).zipIdx.map fun p => wotsChain seed { a with chain := p.2 } p.1 0 (wotsSecret sk seed a p.2)).flatten

def wotsPkFromSig (seed : List Byte) (a : HashAdrs) (sig m : List Byte) : List Byte :=
  wotsEnds seed a ((wotsDigits m).zipIdx.map fun p => wotsChain seed { a with chain := p.2 } (15 - p.1) p.1 (piece sig p.2))

/-! ### Merkle trees -/

/-- The root that an authentication path gives: `node` at height h and index i, its siblings from `auth`. -/
def climb (seed : List Byte) (a : HashAdrs) : List (List Byte) → Nat → Nat → List Byte → List Byte
  | [], _, _, node => node
  | s :: t, h, i, node =>
    let up : HashAdrs := { a with chain := h + 1, index := i / 2 }
    climb seed a t (h + 1) (i / 2) (thash seed up (if i % 2 = 0 then node ++ s else s ++ node))

/-- The node of index i at height z over given leaves. -/
def merkle (seed : List Byte) (a : HashAdrs) (leaf : Nat → List Byte) : Nat → Nat → List Byte
  | 0, i => leaf i
  | z + 1, i => thash seed { a with chain := z + 1, index := i } (merkle seed a leaf z (2 * i) ++ merkle seed a leaf z (2 * i + 1))

/-- A node of an XMSS tree of height 8. -/
def xmssNode (sk seed : List Byte) (a : HashAdrs) (z i : Nat) : List Byte :=
  merkle seed (a.toType 2 0) (fun j => wotsPkGen sk seed (a.toType 0 j)) z i

def xmssSign (sk seed : List Byte) (a : HashAdrs) (idx : Nat) (m : List Byte) : List Byte :=
  wotsSign sk seed (a.toType 0 idx) m ++ ((List.range 8).map fun j => xmssNode sk seed a j (idx / 2 ^ j ^^^ 1)).flatten

def xmssPkFromSig (seed : List Byte) (a : HashAdrs) (idx : Nat) (sig m : List Byte) : List Byte :=
  climb seed (a.toType 2 0) ((List.range 8).map fun j => piece sig (67 + j)) 0 idx (wotsPkFromSig seed (a.toType 0 idx) sig m)

/-- The hypertree's signature from layer j up: n layers. -/
def htSign (sk seed : List Byte) : Nat → Nat → Nat → Nat → List Byte → List Byte
  | 0, _, _, _, _ => []
  | n + 1, j, tree, leaf, m =>
    let a : HashAdrs := { layer := j, tree := tree }
    let sig := xmssSign sk seed a leaf m
    sig ++ htSign sk seed n (j + 1) (tree / 2 ^ 8) (tree % 2 ^ 8) (xmssPkFromSig seed a leaf sig m)

/-- The root that a hypertree signature gives, from layer j up: n layers of 75 values. -/
def htRoot (seed : List Byte) : Nat → Nat → Nat → Nat → List Byte → List Byte → List Byte
  | 0, _, _, _, _, m => m
  | n + 1, j, tree, leaf, sig, m =>
    htRoot seed n (j + 1) (tree / 2 ^ 8) (tree % 2 ^ 8) (sig.drop (32 * 75)) (xmssPkFromSig seed { layer := j, tree := tree } leaf sig m)

/-! ### FORS, with 22 trees of height 14 -/

/-- A private value of FORS. -/
def forsSecret (sk seed : List Byte) (a : HashAdrs) (i : Nat) : List Byte := thash seed { a.toType 6 a.pair with index := i } sk

/-- The leaf of a private value. -/
def forsLeaf (seed : List Byte) (a : HashAdrs) (i : Nat) (x : List Byte) : List Byte := thash seed { a with chain := 0, index := i } x

def forsSign (sk seed : List Byte) (a : HashAdrs) (md : List Byte) : List Byte :=
  ((digits 14 22 md).zipIdx.map fun p =>
    let leaf (i : Nat) : List Byte := forsLeaf seed a i (forsSecret sk seed a i)
    forsSecret sk seed a (p.2 * 2 ^ 14 + p.1) ++
      ((List.range 14).map fun j => merkle seed a leaf j (p.2 * 2 ^ (14 - j) + (p.1 / 2 ^ j ^^^ 1))).flatten).flatten

def forsPkFromSig (seed : List Byte) (a : HashAdrs) (sig md : List Byte) : List Byte :=
  thash seed (a.toType 4 a.pair) ((digits 14 22 md).zipIdx.map fun p =>
    let at_ (j : Nat) : List Byte := piece sig (15 * p.2 + j)
    let i := p.2 * 2 ^ 14 + p.1
    climb seed a ((List.range 14).map fun j => at_ (j + 1)) 0 i (forsLeaf seed a i (at_ 0))).flatten

/-! ### SLH-DSA-SHAKE-256s -/

/-- A key: the private seeds, and the public seed and root. -/
structure SlhKey where
  skSeed : List Byte
  skPrf : List Byte
  seed : List Byte
  root : List Byte
  deriving DecidableEq, Repr

/-- The public key, 64 bytes. -/
def SlhKey.pub (k : SlhKey) : List Byte := k.seed ++ k.root

/-- Key generation from 96 bytes. -/
def slhKeygen (x : List Byte) : SlhKey :=
  { skSeed := piece x 0, skPrf := piece x 1, seed := piece x 2, root := xmssNode (piece x 0) (piece x 2) { layer := 7 } 8 0 }

/-- The message with an empty context string. -/
def slhMessage (m : List Byte) : List Byte := [0, 0] ++ m

/-- The digest of a message: what FORS signs, the tree and the leaf. -/
def slhDigest (r seed root m : List Byte) : List Byte × Nat × Nat :=
  let d := shake256 47 (r ++ seed ++ root ++ slhMessage m)
  (d.take 39, ofBe ((d.drop 39).take 7) % 2 ^ 56, ofBe (d.drop 46) % 2 ^ 8)

/-- The signature of a message, with 32 bytes of randomness: 29,792 bytes. -/
def slhSign (k : SlhKey) (rand m : List Byte) : List Byte :=
  let r := shake256 32 (k.skPrf ++ rand ++ slhMessage m)
  let (md, tree, leaf) := slhDigest r k.seed k.root m
  let a : HashAdrs := { tree := tree, type := 3, pair := leaf }
  let sig := forsSign k.skSeed k.seed a md
  r ++ sig ++ htSign k.skSeed k.seed 8 0 tree leaf (forsPkFromSig k.seed a sig md)

/-- The signature of a message under a 64-byte public key is good. -/
def slhVerify (pk m sig : List Byte) : Bool :=
  sig.length == 29792 && pk.length == 64 && (
    let (md, tree, leaf) := slhDigest (piece sig 0) (piece pk 0) (piece pk 1) m
    let a : HashAdrs := { tree := tree, type := 3, pair := leaf }
    let fors := (sig.drop 32).take (32 * 330)
    htRoot (piece pk 0) 8 0 tree leaf (sig.drop (32 * 331)) (forsPkFromSig (piece pk 0) a fors md) == piece pk 1)

end Sys2Proof.Machine
end

