-- ==== Sys2Proof/Machine/Registers.lean ====
section
/-! DEFINITION. Registers whose writes start something of their own: bank modes (13 R185), range registers (R188), queues
(07 R119), invalidations (13 R194), watchpoints and the Loupe (23.1), the log registers (23 R321), link ports (25.4). -/
namespace Sys2Proof.Machine

/-- The bits [hi : lo] of a 64-bit register (00 R2). -/
def maskBits (hi lo : Nat) : BitVec 64 := BitVec.ofNat 64 (2 ^ (hi + 1) - 2 ^ lo)

/-- Set and clear bits of a register. -/
def State.orReg (s : State) (off : Nat) (m : BitVec 64) : State := s.setReg off (s.reg off ||| m)
def State.clearReg (s : State) (off : Nat) (m : BitVec 64) : State := s.setReg off (s.reg off &&& ~~~m)

/-! ### Bank modes (13 R181, R185) -/

/-- Set a bank's mode. -/
def State.setMode (s : State) (k bank code : Nat) : State :=
  let off := cluReg k (if bank < 32 then 0 else 8)
  s.setReg off (putBits (s.reg off) (2 * (bank % 32)) 2 code)

/-- The change of a bank to a code is refused; banks already about to leave CACHE mode no longer count as CACHE banks. -/
def State.modeRefused (s : State) (k bank code : Nat) (busy : Bool) : Bool :=
  let c := s.cluster k
  let stay := (List.range 64).filter fun b => s.bankMode k b = 0 && !c.change.any fun p => p.1 == b
  busy || code == 3 || (s.bankMode k bank == 0 && decide (stay.length < 9)) ||
  (s.bankMode k bank == 1 && Sparse.get 0 c.grans bank != 0) || (s.bankMode k bank == 2 && (s.fifo k bank).owner.isSome)

/-- One bank of a CSMODE write. -/
def State.changeBank (s : State) (k bank code : Nat) (busy : Bool) : State :=
  let stat := cluReg k 0x0010
  if s.bankMode k bank = code then s
  else if s.modeRefused k bank code busy then s.setReg stat (putBits (s.reg stat ||| 1) 2 6 bank)
  else (s.orReg stat 2).updCluster k fun c => { c with change := c.change ++ [(bank, code)] }

/-- A write to CSMODE0 or CSMODE1: its banks in ascending order. -/
def State.writeCsmode (s : State) (k : Nat) (hi : Bool) (v : BitVec 64) : State :=
  let busy := bit (s.reg (cluReg k 0x0010)) 1
  (List.range 32).foldl (fun (s : State) j => s.changeBank k ((if hi then 32 else 0) + j) (bits v (2 * j) 2) busy) { s with stalled := [] }

/-- `CSMODE_WRITE` (13 R185). -/
def execCsmodeWrite (k : Nat) (hi : Bool) (v : BitVec 64) (s : State) : Host.Outcome State Fault Refusal :=
  .next (if k < 64 then s.writeCsmode k hi v else s)

/-- A way leaves the cluster cache: dirty bytes are written back; of each set at most one line stood in it, and which is a
free value. -/
def State.leaveCache (s : State) (k : Nat) : State :=
  ((s.cluster k).lines.map fun l => l.key % 512).eraseDups.foldl (fun (s : State) set =>
    let same := (s.cluster k).lines.filter fun l => l.key % 512 == set
    let (f, s1) := s.draw
    match same[f % s.ways k]? with
    | none => s1
    | some v => s1.updCluster k fun c => { c with lines := c.lines.filter fun l => l.key != v.key }) (s.backAll k)

/-- `BANK_MODE_CHANGE_DONE` (13 R185): a bank enters its new mode, as an empty way, with every granule free, or empty and
unclaimed. A bank that leaves the cluster cache waits until its dirty bytes can go home (25 R347). -/
def execBankModeChangeDone (k bank : Nat) (s : State) : Host.Outcome State Fault Refusal :=
  .next (match (s.cluster k).change.find? fun p => p.1 == bank with
    | none => s
    | some (_, code) =>
      if s.bankMode k bank = 0 ∧ s.unbacked k = true then s
      else
        let s1 := if s.bankMode k bank = 0 then s.leaveCache k else s
        let s2 := (s1.setMode k bank code).updCluster k fun c =>
          { c with change := c.change.filter (fun p => p.1 != bank), grans := Sparse.set 0 c.grans bank 0, fifo := Sparse.set none c.fifo bank none }
        let s3 := if (s2.cluster k).change.isEmpty then s2.clearReg (cluReg k 0x0010) 2 else s2
        { s3 with stalled := [] })

/-! ### Range registers (13 R188) -/

def rrb (die n : Nat) : Nat := dieReg die (0x0100 + 16 * n)
def rrc (die n : Nat) : Nat := dieReg die (0x0108 + 16 * n)

/-- An enabled range register that R188 does not allow. -/
def rangeBad (b c : BitVec 64) : Bool :=
  bit c 0 && (decide (bits c 12 28 < bits b 12 28) || decide (16 < bits c 3 5) || bits c 1 2 == 3)

/-- The range registers of a die, with RRCn holding v, break R188. -/
def State.rangesBad (s : State) (die n : Nat) (v : BitVec 64) : Bool :=
  let cs := (List.range 16).map fun i => if i = n then v else s.reg (rrc die i)
  let on := cs.filter fun c => bit c 0
  cs.zipIdx.any (fun p => rangeBad (s.reg (rrb die p.2)) p.1) || decide (1 < (on.filter fun c => bits c 1 2 == 2).length) ||
  decide (14 < (on.map fun c => bits c 8 4).sum)

/-- A write to RRCn: refused with RRERR, or applied. -/
def State.writeRrc (s : State) (die n : Nat) (v : BitVec 64) : State :=
  let x := v &&& maskBits 39 0
  if s.rangesBad die n x then s.orReg (dieReg die 0x0200) 1 else s.setReg (rrc die n) x

/-- `RRC_WRITE` (13 R188). -/
def execRrcWrite (die n : Nat) (v : BitVec 64) (s : State) : Host.Outcome State Fault Refusal :=
  .next (if die < 4 ∧ n < 16 then s.writeRrc die n v else s)

/-! ### Queues (07 R119) -/

/-- A write to QCFGq: refused with QERR when QMIN exceeds QCAP or the sum of QMIN 512. -/
def State.writeQcfg (s : State) (cell q : Nat) (v : BitVec 64) : State :=
  let x := v &&& (maskBits 8 0 ||| maskBits 24 16)
  let sum := ((List.range 5).map fun i => bits (if i = q then x else s.reg (cellReg cell (8 * i))) 0 9).sum
  if 512 < sum ∨ bits x 16 9 < bits x 0 9 then s.orReg (cellReg cell 0x0028) 1
  else { s with stalled := [] }.setReg (cellReg cell (8 * q)) x

/-- `QCFG_WRITE` (07 R119). -/
def execQcfgWrite (cell q : Nat) (v : BitVec 64) (s : State) : Host.Outcome State Fault Refusal :=
  .next (if cell < 512 ∧ q < 5 then s.writeQcfg cell q v else s)

/-! ### Invalidations (13 R194; 25 R342) -/

/-- The root that an INVROOT value names. -/
def invRoot (n : Nat) : Root := if n < 16 then .vd n else .hf

/-- A write to INVGO. -/
def State.writeInvgo (s : State) (v : BitVec 64) : State := if bit v 63 then s.setReg 0x0C18 (maskBits 63 63) else s

/-- `TRANSLATION_INVALIDATE` (13 R194). -/
def execTranslationInvalidate (v : BitVec 64) (s : State) : Host.Outcome State Fault Refusal := .next (s.writeInvgo v)

/-- The root under which an operation held elsewhere was translated. -/
def State.heldRoot (s : State) (w : Who) (launch : Option Nat) : Root := match s.cohort? w.co with
  | some c => c.root
  | none => ((launch.bind s.launch?).map fun l => l.root).getD .hf

/-- An access already translated under a root is held for its ticket or its turn. -/
def State.heldUnder (s : State) (r : Root) : Bool :=
  s.sc.any (fun o => s.heldRoot o.who o.launch == r) || s.ords.any fun o => s.heldRoot o.who (some o.launch) == r

/-- Entries of a root that overlap [va, va + len); `len` 0 stands for every page. -/
def dropEntries (tlb : List TlbEntry) (r : Root) (va len : Nat) : List TlbEntry :=
  tlb.filter fun t => !(t.root == r && (len == 0 || (decide (t.base < va + len) && decide (va < t.base + t.size))))

/-- The monitors of a root follow the tables (13 R194): each is armed at the word that its address names now, and evaluates its
condition there; one whose address names no word any more never fires (log entry 57). A saved one is armed at its restore. -/
def State.rearm (s : State) (r : Root) : State :=
  let move (c : Cohort) (m : Monitor) : Monitor :=
    if m.st ≠ .armed then m
    else match s.laneXlate c m.addr.toNat .read with
      | .error _ => m.nowhere
      | .ok p => if p.key = m.key then m else
        let m1 : Monitor := { m with key := p.key }
        if s.monTrue m1 then { m1 with st := .fired, poll := false } else m1
  { s with cohorts := s.cohorts.map fun c => if c.root = r ∧ (c.status matches .saved _ _) = false then
      c.mapSplits fun x => { x with mon := move c x.mon } else c }

/-- `INVALIDATION_COMPLETE` (13 R194; 25 R342): the entries go, what they translated is performed at its home, the device's
root takes effect, GO clears. It waits for a store that no link port can carry home (25 R347). -/
def execInvalidationComplete (s : State) : Host.Outcome State Fault Refusal :=
  .next (
    let n := bits (s.reg 0x0C00) 0 5
    let r := invRoot n
    if !bit (s.reg 0x0C18) 63 || s.heldUnder r || (List.range 64).any s.unbacked then s
    else
      let va := bits (s.reg 0x0C08) 12 44 * 4096
      let len := bits (s.reg 0x0C10) 12 44 * 4096
      let s1 := (List.range 64).foldl (fun (s : State) k => (s.backAll k).updCluster k fun c => { c with tlb := dropEntries c.tlb r va len }) s
      let s2 : State := { s1 with
        tlbs := (List.range 5).foldl (fun (m : Sparse (List TlbEntry)) u => Sparse.set [] m u (dropEntries (Sparse.get [] m u) r va len)) s1.tlbs
        roots := if n < 16 then Sparse.set 0 s1.roots n (s1.reg (0x0A00 + 16 * n)) else s1.roots
        stalled := [] }
      (s2.rearm r).setReg 0x0C18 0)

/-! ### Watchpoints (23 R315) -/

def wpa (k n : Nat) : Nat := cluReg k (0x0400 + 16 * n)
def wpc (k n : Nat) : Nat := cluReg k (0x0408 + 16 * n)
def lstat (k : Nat) : Nat := cluReg k 0x0488

/-- An enabled watchpoint that R315 does not allow. -/
def watchBad (a c : BitVec 64) : Bool :=
  bit c 0 && (bits a 0 56 % 2 ^ bits c 6 5 != 0 || bits c 2 2 == 3 || bits c 4 2 == 0 || bits c 11 2 == 3 || decide (20 < bits c 6 5) ||
    (bits c 44 4 != 0 && bits c 2 2 != 2))

/-- A write to WPAn or WPCn: refused with WPERR, or applied. -/
def State.writeWatch (s : State) (k n : Nat) (ctl : Bool) (v : BitVec 64) : State :=
  let a := if ctl then s.reg (wpa k n) else v &&& maskBits 55 0
  let c := if ctl then v &&& (maskBits 63 44 ||| maskBits 13 2 ||| 1) else s.reg (wpc k n)
  if watchBad a c then s.orReg (lstat k) 2 else if ctl then s.setReg (wpc k n) c else s.setReg (wpa k n) a

/-- `WATCHPOINT_WRITE` (23 R315). -/
def execWatchpointWrite (k n : Nat) (ctl : Bool) (v : BitVec 64) (s : State) : Host.Outcome State Fault Refusal :=
  .next (if k < 64 ∧ n < 8 then s.writeWatch k n ctl v else s)

/-! ### The Loupe (23 R318 to R320) -/

/-- The cluster is stopped. -/
def State.held? (s : State) (k : Nat) : Bool := bit (s.reg (lstat k)) 0

/-- The cohorts resident in a cluster. -/
def State.onCluster (s : State) (k : Nat) : List Cohort := s.cohorts.filter fun c => s.clusterOf c == some k && c.status == .resident

/-- `CLUSTER_STOP` (23 R318). -/
def execClusterStop (k : Nat) (s : State) : Host.Outcome State Fault Refusal :=
  .next (if k < 64 then { s with stalled := [] }.stopCluster k else s)

/-- A group's current trap of class D that the Loupe took ends as OUTCOME RESUME does. -/
def Group.endLoupe (g : Group) : Group :=
  if (g.trap.any fun r => classD r.code) && !(g.splits.any fun x => x.live && x.handler) then { g with trap := none, hcyc := 0 } else g

/-- The cycles of a stop count toward no timeout, pause or handler budget (23 R318): what runs out later by them does so. -/
def Cohort.skipStop (c : Cohort) (d : Nat) : Cohort :=
  { c with groups := c.groups.map fun (g : Group) => { g with
      hstart := g.hstart + d
      splits := g.splits.map fun (x : Split) => { x with
        pauseEnd := if x.pauseEnd = 0 then 0 else x.pauseEnd + d
        wait := match x.wait with
          | .waitj p t => .waitj p (t + d)
          | .waitc a b (some t) => .waitc a b (some (t + d))
          | w => w } } }

/-- A write of GO: every class D trap that the Loupe took ends, and the halted splits issue again, or the next trap is
delivered. A cohort restored halted, after the stop has ended, is resumed as well (23 R318). -/
def State.loupeGo (s : State) (k : Nat) : State :=
  let s0 := (s.onCluster k).foldl (fun (s : State) c => s.updCo c.id fun d => d.skipStop (s.time - s.now c)) s
  let s1 := { s0 with stalled := [] }.clearReg (lstat k) 1
  (s1.onCluster k).foldl (fun (s : State) c =>
    let s2 := s.updCo c.id fun c => { c with groups := c.groups.map Group.endLoupe }
    if c.handling then s2 else s2.nextTrap c.id) s1

/-- `LOUPE_GO` (23 R319). -/
def execLoupeGo (k : Nat) (s : State) : Host.Outcome State Fault Refusal := .next (if k < 64 then s.loupeGo k else s)

/-- A write of SAVE: every cohort that the Loupe halted is saved with STOP 7. -/
def State.loupeSave (s : State) (k : Nat) : State :=
  if s.held? k then ((s.onCluster k).flatMap s.waveOf).foldl (fun (s : State) c => s.startSave c.id 7) { s with stalled := [] } else s

/-- `LOUPE_SAVE` (23 R318). -/
def execLoupeSave (k : Nat) (s : State) : Host.Outcome State Fault Refusal := .next (if k < 64 then s.loupeSave k else s)

/-- The ready splits of a group that is being stepped, ascending: the handler's alone while a handler runs. -/
def State.stepReady (s : State) (c : Cohort) (gi : Nat) : List Who :=
  match c.groups[gi]? with
  | none => []
  | some g => ((List.range g.splits.length).map fun i => (⟨c.id, gi, i⟩ : Who)).filter fun w =>
      s.ready w && ((!c.handling && g.pend.isNone) || (g.splits[w.si]?).any fun x => x.handler)

/-- A step of a group has ended: it halts again with skid 0, STEPPED is set, and STEP is raised on it unless it holds a
trap. -/
def State.stepEnd (s : State) (w : Who) (nothing : Bool) : State :=
  match s.cohort? w.co, s.group? w.co w.gi with
  | some c, some g =>
    let k := (s.clusterOf c).getD 0
    let s1 := (s.updGr w fun g => { g with stepped := false, halt := true, left := 0, skid := 0 }).orReg (lstat k) 4
    (match g.standIn w.si with
     | none => s1
     | some i =>
       if g.trap.isSome then s1
       else
         let x := (g.splits[i]?).getD {}
         s1.deliver { w with si := i } { code := STEP, split := i, pc := x.pc, pos := x.pos, rpc := x.past.1, rpos := x.past.2,
                                         detail := BitVec.ofNat 48 (g.slot % 64 + s.pcell c.lcell % 8 * 64 + (if nothing then 512 else 0)) })
  | _, _ => s

/-- The group that a write of LSTEP names. -/
def State.stepTarget (s : State) (k : Nat) (v : BitVec 64) : Option (Cohort × Nat) :=
  (s.onCluster k).findSome? fun c => if s.pcell c.lcell = 8 * k + bits v 0 3 then
      (c.groups.zipIdx.find? fun p => p.1.slot == bits v 3 6 && !p.1.fin).map fun p => (c, p.2)
    else none

/-- A write to LSTEP: with GO, one instruction of the group named issues next, or STEP is raised at once. -/
def State.writeLstep (s : State) (k : Nat) (v : BitVec 64) : State :=
  let s0 := s.setReg (cluReg k 0x0490) (v &&& maskBits 8 0)
  if !bit v 9 || !s.held? k then s0
  else match s0.stepTarget k v with
    | none => s0
    | some (c, gi) =>
      let s1 := { s0 with stalled := [] }.updGr ⟨c.id, gi, 0⟩ fun g => { g.endLoupe with stepped := true }
      match (s1.cohort? c.id).map fun c => s1.stepReady c gi with
      | some (w :: _) => { s1 with pick := some w }
      | _ => s1.stepEnd ⟨c.id, gi, 0⟩ true

/-- `LOUPE_STEP` (23 R320). -/
def execLoupeStep (k : Nat) (v : BitVec 64) (s : State) : Host.Outcome State Fault Refusal :=
  .next (if k < 64 then s.writeLstep k v else s)

/-- What LGS shows of a group: 0 not halted, 1 halted, 2 at a barrier, 3 in another wait (23 Table 23.3). -/
def Group.lgs (g : Group) : Nat :=
  let waits (f : Wait → Bool) : Bool := g.splits.any fun x => x.live && f x.wait
  if !g.halt || g.fin then 0
  else if waits fun w => (match w with
    | .barc => true
    | .barp _ _ => true
    | _ => false) then 2
  else if waits fun w => w != .none then 3 else 1

/-- The 96 bits of LGSj. -/
def State.lgs (s : State) (k j : Nat) : Nat :=
  ((s.onCluster k).map fun c => if s.pcell c.lcell = 8 * k + j then (c.groups.map fun g => if g.slot < 48 then g.lgs * 4 ^ g.slot else 0).sum else 0).sum

/-- A write to LCTL: DBG is stored; STOPALL, GO and SAVE act on a 1. -/
def State.writeLctl (s : State) (k : Nat) (v : BitVec 64) : State :=
  let s1 := s.setReg (cluReg k 0x0480) (v &&& 1)
  let s2 := if bit v 1 then { s1 with stalled := [] }.stopCluster k else s1
  let s3 := if bit v 2 then s2.loupeGo k else s2
  if bit v 3 then s3.loupeSave k else s3

/-! ### Log registers (23 R321) -/

/-- A buffer of n entries from a base ends beyond the HBM region. -/
def logBeyond (b n : BitVec 64) : Bool := decide (hbmEnd < bits b 0 56 + 32 * bits n 0 32)

/-- A write to a log register that sets ERR. -/
def State.alogBad (s : State) (die off : Nat) (x : BitVec 64) : Bool :=
  let r (o : Nat) : BitVec 64 := if o = off then x else s.reg (dieReg die o)
  (bits (s.reg (dieReg die 0x0420)) 0 8 != 0 && (off == 0x0400 || off == 0x0408 || off == 0x0410) && x != s.reg (dieReg die off)) ||
  (off == 0x0400 && bits x 0 56 % 4096 != 0) || (off == 0x0408 && decide (bits x 0 32 < 128)) ||
  logBeyond (r 0x0400) (r 0x0408) || logBeyond (r 0x0438) (r 0x0440)

/-- The writable bits of a log register. -/
def alogMask (off : Nat) : BitVec 64 :=
  if off = 0x0400 ∨ off = 0x0438 then maskBits 55 0
  else if off = 0x0408 ∨ off = 0x0440 then maskBits 31 0
  else if off = 0x0420 then maskBits 7 0
  else if off = 0x0448 then maskBits 15 0
  else maskBits 63 0

/-- A write to a log register. ALRSV is read-only; ALSTAT's ERR is cleared by a 1. -/
def State.writeAlog (s : State) (die off : Nat) (v : BitVec 64) : State :=
  let x := v &&& alogMask off
  if off = 0x0430 then s
  else if off = 0x0428 then (if bit v 1 then s.clearReg (dieReg die off) 2 else s)
  else if off = 0x0418 ∧ s.alogW die < x.toNat then s
  else if s.alogBad die off x then s.orReg (dieReg die 0x0428) 2
  else { s with stalled := [] }.setReg (dieReg die off) (if off = 0x0448 then x ||| (s.reg (dieReg die off) &&& maskBits 63 63) else x)

/-- The log registers of a die. -/
def isAlog (off : Nat) : Bool := decide (0x0400 ≤ off) && decide (off ≤ 0x0448) && off % 8 == 0

/-- `ASSAY_LOG_CONFIG` (23 R321). -/
def execAssayLogConfig (die off : Nat) (v : BitVec 64) (s : State) : Host.Outcome State Fault Refusal :=
  .next (if die < 4 ∧ isAlog off = true then s.writeAlog die off v else s)

/-! ### Link ports (25 R346) -/

def lport (p : Nat) : Nat := 0x0D00 + 8 * p

/-- The link port change event. -/
def State.portEvent (s : State) (p : Nat) : State := { s with stalled := [] }.event 0 { src := 4, addr := 0xF0_0000_0000 + lport p }

/-- FORCE: the lane named in BADLANE moves onto the spare. -/
def State.forceLane (s : State) (p : Nat) : State := s.orReg (lport p) 2

/-- A write to LPORTp: BADLANE and the switch port are kept; FORCE acts. -/
def State.writeLport (s : State) (p : Nat) (v : BitVec 64) : State :=
  let m := maskBits 31 16 ||| maskBits 5 2
  let s1 := s.setReg (lport p) ((s.reg (lport p) &&& ~~~m) ||| (v &&& m))
  if bit v 63 then s1.forceLane p else s1

/-- `LINK_LANE_FORCE` (25 R346). -/
def execLinkLaneForce (p : Nat) (s : State) : Host.Outcome State Fault Refusal := .next (if p < 18 then s.forceLane p else s)

/-- `LINK_LANE_FAILURE` (25 R346): a lane judged failing moves onto the spare, while there is one. -/
def execLinkLaneFailure (p lane : Nat) (s : State) : Host.Outcome State Fault Refusal :=
  .next (if p < 18 ∧ lane < 9 ∧ bit (s.reg (lport p)) 0 = true ∧ bit (s.reg (lport p)) 1 = false then
      ((s.setReg (lport p) (putBits (s.reg (lport p)) 2 4 lane)).forceLane p).portEvent p
    else s)

/-- `LINK_PORT_DOWN` (25 R346): UP clears; its requests go to the other ports, or wait for one. -/
def execLinkPortDown (p : Nat) (s : State) : Host.Outcome State Fault Refusal :=
  .next (if p < 18 ∧ bit (s.reg (lport p)) 0 = true then (s.clearReg (lport p) 1).portEvent p else s)

/-- `LINK_PORT_UP` (25 R346). -/
def execLinkPortUp (p : Nat) (s : State) : Host.Outcome State Fault Refusal :=
  .next (if p < 18 ∧ bit (s.reg (lport p)) 0 = false then (s.orReg (lport p) 1).portEvent p else s)

end Sys2Proof.Machine
end

