-- ==== Sys2Proof/Machine/Manage.lean ====
section
/-! DEFINITION. Migration of virtual devices (25.3), management, boot and recovery (25.5), attestation (25.6), power and
repair (25.7). -/
namespace Sys2Proof.Machine

/-! ### Repair (25 R354, R355) -/

def REPCMD : Nat := 0x0F10
def REPST : Nat := 0x0F18

/-- Spare slices of a die that are left (01 R12). -/
def State.slicesLeft (s : State) (die : Nat) : Nat :=
  16 - ((s.spares.filter fun n => n / 512 == die).length + (s.repairs.filter fun r => r.kind == 1 && r.index / 512 == die).length)

/-- The index of a repair names something that it can act on. -/
def State.repairNames (s : State) (kind i : Nat) : Bool :=
  match kind with
  | 0 => s.lmap.contains i && !s.repairs.any fun r => r.kind == 0 && r.index == i
  | 1 => decide (i < 2048)
  | 2 => decide (i < 128)
  | 3 => s.fenced.contains i && !s.repairs.any fun r => r.kind == 3 && r.index == i
  | 4 => decide (i / 16 < 18) && decide (i % 16 < 9)
  | _ => false

/-- Repairs of a kind under way, of those a test picks. -/
def State.underWay (s : State) (kind : Nat) (f : Nat → Bool) : Nat := (s.repairs.filter fun r => r.kind == kind && f r.index).length

/-- Spares left of a kind, those that repairs under way will take not counted: logical cells beyond the last, so that L stays at least
1 (01 R23); slices of the die; channels that the reserved capacity can take over; the port's spare lane. -/
def State.sparesLeft (s : State) (kind i : Nat) : Nat :=
  match kind with
  | 0 => s.lmap.length - 1 - s.underWay 0 fun _ => true
  | 1 => s.slicesLeft (i / 512)
  | 2 => Config.channelSpares - (s.channels.length + s.underWay 2 fun _ => true)
  | _ => if bit (s.reg (lport (i / 16))) 1 then 0 else 1 - s.underWay 4 fun r => r / 16 == i / 16

/-- A repair is under way, with PEND; REPST shows what is left of its kind. -/
def State.repair (s : State) (kind i left : Nat) : State :=
  { s.setReg REPST (putBits (s.reg REPST ||| 2) 8 8 (min 255 left)) with repairs := s.repairs ++ [{ kind := kind, index := i }], stalled := [] }

/-- A repair is asked for: refused with ERR for want of a spare, else under way; one that names nothing is ignored. A lift takes no
spare, and what REPST then shows as left is a free value (log entry 79). -/
def State.startRepair (s : State) (kind i : Nat) : State :=
  let s0 := s.setReg REPCMD (BitVec.ofNat 64 (fld 0 3 kind + fld 4 12 i))
  if !s.repairNames kind i then s0
  else if kind = 3 then
    let (f, s1) := s0.draw
    s1.repair kind i (f % 256)
  else
    let n := s0.sparesLeft kind i
    if n = 0 then s0.setReg REPST (putBits (s0.reg REPST ||| 1) 8 8 0) else s0.repair kind i (n - 1)

/-- A write to REPCMD. -/
def State.writeRepcmd (s : State) (v : BitVec 64) : State :=
  if bit v 63 then s.startRepair (bits v 0 3) (bits v 4 12) else s.setReg REPCMD (v &&& (maskBits 15 4 ||| maskBits 2 0))

/-- `CELL_FENCE` (25 R355). -/
def execCellFence (c : Nat) (s : State) : Host.Outcome State Fault Refusal := .next (s.startRepair 0 c)

/-- `SLICE_SPARE` (25 R354). -/
def execSliceSpare (n : Nat) (s : State) : Host.Outcome State Fault Refusal := .next (s.startRepair 1 n)

/-- `HBM_CHANNEL_SPARE` (25 R354). -/
def execHbmChannelSpare (n : Nat) (s : State) : Host.Outcome State Fault Refusal := .next (s.startRepair 2 n)

/-- `CELL_FENCE_LIFT` (25 R355). -/
def execCellFenceLift (c : Nat) (s : State) : Host.Outcome State Fault Refusal := .next (s.startRepair 3 c)

/-- `LINK_LANE_REPAIR` (25 R354): INDEX is port × 16 + lane. -/
def execLinkLaneRepair (n : Nat) (s : State) : Host.Outcome State Fault Refusal := .next (s.startRepair 4 n)

/-- An ORDERED launch runs on a die. -/
def State.orderedOn (s : State) (die : Nat) : Bool := s.launches.any fun l => hOrdered l.hdr && (l.share? die).isSome

/-- A repair's action can end now: a fence needs its cell and those above it empty; fence and lift wait for ORDERED
launches. -/
def State.repairDue (s : State) (r : Repair) : Bool :=
  match r.kind with
  | 0 => !s.orderedOn (r.index / 128) && !s.cohorts.any fun c => !c.isHF && decide (s.lmap.idxOf r.index ≤ c.lcell)
  | 3 => !s.orderedOn (r.index / 128)
  | _ => true

/-- KVID with L logical cells, and lens cells counted (01 Table 1.4). -/
def State.rewriteKvid (s : State) : State :=
  s.setReg 0 (putBits (putBits (s.reg 0) 26 10 s.lmap.length) 19 7 (s.lmap.filter fun p => p % 8 == 0).length)

/-- What a repair does when it ends. -/
def State.repaired (s : State) (r : Repair) : State :=
  match r.kind with
  | 0 => ({ s with lmap := s.lmap.erase r.index, fenced := s.fenced ++ [r.index] } : State).rewriteKvid
  | 1 => { s with spares := s.spares ++ [r.index] }
  | 2 => { s with channels := s.channels ++ [r.index] }
  | 3 => ({ s with lmap := s.lmap ++ [r.index], fenced := s.fenced.erase r.index } : State).rewriteKvid
  | _ => (s.setReg (lport (r.index / 16)) (putBits (s.reg (lport (r.index / 16))) 2 4 (r.index % 16))).forceLane (r.index / 16)

/-- `REPAIR_COMPLETE` (25 R354, R355): the first repair that can end does; PEND clears when none is left. -/
def execRepairComplete (s : State) : Host.Outcome State Fault Refusal :=
  .next (match s.repairs.find? s.repairDue with
    | none => s
    | some r =>
      let s1 := ({ s with repairs := s.repairs.erase r, stalled := [] } : State).repaired r
      let s2 := if s1.repairs.isEmpty then s1.clearReg REPST 2 else s1
      s2.event 0 { src := 3 })

/-- `POWER_LIMIT_REACHED` (25 R353). -/
def execPowerLimitReached (_block : Nat) (s : State) : Host.Outcome State Fault Refusal := .next (s.event 0 { src := 7 })

/-! ### Boot, recovery and power (25 R348 to R350) -/

/-- The step of R349 at which an image fails: 1 the header cannot be read, 2 the key, 3 the security version, 4 the signature; a partly
written image fails its signature (R350). -/
def bootFails (image : List Byte) (part : Bool) : Option Nat :=
  if Config.imageHeader image = false then some 1
  else if shake256 64 (Config.imageKey image) ≠ Config.keyDigest then some 2
  else if Config.imageSvn image < Config.fusedSvn then some 3
  else if part ∨ slhVerify (Config.imageKey image) (Config.imageSigned image) (Config.imageSig image) = false then some 4
  else none

/-- Headframe core n after the boot ROM (01 R11; 25 R349): one lane, registers 0 (log entry 9), core 0 at the image's entry. R349 starts
core 0 alone, and nothing in the spec says how cores 1 to 7 come to run: they have their registers, and no step of the model starts
one (DESIGN CHOICE, log entry 81). -/
def bootCore (image : List Byte) (n : Nat) : Cohort where
  id := n
  launch := none
  kind := .headframe n
  hdr := 0
  root := .hf
  die := 0
  lcell := 0
  cseq := 0
  org := []
  ext := []
  vol := 1
  wave := 1
  ngroups := 1
  groups := [{ index := 0, slot := 0, role := 0, budget := 16, valid := 1, iids := [],
               splits := [if n = 0 then { live := true, pc := Config.imageEntry image, mask := 1 } else {}, {}, {}, {}] }]
  z := 0

/-- What a reset keeps: memory, flash, and what has already been sent; the clocks count from it (07 R124). -/
def State.afterReset (s : State) (mem : Mem) (power : Bool) : State :=
  { State.reset with mem := mem, power := power, flash := s.flash, flashPart := s.flashPart, image := s.flash, cert := s.cert, adit := s.adit, msix := s.msix,
                     free := s.free }

/-- The boot ROM runs (25 R349). -/
def State.boot (s : State) (mem : Mem) : State :=
  let s0 := s.afterReset mem true
  let svn := Config.imageSvn s.flash * 2 ^ 32
  match bootFails s.flash s.flashPart with
  | some n => s0.setReg BOOTST (BitVec.ofNat 64 (3 + (Config.failCode n).toNat * 2 ^ 4 + svn))
  | none =>
    let body := (Config.imageBody s.flash).filter fun p => decide (p.1 < hbmEnd)
    { s0.setReg BOOTST (BitVec.ofNat 64 (2 + svn)) with
      mem := body.foldl (fun (m : Mem) p => Memory.write m p.1 p.2) mem
      cohorts := (List.range 8).map (bootCore s.flash), nextCohort := 8 }

/-- `MODULE_RESET` (25 R349). -/
def execModuleReset (s : State) : Host.Outcome State Fault Refusal := .next (if s.power then s.boot s.mem else s)

/-- `MAIN_POWER_CHANGE` (25 R348): what memory held goes with main power; the flash stays. -/
def execMainPowerChange (on : Bool) (s : State) : Host.Outcome State Fault Refusal :=
  .next (if on = s.power then s
    else if on then s.boot [] else (s.afterReset [] false).setReg BOOTST (s.reg BOOTST))

/-- A message of the Adit port. -/
def State.reply (s : State) (m : AditMsg) : State := { s with adit := s.adit ++ [m] }

/-- `MCTP_CONTROL` (25 R348). -/
def execMctpControl (msg : List (BitVec 8)) (s : State) : Host.Outcome State Fault Refusal :=
  .next (if s.power then s.reply (.other (Config.replyBytes 0 msg)) else s)

/-- `PLDM_PLATFORM_MONITOR` (25 R348). -/
def execPldmPlatformMonitor (msg : List (BitVec 8)) (s : State) : Host.Outcome State Fault Refusal :=
  .next (if s.power then s.reply (.other (Config.replyBytes 1 msg)) else s)

/-- `PLDM_FIRMWARE_UPDATE` (25 R350): the flash is written, wholly or so far; in recovery a whole image resets the module. -/
def execPldmFirmwareUpdate (image : List (BitVec 8)) (whole : Bool) (s : State) : Host.Outcome State Fault Refusal :=
  let s1 : State := { s with flash := image, flashPart := !whole }
  .next (if whole ∧ s.power ∧ bits (s.reg BOOTST) 0 4 = 3 then s1.boot s1.mem else s1)

/-! ### Attestation (25 R351, R352) -/

/-- Exactly n bytes: cut, or filled with zeros. -/
def fixed (n : Nat) (bs : List Byte) : List Byte := (bs ++ List.replicate n 0).take n

/-- The logical cell map and the spare maps, two bytes an entry; the spec gives no form of them (log entry 44). -/
def State.mapBytes (s : State) : List Byte := (s.lmap ++ s.spares ++ s.channels).flatMap fun n => bytesOf 2 n

/-- The four measurements: ROM, image, fuses, maps. -/
def State.measures (s : State) : List (List Byte) :=
  [Config.rom, Config.imageSigned s.image, Config.fuses, s.mapBytes].map (shake256 64)

/-- The identity key pair, generated from SHAKE256 of the fused device secret (25 R351); neither the secret nor the private key shows in
any state. -/
def identity : SlhKey := slhKeygen (shake256 96 Config.deviceSecret)

/-- The report of 25 Table 25.6. -/
def State.report (s : State) (nonce : BitVec 64) : List Byte :=
  let body := bytesOf 8 0x0401 ++ bytesOf 8 nonce.toNat ++ bytesOf 8 (s.reg 0).toNat ++ bytesOf 8 (s.reg BOOTST).toNat ++
    s.measures.flatten ++ bytesOf 32 0 ++ identity.pub
  body ++ slhSign identity (fixed 32 (Config.signRandom s.free)) body

/-- A write to ATTREQ: the report is written at ADDR, a local physical address, where its eight pages lie in the HBM region;
GO then reads 0. While GO reads 1 a write is ignored. -/
def State.writeAttreq (s : State) (v : BitVec 64) : State :=
  if bit (s.reg 0x0E10) 63 then s else
  let a := bits v 12 44 * 4096
  let s1 := s.setReg 0x0E10 (v &&& maskBits 55 12)
  if bit v 63 && decide (a + 8 * 4096 ≤ hbmEnd) then s1.hubWrite a (s1.report (s1.reg 0x0E08)) 0 else s1

/-- `ATTESTATION_REQUEST` (25 R351). -/
def execAttestationRequest (v : BitVec 64) (s : State) : Host.Outcome State Fault Refusal := .next (s.writeAttreq v)

/-- The SPDM responder answers while main power is on. -/
def State.spdm (s : State) (m : AditMsg) : State := if s.power then s.reply m else s

/-- `GET_VERSION` (25 R352): 1.2 alone. -/
def execGetVersion (s : State) : Host.Outcome State Fault Refusal := .next (s.spdm (.version [(1, 2)]))

/-- `GET_CAPABILITIES` (25 R352): MEAS_CAP 01b and CHUNK_CAP, no other. -/
def execGetCapabilities (s : State) : Host.Outcome State Fault Refusal := .next (s.spdm (.capabilities 1 true false false false false false))

/-- `NEGOTIATE_ALGORITHMS` (25 R352): the DMTF measurement specification and "raw bit stream only", no base algorithm. -/
def execNegotiateAlgorithms (s : State) : Host.Outcome State Fault Refusal := .next (s.spdm (.algorithms true true none none))

/-- Measurement block i, 1 to 4: index, value type, measurement. -/
def State.measureBlock (s : State) (i : Nat) : Nat × Nat × List Byte := (i, i - 1, s.measures.getD (i - 1) [])

/-- `GET_MEASUREMENTS` (25 R352). -/
def execGetMeasurements (index : Nat) (s : State) : Host.Outcome State Fault Refusal :=
  .next (s.spdm (if index = 0xFF then .measurements ([1, 2, 3, 4].map s.measureBlock)
    else if 1 ≤ index ∧ index ≤ 4 then .measurements [s.measureBlock index] else .error .invalidRequest))

/-- `VENDOR_DEFINED_REQUEST` (25 R352): the report for a nonce, whole when it fits the transfer size, else in chunks. A request that
comes by CHUNK_SEND is this one once its last chunk has come (DEDUCED, log entry 82). -/
def execVendorDefinedRequest (nonce : BitVec 64) (xfer : Nat) (s : State) : Host.Outcome State Fault Refusal :=
  .next (
    let r := s.report nonce
    if !s.power then s
    else if r.length ≤ xfer then s.reply (.report r) else { s.reply (.error .largeResponse) with chunks := some (r, max 1 xfer, 0) })

/-- `CHUNK_GET` (25 R352): the next chunk. -/
def execChunkGet (s : State) : Host.Outcome State Fault Refusal :=
  .next (if !s.power then s else match s.chunks with
    | none => s.reply (.error .unexpectedRequest)
    | some (bs, x, n) =>
      let last := decide (bs.length ≤ x)
      { s.reply (.chunk n (bs.take x) last) with chunks := if last then none else some (bs.drop x, x, n + 1) })

/-! ### Migration (25 R344, R345) -/

def VDSTOP : Nat := 0x0C40

/-- A write of STOP: no node of the device starts, its cohorts are to be saved with STOP 6, its command nodes stop. -/
def State.vdStop (s : State) (n : Nat) : State :=
  let s1 : State := { s.setReg VDSTOP (BitVec.ofNat 64 (n + 2 ^ 63)) with
    vdstopped := if s.vdstopped.contains n then s.vdstopped else s.vdstopped ++ [n]
    cmds := s.cmds.map fun m => if m.node.isSome ∧ m.root = .vd n then { m with stopped := true } else m }
  s1.preempt 6 fun c => c.root == .vd n && !c.isHF

/-- `VD_STOP` (25 R344); ignored while BUSY reads 1. -/
def execVdStop (n : Nat) (s : State) : Host.Outcome State Fault Refusal :=
  .next (if n < 16 ∧ bit (s.reg VDSTOP) 63 = false then s.vdStop n else s)

/-- APPN and WALK of a CCB; 0 where they cannot be read. -/
def State.ccbWord (s : State) (r : Root) (a n : Nat) : Nat := match s.agentRead r a n with
  | .ok x => x
  | .error _ => 0

/-- The read point of a slot's walker: the oldest entry read and not started, or WALK. -/
def State.readPoint (s : State) (r : Root) (ccb : VAddr) : Nat :=
  let mine (k : Chain) : Bool := match s.agentXlate r ccb.toNat .read with
    | .ok kc => s.walks r ccb kc k
    | .error _ => k.ccb == ccb && k.root == r
  match s.nodes.find? fun x => !x.started && !x.published && (s.chains[x.chain]?).any mine with
  | some x => x.addr.toNat
  | none => s.ccbWord r (ccb.toNat + 32) 7

/-- Slot j of the migration record. -/
def State.slotBytes (s : State) (n j : Nat) : List Byte :=
  let h := s.reg (fnReg (n + 1) (0x100 + 16 * j))
  let ccb : VAddr := h.extractLsb' 0 56
  bytesOf 8 h.toNat ++ (if bit h 63 then bytesOf 8 (s.ccbWord (.vd n) (ccb.toNat + 8) 8) ++ bytesOf 8 (s.readPoint (.vd n) ccb) else bytesOf 16 0) ++
  bytesOf 8 0

/-- The migration record (25 Table 25.5). -/
def State.migration (s : State) (n : Nat) : List Byte :=
  let cs := s.cmds.filter fun m => m.node.isSome && m.root == .vd n
  let xs := s.cohorts.filter fun c => c.root == .vd n && !c.isHF
  bytesOf 8 (1 + n * 2 ^ 8) ++ bytesOf 8 cs.length ++ bytesOf 8 xs.length ++ bytesOf 8 0 ++ (List.range 16).flatMap (s.slotBytes n) ++
  (cs.flatMap fun m => bytesOf 8 (((m.node.bind fun i => s.nodes[i]?).map fun x => x.addr.toNat).getD 0) ++ bytesOf 8 m.prog.toNat) ++
  xs.flatMap fun c => bytesOf 8 c.ctx.toNat

/-- `VD_STOP_DONE` (25 R344): the saves are done; dirty bytes go home, the record is written at MIGREC, BUSY clears. -/
def execVdStopDone (s : State) : Host.Outcome State Fault Refusal :=
  .next (
    let n := bits (s.reg VDSTOP) 0 4
    if !bit (s.reg VDSTOP) 63 || s.cohorts.any (fun c => c.root == .vd n && !c.isHF && (match c.status with
        | .saved _ _ => false
        | _ => true)) then s
    else
      let s1 := (List.range 64).foldl (fun (s : State) k => s.backAll k) s
      (s1.hubWrite (bits (s1.reg 0x0C48) 12 44 * 4096) (s1.migration n) 0).setReg VDSTOP (BitVec.ofNat 64 n))

/-- A word of the record at MIGREC. -/
def State.migWord (s : State) (off : Nat) : Nat := s.homeRead (bits (s.reg 0x0C48) 12 44 * 4096 + off) 8

/-- An entry leads to the last one of its chain by NEXT, in at most n steps. -/
def State.leadsTo (s : State) (r : Root) (tail : Nat) : Nat → Nat → Bool
  | 0, a => a == tail
  | n + 1, a => a == tail || (match s.agentRead r (a + 8) 7 with
    | .error _ => false
    | .ok b => b != 0 && s.leadsTo r tail n b)

/-- The chain, of those that slots of a device name, on which an entry stands. -/
def State.chainOf (s : State) (n a : Nat) (x : BitVec 512) : Option Nat := (List.range s.chains.length).find? fun k => match s.chains[k]? with
  | none => false
  | some c => c.root == .vd n && c.slot.isSome &&
    s.leadsTo c.root (s.ccbWord c.root c.ccb.toNat 7) (s.ccbWord c.root (c.ccb.toNat + 8) 8 - entSeq x) a

/-- A stopped node of a record restarts at its progress point: a command of this module, or one that another module stopped, whose
entry and record are read again (25 R345). None: the entry is on no chain of the device, or is no command node. -/
def State.resumeNode (n : Nat) (s : State) (i : Nat) : Option State :=
  let a := s.migWord (0x220 + 16 * i) % 2 ^ 56
  let prog := BitVec.ofNat 48 (s.migWord (0x228 + 16 * i))
  match s.cmds.find? fun m => m.root == .vd n && (m.node.bind fun j => s.nodes[j]?).any fun x => x.addr.toNat == a with
  | some m => some { s with cmds := s.cmds.map fun d => if d.id = m.id then { d with prog := prog, stopped := false, ahead := [] } else d }
  | none => match s.agentRead (.vd n) a 64 with
    | .error _ => none
    | .ok e =>
      let x : BitVec 512 := BitVec.ofNat 512 e
      if entType x < 2 ∨ (s.entReject (.vd n) x).isSome then none
      else (s.chainOf n a x).bind fun k =>
        let y : Node := { chain := k, addr := BitVec.ofNat 56 a, entry := x, started := true }
        match s.nodeCmd s.nodes.length y (.vd n) with
        | .error _ => none
        | .ok m => some { s with nodes := s.nodes ++ [y], cmds := s.cmds ++ [{ m with prog := prog }], nextCmd := s.nextCmd + 1 }

/-- The words of a record that must be 0 (00 R4; 25 Table 25.5). -/
def State.migReserved (s : State) : Bool :=
  fget (s.migWord 0) 12 52 != 0 || s.migWord 0x018 != 0 || (List.range 16).any fun j => s.migWord (0x038 + 32 * j) != 0

/-- A slot is restored: its register, and its walker at the recorded read point; entries read and not started are read again. With a read
point of 0 the walker goes on where WALK stands, which is at what has been appended since. A CCB that another walker has keeps it (01
R18). -/
def State.restoreSlot (s : State) (n j : Nat) : State :=
  let h : BitVec 64 := BitVec.ofNat 64 (s.migWord (0x020 + 32 * j))
  let rp := s.migWord (0x030 + 32 * j) % 2 ^ 56
  let ccb : VAddr := h.extractLsb' 0 56
  let s1 := s.setReg (fnReg (n + 1) (0x100 + 16 * j)) (h &&& (maskBits 63 63 ||| maskBits 61 0))
  if !bit h 63 then s1
  else match s1.agentXlate (.vd n) ccb.toNat .read with
    | .error _ => s1
    | .ok kc =>
      let mine (k : Chain) : Bool := s1.walks (.vd n) ccb kc k
      let s2 : State := { s1 with
        nodes := if rp = 0 then s1.nodes else s1.nodes.map fun x =>
          if !x.started && !x.published && (s1.chains[x.chain]?).any mine then { x with started := true, recorded := true, published := true } else x
        chains := if s1.chains.any mine then s1.chains.map fun k => if mine k && k.slot.isNone then s1.chainAt (.vd n) ccb kc else k
          else s1.chains ++ [s1.chainAt (.vd n) ccb kc] }
      if rp = 0 then s2
      else match s2.agentWrite (.vd n) (ccb.toNat + 32) (bytesOf 7 rp) with
        | .ok s3 => s3
        | .error _ => s2

/-! ### Contexts of another module (25 R345; log entry 45) -/

/-- The dispatched groups of a block: its LIVE slots, each with the lanes that its splits and its stack name. The identities of their
lanes, which a block does not hold, are free. -/
def State.foreignGroups (s : State) (c : Cohort) : List Group :=
  ((List.range c.slotsG).map fun i => (i, s.block c (c.sect 1 + 1024 * i) 1024)).filterMap fun p =>
    let sp (j : Nat) : Nat := fget p.2 (512 + 512 * j) 512
    let masks := ((List.range 4).filter fun j => fget (sp j) 0 1 == 1).map (fun j => BitVec.ofNat 32 (fget (sp j) 72 32)) ++
      ((s.stackAt c p.1 (fget p.2 20 7)).getD []).map fun e => e.mask
    let m : Word := masks.foldl (fun a b => a ||| b) 0
    if fget p.2 0 1 = 0 then none
    else some { index := p.1, slot := 0, role := fget p.2 6 2, budget := fget p.2 8 5, valid := m
                iids := (lanesOf m).foldl (fun t l => Sparse.set 0 t l (Config.freeValue (s.free + 32 * p.1 + l))) []
                splits := [{}, {}, {}, {}] }

/-- The launch of a context: the one of the device that its header names, or one that is made for it, of the same node, and which has
nothing left to dispatch here. None where its header cannot be read. -/
def State.foreignLaunch (s : State) (n lhdr node : Nat) : Option (Launch × State) :=
  match s.launches.find? fun l => l.haddr.toNat == lhdr && l.root == .vd n && l.result.isNone, s.header (.vd n) lhdr with
  | some l, _ => some (l, s)
  | none, .error _ => none
  | none, .ok h =>
    let x : BitVec 512 := match s.agentRead (.vd n) node 64 with
      | .ok e => BitVec.ofNat 512 e
      | .error _ => 0
    let here := s.nodes.findIdx? fun y => y.addr.toNat == node && (s.chains[y.chain]?).any fun k => k.root == .vd n
    let idx : Option Nat := if node = 0 then none else match here with
      | some i => some i
      | none => (s.chainOf n node x).map fun _ => s.nodes.length
    let nodes := match here, s.chainOf n node x with
      | none, some k => if node = 0 then s.nodes else s.nodes ++ [{ chain := k, addr := BitVec.ofNat 56 node, entry := x, started := true }]
      | _, _ => s.nodes
    let l : Launch := { num := s.nextLaunch, hdr := h, haddr := BitVec.ofNat 56 lhdr, root := .vd n
                        ltag := BitVec.ofNat 16 (if idx.isSome then entSeq x else s.nextLaunch), node := idx
                        shares := (List.range 4).map fun d => { die := d, base := 0, len := 0 } }
    some (l, { s with launches := s.launches ++ [l], nextLaunch := s.nextLaunch + 1, nodes := nodes })

/-- The commands that a context's pages hold (21 R310). -/
def State.foreignCmds (s : State) (c : Cohort) : State :=
  let eng (m : Nat) : Engine := if m = 0x3A then .matrix else if m = 0x38 then .copy else .gather
  (s.elements 4 256 (fget (s.header21 c) 544 56)).foldl (fun (s : State) e =>
    let img (k : Nat) : BitVec 512 := BitVec.ofNat 512 (fget e (512 * k) 512)
    let m : Cmd := { id := s.nextCmd, eng := eng (fget e 0 8), fn := fget e 8 8, co := some c.id, gi := fget e 24 6, launch := c.launch, root := c.root
                     p0 := BitVec.ofNat 32 (fget e 192 32), p1 := BitVec.ofNat 32 (fget e 224 32), td := img 1, ts := img 2, tx := img 3
                     acc := fget e 16 5, oh := fget e 192 5, prog := BitVec.ofNat 48 (fget e 128 48), stopped := true }
    { s with cmds := s.cmds ++ [m], nextCmd := s.nextCmd + 1 }) s

/-- The cohort of a context of another module, as its block and its launch's header tell it; its cut's box, its counters and marks, and
its Sluice and Winze state are free or begin anew. -/
def State.foreign (s : State) (n a : Nat) : Option (Nat × State) :=
  let h := s.homeRead a 256
  (s.foreignLaunch n (fget h 32 56) (fget h 96 56)).map fun (l, s0) =>
    let die := fget h 224 2
    let free (i : Nat) : Nat := (Config.freeValue (s0.free + 512 + i)).toNat
    let c0 : Cohort := { id := s0.nextCohort, launch := some l.num, kind := .cut, hdr := l.hdr, root := l.root, ltag := l.ltag, die := die
                         lcell := fget h 226 10, cseq := fget h 160 64, org := (List.range (hNdim l.hdr)).map fun i => free i
                         ext := (List.range (hNdim l.hdr)).map fun i => free (8 + i) % 512 + 1, vol := free 16, wave := 1
                         ngroups := 0, groups := [], z := hFootprint l.hdr, ctx := BitVec.ofNat 56 a, cls := fget h 24 3 }
    let c1 : Cohort := { c0 with kind := if fget h 16 6 = c0.ng then .cut else .task }
    let gs := s0.foreignGroups c1
    let esc := gs.findIdx? fun g => fget (s0.block c1 (c1.sect 1 + 1024 * g.index) 1024) (4864 + 168) 4 != 0
    let c2 : Cohort := { c1 with groups := gs, ngroups := gs.length
                                 fifos := (readImages 65 (s0.pageBytes 3 maxPages (fget h 544 56))).map fun p => p.1
                                 status := .saved (fget h 12 4) (if fget h 12 4 = 5 then esc else none) }
    let s1 := s0.updLaunch l.num fun l => if c2.kind = .task then { l with tasks := l.tasks + 1 }
      else l.updShare die fun sh => { sh with running := sh.running + 1, cseq := max sh.cseq (c2.cseq + 1) }
    (c2.id, { s1 with cohorts := s1.cohorts ++ [c2], nextCohort := s1.nextCohort + 1, free := s1.free + 529 }.foreignCmds c2)

/-- The contexts of a record, by their cohorts' numbers: those that this module saved, and those of another module. None where one has no
launch header that can be read. -/
def State.migContexts (s0 : State) (n : Nat) : Option (List Nat × State) :=
  let nc := s0.migWord 0x008
  (List.range (s0.migWord 0x010)).foldl (fun (r : Option (List Nat × State)) m => r.bind fun (ids, s) =>
    let a := s0.migWord (0x220 + 16 * nc + 8 * m) % 2 ^ 56
    match s.cohorts.find? fun c => c.root == .vd n && !c.isHF && c.ctx.toNat == a && c.isSaved with
    | some c => some (ids ++ [c.id], s)
    | none => (s.foreign n a).map fun (i, s1) => (ids ++ [i], s1)) (some ([], s0))

/-- A write of RESUME (25 R345): a record that fails leaves the device stopped, with an event. A header's DIE has two bits and the module
four dies, so that no context names a missing one. -/
def State.vdResume (s : State) (n : Nat) : State :=
  let s0 := s.setReg VDSTOP (BitVec.ofNat 64 n)
  let w := s0.migWord 0
  let s1 := (List.range 16).foldl (fun (s : State) j => s.restoreSlot n j) s0
  match ((List.range (s0.migWord 0x008)).foldlM (State.resumeNode n) s1).bind fun s2 => s2.migContexts n with
  | some (ids, s2) =>
    if fget w 0 8 ≠ 1 ∨ fget w 8 4 ≠ n ∨ s0.migReserved = true ∨ ids.any (fun i => (s2.cohort? i).any s2.refused) = true then
      s0.event 0 { src := 2 }
    else
      let s3 : State := { s2 with vdstopped := s2.vdstopped.filter fun v => v != n, stalled := [] }
      ids.foldl (fun (s : State) i => match s.cohort? i with
        | some d => if d.isSaved then s.restore d else s
        | none => s) s3
  | none => s0.event 0 { src := 2 }

/-- `VD_RESUME` (25 R345); ignored while BUSY reads 1. -/
def execVdResume (n : Nat) (s : State) : Host.Outcome State Fault Refusal :=
  .next (if n < 16 ∧ bit (s.reg VDSTOP) 63 = false then s.vdResume n else s)

/-- A write to VDSTOP: STOP goes before RESUME. -/
def State.writeVdstop (s : State) (v : BitVec 64) : State :=
  if bit (s.reg VDSTOP) 63 then s
  else if bit v 8 then s.vdStop (bits v 0 4)
  else if bit v 9 then s.vdResume (bits v 0 4)
  else s.setReg VDSTOP (v &&& maskBits 3 0)

end Sys2Proof.Machine
end

