-- ==== Sys2Proof/Machine/Host.lean ====
section
/-! DEFINITION. The register region as its masters see it (25.1), and the host (25.2) and the Adit port's register access
(25 R348). -/
namespace Sys2Proof.Machine

/-- The registers of the register region (25 R336). -/
inductive RegName where
  | kvid
  | modcfg
  | hostbase
  | digest (n word : Nat)
  | vdroot (n : Nat)
  | vdtrk (n : Nat)
  | hfroot
  | invroot
  | invva
  | invlen
  | invgo
  | vdstop
  | migrec
  | lport (p : Nat)
  | bootst
  | attnonce
  | attreq
  | pwrcap
  | pwrnow
  | repcmd
  | repst
  | evb (f : Nat)
  | evn (f : Nat)
  | evw (f : Nat)
  | evr (f : Nat)
  | evctl (f : Nat)
  | evlost (f : Nat)
  | winbase (f : Nat)
  | hccb (f j : Nat)
  | htail (f j : Nat)
  | rrb (die n : Nat)
  | rrc (die n : Nat)
  | rrstat (die : Nat)
  /-- CTXPOOLc, and EXTPOOL as c = 5. -/
  | pool (die c : Nat)
  | hbudget (die : Nat)
  | preq (die : Nat)
  | ctxstat (die : Nat)
  | quant (die : Nat)
  | tthresh (die : Nat)
  | tstat (die : Nat)
  | alog (die off : Nat)
  | csmode (k : Nat) (hi : Bool)
  | csstat (k : Nat)
  | wpa (k n : Nat)
  | wpc (k n : Nat)
  | lctl (k : Nat)
  | lstat (k : Nat)
  | lstep (k : Nat)
  | lgs (k j : Nat) (hi : Bool)
  | qcfg (cell q : Nat)
  | qstat (cell : Nat)
  deriving DecidableEq, Repr

/-- A place in a row of `count` things of `step` bytes from `base`: its number and the offset inside it. -/
def inRow (base step count off : Nat) : Option (Nat × Nat) :=
  if base ≤ off ∧ off < base + step * count then some ((off - base) / step, (off - base) % step) else none

/-- Registers of a function page (25 Table 25.2). -/
def pageReg (f off : Nat) : Option RegName :=
  match inRow 0x100 16 16 off with
  | some (j, 0) => some (.hccb f j)
  | some (j, 8) => some (.htail f j)
  | some _ => none
  | none => match off with
    | 0x000 => some (.evb f)
    | 0x008 => some (.evn f)
    | 0x010 => some (.evw f)
    | 0x018 => some (.evr f)
    | 0x020 => some (.evctl f)
    | 0x028 => some (.evlost f)
    | 0x030 => some (.winbase f)
    | _ => none

/-- Registers of the module window below the function pages (25 Table 25.1). -/
def windowReg (off : Nat) : Option RegName :=
  match inRow 0x0600 32 4 off, inRow 0x0A00 16 16 off, inRow 0x0D00 8 18 off with
  | some (n, w), _, _ => if w = 0 ∨ w = 8 ∨ w = 16 then some (.digest n (w / 8)) else none
  | none, some (n, 0), _ => some (.vdroot n)
  | none, some (n, 8), _ => some (.vdtrk n)
  | none, some _, _ => none
  | none, none, some (p, 0) => some (.lport p)
  | none, none, some _ => none
  | none, none, none => match off with
    | 0x0000 => some .kvid
    | 0x0008 => some .modcfg
    | 0x0010 => some .hostbase
    | 0x0B00 => some .hfroot
    | 0x0C00 => some .invroot
    | 0x0C08 => some .invva
    | 0x0C10 => some .invlen
    | 0x0C18 => some .invgo
    | 0x0C40 => some .vdstop
    | 0x0C48 => some .migrec
    | 0x0E00 => some .bootst
    | 0x0E08 => some .attnonce
    | 0x0E10 => some .attreq
    | 0x0F00 => some .pwrcap
    | 0x0F08 => some .pwrnow
    | 0x0F10 => some .repcmd
    | 0x0F18 => some .repst
    | _ => none

/-- Registers of a die block (13 R188; 21 Table 21.11; 07 R121; 23 Table 23.4). -/
def dieRegAt (d off : Nat) : Option RegName :=
  match inRow 0x0100 16 16 off with
  | some (n, 0) => some (.rrb d n)
  | some (n, 8) => some (.rrc d n)
  | some _ => none
  | none =>
    if isAlog off then some (.alog d off)
    else match inRow 0x0300 8 6 off with
    | some (c, 0) => some (.pool d c)
    | some _ => none
    | none => match off with
      | 0x0200 => some (.rrstat d)
      | 0x0330 => some (.hbudget d)
      | 0x0338 => some (.preq d)
      | 0x0340 => some (.ctxstat d)
      | 0x0360 => some (.quant d)
      | 0x0368 => some (.tthresh d)
      | 0x0370 => some (.tstat d)
      | _ => none

/-- Registers of a cluster block (13 R181, R185; 23.1). -/
def cluRegAt (k off : Nat) : Option RegName :=
  match inRow 0x0400 16 8 off, inRow 0x0500 16 8 off with
  | some (n, 0), _ => some (.wpa k n)
  | some (n, 8), _ => some (.wpc k n)
  | some _, _ => none
  | none, some (j, 0) => some (.lgs k j false)
  | none, some (j, 8) => some (.lgs k j true)
  | none, some _ => none
  | none, none => match off with
    | 0x0000 => some (.csmode k false)
    | 0x0008 => some (.csmode k true)
    | 0x0010 => some (.csstat k)
    | 0x0480 => some (.lctl k)
    | 0x0488 => some (.lstat k)
    | 0x0490 => some (.lstep k)
    | _ => none

/-- Registers of a cell block (07 R119). -/
def cellRegAt (c off : Nat) : Option RegName :=
  match inRow 0 8 5 off with
  | some (q, 0) => some (.qcfg c q)
  | some _ => none
  | none => if off = 0x0028 then some (.qstat c) else none

/-- The register at an offset of the register region; none where there is none (25 R336). -/
def regAt (off : Nat) : Option RegName :=
  match inRow 0x1_0000 0x1000 17 off, inRow 0x10_0000 0x1_0000 4 off, inRow 0x20_0000 0x1_0000 64 off, inRow 0x80_0000 0x1000 512 off with
  | some (f, o), _, _, _ => pageReg f o
  | none, some (d, o), _, _ => dieRegAt d o
  | none, none, some (k, o), _ => cluRegAt k o
  | none, none, none, some (c, o) => cellRegAt c o
  | none, none, none, none => if off < 0x1_0000 then windowReg off else none

/-- Read a register: the value left by every write applied before (25 R337). HTAILj reads APPN of its chain; PWRNOW a free value that
does not exceed PWRCAP (25 R353; log entry 80). -/
def State.readReg (s : State) (off : Nat) : BitVec 64 :=
  match regAt off with
  | none => 0
  | some r => match r with
    | .htail f j =>
      let h := s.reg (fnReg f (0x100 + 16 * j))
      BitVec.ofNat 64 (s.ccbWord (fnRoot f) (bits h 0 56 + 8) 8)
    | .preq d => if s.preqBusy d then s.reg off else s.reg off &&& ~~~(maskBits 63 63)
    | .pwrnow => BitVec.ofNat 64 (Config.power s.time % (bits (s.reg 0x0F00) 0 12 + 1))
    | .lgs k j hi => BitVec.ofNat 64 (if hi then s.lgs k j / 2 ^ 64 else s.lgs k j)
    | _ => s.reg off

/-- A plain register takes the written bits of a mask. -/
def State.plain (s : State) (off : Nat) (v m : BitVec 64) : State := { s with stalled := [] }.setReg off (v &&& m)

/-- A plain register takes a value within limits; others are ignored (25 R337). -/
def State.limited (s : State) (off : Nat) (v : BitVec 64) (hi lo top : Nat) : State :=
  if lo ≤ bits v 0 hi ∧ bits v 0 hi ≤ top then s.plain off v (BitVec.ofNat 64 (2 ^ hi - 1)) else s

/-- A launch that a digest slot digests is running (23 R327). -/
def State.slotBusy (s : State) (n : Nat) : Bool := s.launches.any fun l => l.dslot == some n

/-- Append through HTAILj (25 R340): ignored with EN = 0, or with an address that is not a multiple of 64. -/
def State.hostAppend (s : State) (f j : Nat) (v : BitVec 64) : State :=
  let h := s.reg (fnReg f (0x100 + 16 * j))
  if bit h 63 && bits h 0 56 % 64 == 0 && bits v 0 56 % 64 == 0 then
    { s with stalled := [] }.doAct (fnRoot f) (.append f j (v.extractLsb' 0 56))
  else s

/-- The effect of a write on one register (25 R336, R337). Reserved bits are not kept (00 R4). -/
def State.writeTo (s : State) (off : Nat) (v : BitVec 64) : RegName → State
  | .kvid => s
  | .modcfg => if bit (s.reg off) 63 then s else s.plain off v (maskBits 63 63 ||| maskBits 30 16 ||| maskBits 14 0)
  | .hostbase => s.plain off v (maskBits 63 0)
  | .digest n w => if s.slotBusy n ∨ (w = 1 ∧ bits v 0 12 ≠ 0) then s else s.plain off v (if w = 2 then maskBits 3 0 else maskBits 55 0)
  | .vdroot _ => s.plain off v (maskBits 39 12 ||| 1)
  | .vdtrk _ => s.plain off v (maskBits 39 20 ||| 1)
  | .hfroot => s.plain off v (maskBits 39 12)
  | .invroot => if bit (s.reg 0x0C18) 63 then s else s.limited off v 5 0 16
  | .invva => if bit (s.reg 0x0C18) 63 then s else s.plain off v (maskBits 55 12)
  | .invlen => if bit (s.reg 0x0C18) 63 then s else s.plain off v (maskBits 55 12)
  | .invgo => if bit (s.reg 0x0C18) 63 then s else s.writeInvgo v
  | .vdstop => s.writeVdstop v
  | .migrec => s.plain off v (maskBits 55 12)
  | .lport p => s.writeLport p v
  | .bootst => s
  | .attnonce => s.plain off v (maskBits 63 0)
  | .attreq => s.writeAttreq v
  | .pwrcap => s.limited off v 12 1 2600
  | .pwrnow => s
  | .repcmd => s.writeRepcmd v
  | .repst => s
  | .evb _ => s.plain off v (maskBits 63 6)
  | .evn _ => s.limited off v 16 16 65535
  | .evw _ => s.plain off v (maskBits 63 0)
  | .evr _ => s.plain off v (maskBits 63 0)
  | .evctl _ => s.plain off v (maskBits 7 0)
  | .evlost _ => s.plain off v (maskBits 63 0)
  | .winbase _ => s.plain off v (maskBits 55 36)
  | .hccb _ _ => s.plain off v (maskBits 63 63 ||| maskBits 61 0)
  | .htail f j => s.hostAppend f j v
  | .rrb _ _ => s.plain off v (maskBits 39 12)
  | .rrc d n => s.writeRrc d n v
  | .rrstat _ => s
  | .pool d c => s.writePool d c v
  | .hbudget _ => s.plain off v (maskBits 31 0)
  | .preq d => s.writePreq d v
  | .ctxstat _ => s.clearReg off (v &&& maskBits 63 62)
  | .quant _ => s.plain off v (maskBits 31 0)
  | .tthresh _ => s.limited off v 12 640 1760
  | .tstat _ => s
  | .alog d o => s.writeAlog d o v
  | .csmode k hi => s.writeCsmode k hi v
  | .csstat _ => s.clearReg off (v &&& 1)
  | .wpa k n => s.writeWatch k n false v
  | .wpc k n => s.writeWatch k n true v
  | .lctl k => s.writeLctl k v
  | .lstat _ => s.clearReg off (v &&& (maskBits 15 8 ||| maskBits 2 1))
  | .lstep k => s.writeLstep k v
  | .lgs _ _ _ => s
  | .qcfg c q => s.writeQcfg c q v
  | .qstat _ => s

/-- A register write by any master (25 R337). -/
def State.writeReg (s : State) (off : Nat) (v : BitVec 64) : State := match regAt off with
  | none => s
  | some r => s.writeTo off v r

/-- The registers that a master's access can reach: the host through its function's BAR0 (25 R338). -/
def masterReaches (m : Master) (off : Nat) : Bool := match m with
  | .host 0 => decide (off < 64 * 2 ^ 20)
  | .host f => decide (f ≤ 16) && decide (fnReg f 0 ≤ off) && decide (off < fnReg f 0x1000)
  | _ => true

/-- `REGISTER_WRITE` (25 R337): one master's write is applied. -/
def execRegisterWrite (m : Master) (off : Nat) (v : BitVec 64) (s : State) : Host.Outcome State Fault Refusal :=
  .next (if s.power && masterReaches m off then s.writeReg off v else s)

/-- Registers that answer on auxiliary power (25 R348). -/
def onAux (off : Nat) : Bool := off == 0x0000 || off == 0x0E00 || off == 0x0F08

/-- `ADIT_REGISTER_READ` (25 R348). -/
def execAditRegisterRead (off : Nat) (s : State) : Host.Outcome State Fault Refusal :=
  .next (s.reply (.register (if s.power || onAux off then s.readReg off else 0)))

/-- `ADIT_REGISTER_WRITE` (25 R348). -/
def execAditRegisterWrite (off : Nat) (v : BitVec 64) (s : State) : Host.Outcome State Fault Refusal :=
  .next (if s.power then s.writeReg off v else s)

/-! ### The host (25 R338 to R340) -/

/-- `HOST_APPEND` (25 R340). -/
def execHostAppend (f j : Nat) (v : BitVec 64) (s : State) : Host.Outcome State Fault Refusal :=
  .next (if s.power ∧ f ≤ 16 ∧ j < 16 then s.hostAppend f j v else s)

/-- The virtual address of an offset of function f's BAR2 window. -/
def State.windowAddr (s : State) (f off : Nat) : Nat := (s.reg (fnReg f 0x030)).toNat + off

/-- A host access whose translation faults: not performed, with an event (25 R338). -/
def State.hostFault (s : State) (f : Nat) (va : Nat) (c : Code) : State := s.event f { src := 6, code := c, addr := va }

/-- The first fault of a host access of n bytes: each 4 KiB page it touches is translated. -/
def State.hostCheck (s : State) (f va n : Nat) (k : Access) : Option (Nat × Code) :=
  ((List.range n).filter fun j => j == 0 || (va + j) % 4096 == 0).findSome? fun j => match s.agentXlate (fnRoot f) (va + j) k with
    | .ok _ => none
    | .error c => some (va + j, c)

/-- The key of a byte of a checked access. -/
def State.hostByteKey (s : State) (f va : Nat) (k : Access) : Nat := match s.agentXlate (fnRoot f) va k with
  | .ok key => key
  | .error _ => 0

/-- The size of the BAR2 window: 64 GiB. -/
def barSize : Nat := 2 ^ 36

/-- The offset in the register region of an offset of function f's BAR0 (25 R338). -/
def bar0At (f o : Nat) : Nat := if f = 0 then o else fnReg f o

/-- A host read of n bytes through BAR0: a register's value; 0 for another size or alignment, or where there is no register (25 R336). -/
def State.hostRegs (s : State) (f o n : Nat) : List Byte :=
  if n = 8 ∧ o % 8 = 0 then bytesOf 8 (s.readReg (bar0At f o)).toNat else List.replicate n 0

/-- `HOST_WINDOW_READ` (25 R338, R339): the home slices' values, or every bit set. Offsets past the 64 GiB of BAR2 stand for the offsets
of BAR0, whose reads have no event of their own (DESIGN CHOICE, log entry 78). -/
def execHostWindowRead (f off n : Nat) (s : State) : Host.Outcome State Fault Refusal :=
  .next (
    let va := s.windowAddr f off
    if s.power ∧ barSize ≤ off ∧ masterReaches (.host f) (bar0At f (off - barSize)) = true then { s with hostData := s.hostRegs f (off - barSize) n }
    else if !s.power ∨ 16 < f ∨ barSize < off + n then s
    else match s.hostCheck f va n .read with
      | some (a, c) => { s.hostFault f a c with hostData := List.replicate n 0xFF }
      | none => { s with hostData := (List.range n).map fun j => Memory.read s.mem (s.hostByteKey f (va + j) .read) })

/-- Runs of a write inside one 128-byte line: address and bytes. -/
def lineRuns : Nat → Nat → List Byte → List (Nat × List Byte)
  | 0, _, _ => []
  | f + 1, va, bs => if bs.isEmpty then [] else
    let n := 128 - va % 128
    (va, bs.take n) :: lineRuns f (va + n) (bs.drop n)

/-- `HOST_WINDOW_WRITE` (25 R339): performed at the home slices, line by line in ascending address; one that faults is not
performed. -/
def execHostWindowWrite (f off : Nat) (bytes : List (BitVec 8)) (s : State) : Host.Outcome State Fault Refusal :=
  .next (
    let va := s.windowAddr f off
    if !s.power ∨ 16 < f ∨ barSize < off + bytes.length then s
    else match s.hostCheck f va bytes.length .write with
      | some (a, c) => s.hostFault f a c
      | none => (lineRuns (bytes.length + 1) va bytes).foldl (fun (s : State) p =>
          s.hubWrite (s.hostByteKey f p.1 .write) p.2 (s.vdTag (fnRoot f))) { s with stalled := [] })

end Sys2Proof.Machine
end

