-- ==== Sys2Proof/Machine/Matrix.lean ====
section
/-! DEFINITION. The matrix loop (17.4) and its exact products and summation order (03.8). -/
namespace Sys2Proof.Machine

/-! ### The command (17 Tables 17.2 to 17.4) -/

/-- Type classes of Table 17.4. -/
def isI8 (f : Nat) : Bool := f == 0 || f == 1
def isI4 (f : Nat) : Bool := f == 13 || f == 14

/-- The step depth of a pair of formats, and whether the accumulator is INT32; none for no row (17 Table 17.4). -/
def pairOf (a b : Nat) : Option (Nat × Bool) :=
  if (a = 10 ∧ b = 10) ∨ (a = 9 ∧ b = 9) then some (16, false)
  else if a = 11 ∧ b = 11 then some (32, false)
  else if (isI8 a ∧ b = 10) ∨ (isI8 b ∧ a = 10) then some (32, false)
  else if isI8 a ∧ isI8 b then some (32, true)
  else if (isI8 a ∧ isI4 b) ∨ (isI8 b ∧ isI4 a) then some (32, true)
  else if isI4 a ∧ isI4 b then some (64, true)
  else if a = 12 ∧ b = 12 then some (64, false)
  else none

/-- The row of a variant: `.pro` has its own. -/
def rowOf (fn : Nat) (ta tb : Desc) : Option (Nat × Bool) :=
  if fn = 2 then (if ta.fmt = 10 ∧ isI4 tb.fmt ∧ tb.scm = 4 then some (16, false) else none) else pairOf ta.fmt tb.fmt

def Cmd.clr (m : Cmd) : Bool := bit m.p0 16
def Cmd.nstep (m : Cmd) : Nat := bits m.p0 0 16
def Cmd.ia (m : Cmd) : Nat := bits m.p1 0 8
def Cmd.ib (m : Cmd) : Nat := bits m.p1 8 8

/-- ENGINE_FAULT of an `mloop` word: the six checks of 17 R248. -/
def mloopBad (fn : Nat) (c : Ctx) (ta tb : Option Desc) (acc : Nat) (p0 p1 : Word) : Bool :=
  !c.co.aheld.getLsbD acc || (fn == 1 && (!c.co.aheld.getLsbD (bits p0 0 5) || bits p0 0 5 == acc)) ||
  tb.isNone || (fn != 1 && ta.isNone) ||
  (match fn, ta, tb with
   | 1, _, some v => v.fmt != 10 || v.scm == 4
   | _, some a, some b => (rowOf fn a b).isNone || a.scm == 4 || (fn != 2 && b.scm == 4)
   | _, _, _ => true) ||
  (fn == 2 && !(!c.co.isHF && hLens c.co.hdr)) ||
  bit p0 19 || (if fn = 1 then bits p0 5 11 != 0 else if fn = 3 then false else bits p1 16 16 != 0) ||
  [ta, tb].any (fun t => t.any fun d => !c.co.claims d)

/-- The group table of `.grp`: (first row, rows) by group, or its trap (17 R251); a word that it reads may hold an uncorrectable error
(21 R295). -/
def groupTable (c : Cohort) (off : Nat) (ext2 : Nat) : Except Trap (List (Nat × Nat × Nat)) :=
  if c.z < off + 4 then .error { code := SCRATCH_BOUNDS, addr := BitVec.ofNat 64 off }
  else match scratchSpoiltAt c off 4 with
  | some t => .error t
  | none =>
    let g := (c.scratchWord off).toNat
    if g = 0 ∨ 64 < g then
      (if c.z < off + 4 + 4 * (if g = 0 then 0 else g) then .error { code := SCRATCH_BOUNDS, addr := BitVec.ofNat 64 (max off (c.z / 4 * 4)) }
       else .error { code := MATRIX_RANGE, detail := BitVec.ofNat 48 g })
    else if c.z < off + 4 + 4 * g then .error { code := SCRATCH_BOUNDS, addr := BitVec.ofNat 64 (max off (c.z / 4 * 4)) }
    else match scratchSpoiltAt c (off + 4) (4 * g) with
    | some t => .error t
    | none =>
      let ns := (List.range g).map fun i => (c.scratchWord (off + 4 + 4 * i)).toNat
      let rows := (List.range g).map fun i => ((ns.take i).sum, ns.getD i 0, i)
      match rows.find? fun r => decide (64 < r.1 + r.2.1) || decide (ext2 ≤ r.2.2) with
      | some r => .error { code := MATRIX_RANGE, detail := BitVec.ofNat 48 r.2.2 }
      | none => .ok (rows.filter fun r => r.2.1 != 0)

/-- The cohort is on a lens cell, whose matrix engine has the prologue (01 R14). -/
def State.hasPrologue (s : State) (c : Cohort) : Bool := !c.isHF && s.pcell c.lcell % 8 == 0

/-- An `mloop` word (17 R246, R248). `.pro` on a cell without the prologue, as a task group of a LENS launch with a role map may
issue it, traps like a check of R248 that fails (01 R10, R14; DESIGN CHOICE, log entry 69). The traps of the group table come after
SCRATCH_BOUNDS of the tensors and of the barrier word, whose order with them R251 does not give (DESIGN CHOICE, log entry 90). -/
def mloopWord (word fn : Nat) (ta tb : BitVec 6) (acc k : BitVec 5) (s : State) : Host.Outcome State Fault Refusal :=
  let p0 (c : Ctx) : Word := c.gr.getS (2 * k.toNat)
  let p1 (c : Ctx) : Word := c.gr.getS (2 * k.toNat + 1)
  let a (c : Ctx) : Option Desc := if fn = 1 then none else c.co.tensor? ta.toNat
  let b (c : Ctx) : Option Desc := c.co.tensor? tb.toNat
  let table (c : Ctx) : Except Trap (List (Nat × Nat × Nat)) :=
    if fn = 3 then groupTable c.co (4 * bits (p1 c) 16 16) (((b c).getD 0 : Desc).ext 2) else .ok [(0, 64, 0)]
  issueFull { word := word } (fun c s => s.queueFull c.co 0)
    (fun c s =>
      if mloopBad fn c (a c) (b c) acc.toNat (p0 c) (p1 c) || (fn == 2 && !s.hasPrologue c.co) then some { code := ENGINE_FAULT }
      else match scratchTensors c.co.z ([a c, b c].filterMap id) with
        | some t => some t
        | none => match arrivalTrap c.co.z (bit (p0 c) 17) (4 * bits (p0 c) 20 12) with
          | some t => some t
          | none => match table c with
            | .error t => some t
            | .ok _ => none)
    (fun c s =>
      let m0 : Cmd := { id := 0, eng := .matrix, fn := fn, co := none, launch := none, root := c.co.root }
      s.addCmd c word { m0 with
        p0 := p0 c, p1 := p1 c, td := (a c).getD 0, ts := (b c).getD 0, acc := acc.toNat, oh := bits (p0 c) 0 5,
        grp := (table c).toOption.getD [],
        prog := BitVec.ofNat 48 ((((table c).toOption.getD []).map fun r => r.1).headD 0 * 2 ^ 16) })
    (fun _ s => s) s

/-- `mloop aC <- tA, tB, sK`. -/
def execMloop (x : MX) (s : State) : Host.Outcome State Fault Refusal := mloopWord (encMloop x) 0 x.ta x.tb x.acc x.k s

/-- `mloop.sm aS <- tV, sK` (17 R249). -/
def execMloopSm (b : BitVec 6) (c k : BitVec 5) (s : State) : Host.Outcome State Fault Refusal :=
  mloopWord (encMloopSm b c k) 1 0 b c k s

/-- `mloop.pro aC <- tA, tB, sK` (17 R250). -/
def execMloopPro (x : MX) (s : State) : Host.Outcome State Fault Refusal := mloopWord (encMloopPro x) 2 x.ta x.tb x.acc x.k s

/-- `mloop.grp aC <- tA, tB, sK` (17 R251). -/
def execMloopGrp (x : MX) (s : State) : Host.Outcome State Fault Refusal := mloopWord (encMloopGrp x) 3 x.ta x.tb x.acc x.k s

/-! ### Elements and sums (03 R44 to R49) -/

/-- Ring entries that one K-step pops (17 R248). -/
def stepEntries (kappa w : Nat) : Nat := (64 * kappa * w / 8 + 127) / 128

/-- The bits of an operand's element: from memory, scratch, or the entries at the head of its FIFO; none outside the extents. -/
def State.operand (s : State) (m : Cmd) (t : Desc) (ring : List (List Byte)) (ix : List Nat) (num : Nat) : Except EFault (Option Nat) :=
  if !t.inside ix then .ok none
  else if t.loc = 2 then .ok (some (streamElem ring t.w num))
  else (s.elemRaw m t ix).map some

/-- Its value: scaled, or for B of `.pro` through the prologue; +0 outside the extents. -/
def State.operandVal (s : State) (m : Cmd) (t : Desc) (pro : Bool) (ring : List (List Byte)) (ix : List Nat) (num : Nat) :
    Except EFault FVal :=
  match s.operand m t ring ix num with
  | .error e => .error e
  | .ok none => .ok zeroVal
  | .ok (some x) => if pro then s.prologue m t ix x else s.scaled m t ix x

/-- Its integer. -/
def State.operandInt (s : State) (m : Cmd) (t : Desc) (ring : List (List Byte)) (ix : List Nat) (num : Nat) : Except EFault Int :=
  match s.operand m t ring ix num with
  | .error e => .error e
  | .ok none => .ok 0
  | .ok (some x) => .ok (match intType t.fmt with
    | some (true, w) => signedOf w x
    | _ => (x : Nat))

/-- The exact sum of products, with the sign of zero of 03 R47. -/
def exactSum : List FVal → FVal
  | [] => zeroVal
  | v :: l => l.foldl (FVal.add 0) v

/-- Lists of n. -/
def chunks {α : Type} (n : Nat) : Nat → List α → List (List α)
  | 0, _ => []
  | f + 1, l => if l.isEmpty then [] else l.take n :: chunks n f (l.drop n)

/-- Accumulate products, chunk by chunk of 8: each chunk sum rounds once, and so does each addition (03 R47). -/
def accumulate (c : Word) (ps : List FVal) : Word :=
  (chunks 8 ps.length ps).foldl (fun c ch => r32 0 false ((f32 c).add 0 (f32 (r32 0 false (exactSum ch))))) c

/-- One element of a K-step of MatrixPlain. -/
def State.stepElem (s : State) (m : Cmd) (kappa : Nat) (int : Bool) (ra rb : List (List Byte)) (step i j : Nat) (g : Option Nat)
    (c : Word) : Except EFault Word :=
  let ta : Desc := m.td
  let tb : Desc := m.ts
  let ixA (k : Nat) : List Nat := [i, step * m.ia + k]
  let ixB (k : Nat) : List Nat := [j, step * m.ib + k] ++ g.toList
  if int then
    ((List.range kappa).mapM fun k => do
      let a ← s.operandInt m ta ra (ixA k) (k * 64 + i)
      let b ← s.operandInt m tb rb (ixB k) (k * 64 + j)
      pure (a * b)).map fun (ps : List Int) => BitVec.ofInt 32 (c.toInt + ps.sum)
  else
    ((List.range kappa).mapM fun k => do
      let a ← s.operandVal m ta false ra (ixA k) (k * 64 + i)
      let b ← s.operandVal m tb (m.fn == 2) rb (ixB k) (k * 64 + j)
      pure (a.mul b)).map fun ps => accumulate c ps

/-- Entries at the head of an operand's FIFO, or none while they lack. -/
def State.ringHead (s : State) (m : Cmd) (t : Desc) (n : Nat) : Option (List (List Byte)) :=
  if t.loc ≠ 2 then some []
  else
    let es := (s.fifo (s.cmdCluster m) t.bank).entries
    if es.length < n then none else some (es.take n)

/-- The entries of a step's two operands: where both are rings of one bank, B's stand after A's (17 R248). -/
def State.ringHeads (s : State) (m : Cmd) (ta tb : Desc) (na nb : Nat) : Option (List (List Byte) × List (List Byte)) :=
  if ta.loc = 2 ∧ tb.loc = 2 ∧ ta.bank = tb.bank then (s.ringHead m ta (na + nb)).map fun es => (es.take na, es.drop na)
  else match s.ringHead m ta na, s.ringHead m tb nb with
    | some a, some b => some (a, b)
    | _, _ => none

/-- The pops of a step, A before B (17 R248). -/
def State.ringPop (s : State) (m : Cmd) (t : Desc) (n : Nat) : State :=
  if t.loc ≠ 2 then s else s.popFifo (s.cmdCluster m) t.bank n

/-- Where the row after row i of step st stands: row, step; none at the end. -/
def nextRow (grp : List (Nat × Nat × Nat)) (nstep st i : Nat) : Option (Nat × Nat) :=
  match grp.find? fun r => r.1 ≤ i && decide (i < r.1 + r.2.1) with
  | none => none
  | some r =>
    if i + 1 < r.1 + r.2.1 then some (i + 1, st)
    else if st + 1 < nstep then some (r.1, st + 1)
    else (grp.find? fun q => decide (r.2.2 < q.2.2)).map fun q => (q.1, 0)

/-- MXPROG (17 Table 17.12). -/
def mxprog (row step : Nat) : BitVec 48 := BitVec.ofNat 48 (step + row * 2 ^ 16)

/-- CLR of a group's rows (17 R248, R251). -/
def Cohort.clearRows (c : Cohort) (n r0 k : Nat) : Cohort :=
  { c with accE := c.accE.filter fun p => !(decide (4096 * n + 64 * r0 ≤ p.1) && decide (p.1 < 4096 * n + 64 * (r0 + k))) }

/-- The translations that a row of a K-step reads through are kept: row i of A, and with the first row all of B (13 R193). -/
def State.keepStep (s : State) (m : Cmd) (kappa : Nat) (int : Bool) (step i : Nat) (first : Bool) (g : Option Nat) : State :=
  let s1 := (List.range kappa).foldl (fun (s : State) k => s.keepElem m m.td (!int) [i, step * m.ia + k]) s
  if first then (List.range (64 * kappa)).foldl (fun (s : State) e =>
    s.keepElem m m.ts (!int) ([e / kappa, step * m.ib + e % kappa] ++ g.toList)) s1 else s1

/-- One row of one K-step of a plain, `.pro` or `.grp` command. -/
def State.matrixRow (s : State) (m : Cmd) (c : Cohort) : State :=
  let ta : Desc := m.td
  let tb : Desc := m.ts
  if m.nstep = 0 ∨ m.grp.isEmpty then
    (if m.clr then s.updCo c.id fun c => m.grp.foldl (fun c r => c.clearRows m.acc r.1 r.2.1) c else s).updCmd m.id fun m => { m with done := true }
  else
    let step := bits m.prog 0 16
    let i := bits m.prog 16 6
    match rowOf m.fn ta tb, m.grp.find? (fun r => r.1 ≤ i && decide (i < r.1 + r.2.1)) with
    | some (kappa, int), some (r0, n, g) =>
      let na := stepEntries kappa ta.w
      let nb := stepEntries kappa tb.w
      match s.ringHeads m ta tb na nb with
      | some (ra, rb) =>
        let c1 := if m.clr ∧ step = 0 ∧ i = r0 then c.clearRows m.acc r0 n else c
        let s1 := s.updCo c.id fun _ => c1
        (match (List.range 64).mapM fun j => s.stepElem m kappa int ra rb step i j (if m.fn = 3 then some g else none) (c1.accElem m.acc i j) with
         | .error e => s1.cmdFault m e
         | .ok xs =>
           let s2 := (s1.keepStep m kappa int step i (decide (i = r0)) (if m.fn = 3 then some g else none)).updCo c.id fun c => xs.zipIdx.foldl (fun c p => c.setAccElem m.acc i p.2 p.1) c
           let s3 := if i + 1 = r0 + n then (s2.ringPop m ta na).ringPop m tb nb else s2
           match nextRow m.grp m.nstep step i with
           | some (i', st') => s3.updCmd m.id fun m => { m with prog := mxprog i' st' }
           | none => s3.updCmd m.id fun m => { m with done := true })
      | none => s
    | _, _ => s.updCmd m.id fun m => { m with done := true }

/-! ### The softmax variant (17 R249) -/

/-- The code of the first interval whose ends round alike in a format. -/
def roundIvalsIn (f : Fmt) : List Ival → Nat
  | [] => 0
  | [v] => f.round 0 false (.fin v.neg v.lo v.den)
  | v :: t =>
    let a := f.round 0 false (.fin v.neg v.lo v.den)
    if a = f.round 0 false (.fin v.neg v.hi v.den) ∧ 0 < v.lo then a else roundIvalsIn f t

/-- Exp2 of an FP32 value, rounded once to BF16. -/
def exp2Bf16 (x : Word) : Nat :=
  match f32 x with
  | .nan => BF16.nanCode
  | .inf neg => if neg then 0 else BF16.infCode
  | .fin neg n d =>
    let v := sgn neg n
    let i := v / d
    let r := (v % d).toNat
    if 130 ≤ i then BF16.round 0 false (.fin false (2 ^ 130) 1)
    else if i < -300 then BF16.round 0 false (.fin false 1 (2 ^ 300))
    else if r = 0 then BF16.round 0 false (if 0 ≤ i then .fin false (2 ^ i.toNat) 1 else .fin false 1 (2 ^ (-i).toNat))
    else roundIvalsIn BF16 (precisions.map (exp2Ival i r d))

/-- One row of an `.sm` command: O's new row, with m and l; `v` reads B(kk, j). -/
def softmaxRow (sc : Word) (m l : Word) (srow orow : List Word) (v : Nat → Nat → Except EFault FVal) :
    Except EFault (Word × Word × List Word) :=
  let x := srow.map fun e => fMul 0 false e sc
  let mn := x.foldl fMax m
  let ninf := mn == negInf
  let alpha : Word := if ninf then 0x3F800000#32 else transFn 0 0 false (fSub 0 false m mn)
  let ps : List Nat := x.map fun e => if ninf then 0 else exp2Bf16 (fSub 0 false e mn)
  let rs := r32 0 false (exactSum (ps.map BF16.value))
  let l' := fAdd 0 false (fMul 0 false l alpha) rs
  (orow.zipIdx.mapM fun p =>
    ((List.range 64).mapM fun kk => (v kk p.2).map fun b => (BF16.value (ps.getD kk 0)).mul b).map fun prods =>
      accumulate (fMul 0 false p.1 alpha) prods).map fun o => (mn, l', o)

/-- INIT (17 Table 17.2): O to +0, the score handle's m to −∞ and l to +0. -/
def Cohort.smInit (c : Cohort) (sh oh : Nat) : Cohort :=
  { c.clearRows oh 0 64 with
    accM := c.accM.filter fun p => !(decide (64 * sh ≤ p.1) && decide (p.1 < 64 * (sh + 1)))
    accL := c.accL.filter fun p => !(decide (64 * sh ≤ p.1) && decide (p.1 < 64 * (sh + 1))) }

/-- One row of an `.sm` command; a ring V is popped once, after the last row (log entry 23). -/
def State.smRow (s : State) (m : Cmd) (c : Cohort) : State :=
  let tv : Desc := m.ts
  let i := bits m.prog 16 6
  match s.ringHead m tv 64 with
  | none => s
  | some ring =>
    let c1 := if m.clr ∧ i = 0 then c.smInit m.acc m.oh else c
    let s1 := s.updCo c.id fun _ => c1
    match softmaxRow m.p1 (c1.accSideM m.acc i) (c1.accSideL m.acc i) ((List.range 64).map (c1.accElem m.acc i))
        ((List.range 64).map (c1.accElem m.oh i)) (fun kk j => s.operandVal m tv false ring [j, kk] (kk * 64 + j)) with
    | .error e => s1.cmdFault m e
    | .ok (mn, l, o) =>
      let s0 := if i = 0 then (List.range 4096).foldl (fun (s : State) e => s.keepElem m tv true [e / 64, e % 64]) s1 else s1
      let s2 := s0.updCo c.id fun c => { o.zipIdx.foldl (fun c p => c.setAccElem m.oh i p.2 p.1) c with
        accM := Sparse.set negInf c.accM (64 * m.acc + i) mn
        accL := Sparse.set 0 c.accL (64 * m.acc + i) l }
      if i + 1 < 64 then s2.updCmd m.id fun m => { m with prog := mxprog (i + 1) 0 }
      else (s2.ringPop m tv 64).updCmd m.id fun m => { m with done := true }

/-- The first command of a queue that runs: one that an `xfence` holds back holds back all behind it; one that is stopped, those of
its own cohort. -/
def State.firstRun (s : State) : List Cmd → List Nat → Option (Cmd × Cohort)
  | [], _ => none
  | m :: t, bs => match s.cmdCo m with
    | none => s.firstRun t bs
    | some c =>
      if bs.contains c.id then s.firstRun t bs
      else if s.cmdRuns m then some (m, c)
      else if m.stopped || c.status == .held then s.firstRun t (c.id :: bs)
      else none

/-- The command a cell's matrix engine performs: commands go in the order in which they were issued (17 R252). -/
def State.matrixHead (s : State) (cell : Nat) : Option (Cmd × Cohort) :=
  s.firstRun (s.cmds.filter fun m => m.eng == .matrix && !m.done && (s.cmdCo m).any fun c => s.engCell c == cell) []

/-- `MATRIX_ENGINE_RUN`: a cell's matrix engine performs one row (17 R252). A `.pro` command that its cohort took along to a cell without
the prologue meets the fault of its issue there (01 R14; DESIGN CHOICE, log entry 69). -/
def execMatrixEngineRun (cell : Nat) (s : State) : Host.Outcome State Fault Refusal :=
  .next (match s.matrixHead cell with
    | none => s
    | some (m, c) => if m.fn = 1 then s.smRow m c
      else if m.fn = 2 ∧ s.hasPrologue c = false then s.cmdFault m (ENGINE_FAULT, 0)
      else s.matrixRow m c)

end Sys2Proof.Machine
end

