-- ==== Sys2Proof/Machine/Mem.lean ====
section
/-! DEFINITION. Loads and stores of format M, `ldc` and `pref` (15.2, 15.3), and the remote request that no link carries
(25 R347). -/
namespace Sys2Proof.Machine

/-! ### Addresses (15 R215) -/

/-- GAddr. -/
def Ctx.gaddr (c : Ctx) (bp o l : Nat) : Nat :=
  ((((c.gr.getS2 (2 * bp)).toNat : Int) + (c.gr.getV o l).toNat + c.h.disp) % (2 ^ 64 : Nat)).toNat

/-- SAddr: exact, may be negative. -/
def Ctx.saddr (c : Ctx) (bp o l : Nat) : Int := ((c.gr.getS (2 * bp)).toNat : Int) + (c.gr.getV o l).toNat + c.h.disp

/-- COff: exact, may be negative. -/
def Ctx.coff (c : Ctx) (o l : Nat) : Int := ((c.gr.getV o l).toNat : Int) + c.h.disp

/-- The addresses of the participating lanes, ascending. -/
def Ctx.gaddrs (c : Ctx) (g bp o : Nat) : List LaneAt := (lanesOf (c.part g)).map fun l => (l, c.gaddr bp o l)
def Ctx.saddrs (c : Ctx) (g bp o : Nat) : List (Nat × Int) := (lanesOf (c.part g)).map fun l => (l, c.saddr bp o l)
def Ctx.coffs (c : Ctx) (g o : Nat) : List (Nat × Int) := (lanesOf (c.part g)).map fun l => (l, c.coff o l)

/-! ### Checks (15 R216; 25 R336) -/

/-- A lane's access, also to a register frame: only to an offset that holds a register. -/
def State.laneAccessM (s : State) (c : Cohort) (k : Access) (w a : Nat) : Except Code Phys :=
  match s.laneAccess c k w a with
  | .error e => .error e
  | .ok p => if isRegKey p.key && (regAt (p.key - regBase)).isNone then .error PROTECTION else .ok p

/-- The trap of the lowest lane that faults. -/
def State.mcheck (s : State) (c : Cohort) (k : Access) (w : Nat) (as : List LaneAt) : Option Trap :=
  as.findSome? fun p => match s.laneAccessM c k w p.2 with
    | .ok _ => none
    | .error e => some { code := e, lane := some p.1, addr := BitVec.ofNat 64 p.2 }

/-- The trap of the lowest lane of `ldc`: the offset, then the access at ARGS plus it. A Headframe core has no launch header: its ARGS is
taken to be 0 (DESIGN CHOICE, log entry 158). -/
def State.ccheck (s : State) (c : Cohort) (w : Nat) (os : List (Nat × Int)) : Option Trap :=
  os.findSome? fun (p : Nat × Int) =>
    let a : Int := (hArgs c.hdr : Int) + p.2
    if p.2 < (0 : Int) ∨ (65536 : Int) < p.2 + (w : Int) then some { code := PROTECTION, lane := some p.1, addr := BitVec.ofInt 64 a }
    else match s.laneAccessM c .read w a.toNat with
      | .ok _ => none
      | .error e => some { code := e, lane := some p.1, addr := BitVec.ofInt 64 a }

/-! ### The words -/

/-- The request of a load or store word: `rs` are the registers its data stand in. -/
def memReq (word : Nat) (wf : Bool) (d o n look : Nat) (load b8 : Bool) : Req :=
  { word := word, wf := wf, vr := o :: (List.range n).map (fun i => d + i), vw := if load then (List.range n).map (fun i => d + i) else [],
    imm := true, mods := { b8 := b8, cp := true }, rep := true, mem := true, look := look }

/-- A load's values go to its registers, at once or through a window (15 R219; 05 R72). -/
def State.loaded (s : State) (c : Ctx) (q : Req) (d n : Nat) (pm : Word) (addrs : Sparse (BitVec 64)) (vals : Sparse Word) : State :=
  s.updGr c.who fun g => g.result c.who.si { c.window q d n pm with addrs := addrs, vals := vals }

/-- The values of a global load; a register frame gives its register (25 R336). -/
def State.globVals (s : State) (c : Cohort) (w n d : Nat) (as : List LaneAt) : Sparse Word :=
  as.flatMap fun p =>
    let key := s.keyAt c .read p.2
    loadWords d p.1 n (if isRegKey key then bytesOf w (s.readReg (key - regBase)).toNat else s.loadBytes c p.2 w)

/-- The effect of a load of the lanes path: counter h, the values, the translations and sectors it brings in. -/
def globLoad (q : Req) (d n w : Nat) (pm : Word) (as : List LaneAt) (c : Ctx) (s : State) : State :=
  let s1 := s.victims c .read as
  let vals := s1.globVals c.co w n d as
  (as.foldl (fun (s : State) p => s.touch c.co .read p.2) s1).loaded c q d n pm (as.map fun p => (p.1, BitVec.ofNat 64 p.2)) vals

/-- Watchpoint accesses of global lanes. -/
def laneAccs (w : Nat) (as : List LaneAt) : List Acc := as.map fun p => ⟨p.1, p.2, w⟩
def scrAccs (w : Nat) (as : List (Nat × Int)) : List Acc := as.map fun p => ⟨p.1, p.2.toNat, w⟩

/-- The room that a watchpoint hit needs in the log (23 R324). -/
def State.wpRoom (s : State) (c : Cohort) (scr wr rd : Bool) (as : List Acc) : Option Trap :=
  if (s.wpAll c scr wr rd as).isEmpty then none else s.logRoom ((s.clusterOf c).getD 0 / 16) [(6, 1)]

/-- The entry that a watchpoint hit needs. -/
def State.wpKinds (s : State) (c : Cohort) (scr wr rd : Bool) (as : List Acc) : List (Nat × Nat) :=
  if (s.wpAll c scr wr rd as).isEmpty then [] else [(6, 1)]

/-- `ldg.T vd <- [sK + vO + disp]` (15 R219). -/
def execLdg (x : ML) (s : State) : Host.Outcome State Fault Refusal :=
  let z := x.sz.toNat
  let n := mRegs z
  let w (c : Ctx) : Nat := mWidth z c.h.b8
  let q := memReq (encLdg x) (regAlign x.sz x.d) x.d.toNat x.o.toNat n x.l.toNat true (z == 0)
  let as (c : Ctx) : List LaneAt := c.gaddrs x.g.toNat x.bp.toNat x.o.toNat
  issueLog q (fun c s => s.wpKinds c.co false false true (laneAccs (w c) (as c)))
    (fun c s => c.h.badDisp.isNone && (s.noLink c.co .read (w c) (as c) || s.ordHeld c true (w c) (as c)))
    (fun c s => orTrap c.h.badDisp (orTrap (s.mcheck c.co .read (w c) (as c)) (s.wpRoom c.co false false true (laneAccs (w c) (as c)))))
    (fun c s => globLoad q x.d.toNat n (w c) (c.part x.g.toNat) (as c) c s)
    (fun c s => wpAct (s.wpAll c.co false false true (laneAccs (w c) (as c))) false false true (encLdg x) c s) s

/-- One lane's store: a register write by a Headframe core (25 R336), or bytes on the lanes path. -/
def State.storeLane (s : State) (c : Cohort) (a : Nat) (bs : List Byte) : State :=
  let key := s.keyAt c .write a
  if isRegKey key then s.writeReg (key - regBase) (BitVec.ofNat 64 (ofBytes bs)) else s.storeBytes c a bs

/-- Every lane's store folds into its digest context, in a digested launch (23 R329). -/
def stgFold (w d : Nat) (as : List LaneAt) (c : Ctx) (s : State) : State :=
  if (s.dslotOf c.co).isSome then s.updGr c.who fun g => as.foldl (fun (g : Group) p => g.foldCtx p.1 p.2 w (ofBytes (c.gr.regBytes d p.1 w))) g else s

/-- `stg.T [sK + vO + disp] <- vd` (15 R219): ascending lanes. -/
def execStg (x : MS) (s : State) : Host.Outcome State Fault Refusal :=
  let z := x.sz.toNat
  let n := mRegs z
  let d := x.d.toNat
  let w (c : Ctx) : Nat := mWidth z c.h.b8
  let q := memReq (encStg x) (regAlign x.sz x.d) d x.o.toNat n 0 false (z == 0)
  let as (c : Ctx) : List LaneAt := c.gaddrs x.g.toNat x.bp.toNat x.o.toNat
  issueLog q (fun c s => s.wpKinds c.co false true false (laneAccs (w c) (as c)))
    (fun c s => c.h.badDisp.isNone && (s.noLink c.co .write (w c) (as c) || s.ordHeld c false (w c) (as c)))
    (fun c s => orTrap c.h.badDisp (orTrap (s.mcheck c.co .write (w c) (as c)) (s.wpRoom c.co false true false (laneAccs (w c) (as c)))))
    (fun c s => (as c).foldl (fun (s : State) p => s.storeLane c.co p.2 (c.gr.regBytes d p.1 (w c)))
      (stgFold (w c) d (as c) c (s.victims c .write (as c))))
    (fun c s => wpAct (s.wpAll c.co false true false (laneAccs (w c) (as c))) false true false (encStg x) c s) s

/-- `lds.T vd <- [sK + vO + disp]` (15 R219). -/
def execLds (x : ML) (s : State) : Host.Outcome State Fault Refusal :=
  let z := x.sz.toNat
  let n := mRegs z
  let w (c : Ctx) : Nat := mWidth z c.h.b8
  let q := memReq (encLds x) (regAlign x.sz x.d) x.d.toNat x.o.toNat n x.l.toNat true (z == 0)
  let as (c : Ctx) : List (Nat × Int) := c.saddrs x.g.toNat x.bp.toNat x.o.toNat
  issueLog q (fun c s => s.wpKinds c.co true false true (scrAccs (w c) (as c)))
    (fun _ _ => false)
    (fun c s => orTrap c.h.badDisp (orTrap (scratchCheck c.co (w c) (as c)) (orTrap (scratchSpoilt c.co (w c) (as c))
      (s.wpRoom c.co true false true (scrAccs (w c) (as c))))))
    (fun c s => s.loaded c q x.d.toNat n (c.part x.g.toNat) ((as c).map fun p => (p.1, BitVec.ofInt 64 p.2))
      ((as c).flatMap fun p => loadWords x.d.toNat p.1 n (c.co.scratchBytes p.2.toNat (w c))))
    (fun c s => wpAct (s.wpAll c.co true false true (scrAccs (w c) (as c))) true false true (encLds x) c s) s

/-- `sts.T [sK + vO + disp] <- vd` (15 R219): ascending lanes. -/
def execSts (x : MS) (s : State) : Host.Outcome State Fault Refusal :=
  let z := x.sz.toNat
  let n := mRegs z
  let d := x.d.toNat
  let w (c : Ctx) : Nat := mWidth z c.h.b8
  let q := memReq (encSts x) (regAlign x.sz x.d) d x.o.toNat n 0 false (z == 0)
  let as (c : Ctx) : List (Nat × Int) := c.saddrs x.g.toNat x.bp.toNat x.o.toNat
  issueLog q (fun c s => s.wpKinds c.co true true false (scrAccs (w c) (as c)))
    (fun c s => c.h.badDisp.isNone && s.ordHeld c false 0 ((as c).map fun p => (p.1, 0)))
    (fun c s => orTrap c.h.badDisp (orTrap (scratchCheck c.co (w c) (as c)) (s.wpRoom c.co true true false (scrAccs (w c) (as c)))))
    (fun c s => s.updCo c.who.co fun co => (as c).foldl (fun (co : Cohort) p => co.scratchWrite p.2.toNat (c.gr.regBytes d p.1 (w c))) co)
    (fun c s => wpAct (s.wpAll c.co true true false (scrAccs (w c) (as c))) true true false (encSts x) c s) s

/-- `ldc.T vd <- [vO + disp]` (13 R179; 15 R221). -/
def execLdc (g : BitVec 3) (d o : BitVec 7) (z : BitVec 2) (l : BitVec 4) (s : State) : Host.Outcome State Fault Refusal :=
  let n := mRegs z.toNat
  let w := mWidth z.toNat false
  let q := memReq (encLdc g d o z l) (z != 3 && regAlign z d) d.toNat o.toNat n l.toNat true false
  let as (c : Ctx) : List LaneAt := (c.coffs g.toNat o.toNat).map fun p => (p.1, ((hArgs c.co.hdr : Int) + p.2).toNat)
  issueLog q (fun c s => s.wpKinds c.co false false true (laneAccs w (as c)))
    (fun c s => c.h.badDisp.isNone && (s.ccheck c.co w (c.coffs g.toNat o.toNat)).isNone &&
      (s.noLink c.co .read w (as c) || s.ordHeld c true w (as c)))
    (fun c s => orTrap c.h.badDisp (orTrap (s.ccheck c.co w (c.coffs g.toNat o.toNat)) (s.wpRoom c.co false false true (laneAccs w (as c)))))
    (fun c s => globLoad q d.toNat n w (c.part g.toNat) (as c) c s)
    (fun c s => wpAct (s.wpAll c.co false false true (laneAccs w (as c))) false false true (encLdc g d o z l) c s) s

/-- A prefetch word (15 R222): a lane that could not be served is dropped; with `clu` the sectors come into the cluster
cache, where a line may have to make room. -/
def prefWord (word : Nat) (clu : Bool) (g : BitVec 3) (o : BitVec 7) (b : BitVec 2) (s : State) : Host.Outcome State Fault Refusal :=
  let as (c : Ctx) : List LaneAt := (c.gaddrs g.toNat b.toNat o.toNat).map fun p => (p.1, p.2 / 32 * 32)
  issue { memReq word true 0 o.toNat 0 0 false false with unordered := true } (fun c _ => c.h.badDisp)
    (fun c s =>
      if clu then (as c).foldl (fun (s : State) p => match s.laneAccess c.co .read 1 p.2 with
        | .ok q => if s.noRoute q.key then s else s.touch c.co .read p.2
        | .error _ => s) s
      else s) s

/-- `pref.clu [sK + vO + disp]` (15 R222). -/
def execPrefClu (g : BitVec 3) (o : BitVec 7) (b : BitVec 2) (s : State) : Host.Outcome State Fault Refusal :=
  prefWord (encPrefClu g o b) true g o b s

/-- `pref.home [sK + vO + disp]` (15 R222): into the home slice, whose lines show in no value. -/
def execPrefHome (g : BitVec 3) (o : BitVec 7) (b : BitVec 2) (s : State) : Host.Outcome State Fault Refusal :=
  prefWord (encPrefHome g o b) false g o b s

/-! ### A remote request that finds no port (25 R347) -/

/-- The accesses of a word: kind, bytes, addresses with their lanes; none for a word that makes no global access of a lane. -/
def Ctx.remoteAt (c : Ctx) (word : Nat) : Option (Access × Nat × List (Option Nat × Nat)) :=
  let w : Word := BitVec.ofNat 32 word
  let z := bits w 6 2
  let g := bits w 22 3
  let o := bits w 8 7
  let m := bits w 25 7
  let fn := bits w 4 6
  let one (a : Nat) : List (Option Nat × Nat) := [(none, a)]
  let per (as : List LaneAt) : List (Option Nat × Nat) := as.map fun p => (some p.1, p.2)
  let pair (lo : Nat) : Nat := (c.gr.getS2 (bits w lo 6)).toNat
  if m = 0x30 then some (.read, mWidth z c.h.b8, per (c.gaddrs g (bits w 4 2) o))
  else if m = 0x31 then some (.write, mWidth z c.h.b8, per (c.gaddrs g (bits w 4 2) o))
  else if m = 0x34 ∧ z ≠ 3 ∧ (c.coffs g o).all (fun p => decide (0 ≤ p.2) && decide (p.2 + mWidth z false ≤ 65536)) then
    some (.read, mWidth z false, per ((c.coffs g o).map fun p => (p.1, ((hArgs c.co.hdr : Int) + p.2).toNat)))
  else if m = 0x35 then
    let op := bits w 4 4
    some (if op = 12 then .read else .write, atomWidth op, per ((lanesOf c.partH).map fun l => (l, c.aaddr o l)))
  else if m = 0x37 ∧ (fn = 2 ∨ fn = 3) then some (.read, if fn = 3 then 8 else 4, one (pair 16))
  else if m = 0x2D ∧ fn ≤ 1 then
    some (.read, 4, (List.range 4).map fun i => (none, (c.entryAt (c.gr.getS (bits w 16 6)).toNat).toNat + 4 * i))
  else if m = 0x2D ∧ fn = 2 then
    some (.read, 128, per ((lanesOf c.partH).map fun l => (l, (c.gr.getV2 (bits w 16 6) l).toNat)))
  else if (m = 0x2F ∨ m = 0x3B) ∧ fn = 0 ∧ bits w 22 3 = 0 then some (.read, 64, one (pair 16))
  else if m = 0x3C ∧ fn = 0 then some (.write, 64, one (pair 16) ++ one (pair 10))
  else if m = 0x3C ∧ fn = 1 then some (.read, 8, one (pair 16))
  else none

/-- A split waits for a port with the word it would issue (25 R347): the word's accesses, when one of them has none. -/
def State.waitsPort (s : State) (c : Ctx) (word : Nat) : Option (Option Nat × Nat) :=
  match c.remoteAt word with
  | some (k, n, as) => if s.noLinkAt c.co k n (as.map fun p => p.2) then as.find? fun p => s.noPort c.co k n p.2 else none
  | none => none

/-- The trap of a request that no port has carried within 2^24 fabric cycles (21 R295). -/
def State.portTrap (s : State) (w : Who) (c : Ctx) (word : Nat) (p : Option Nat × Nat) : State :=
  let s1 : State := { s with time := s.time + 5 * 2 ^ 22, focus := some w }
  { s1.raise c word { code := ECC_UNCORRECTED, lane := p.1, addr := BitVec.ofNat 64 p.2 } with focus := s.focus }

/-- An SC operation of a split waits for a ticket that no link can bring, or for a slice that none can reach; so does an ordered
operation of it that returns a value, once it is due (25 R347). -/
def State.scPort (s : State) (w : Who) : Option ScOp :=
  let cut (o : ScOp) : Bool := o.who == w && (s.noRoute o.key || (decide (14 ≤ o.op) && s.ticketAway o.sys && !s.linkUp))
  match s.sc.find? cut with
  | some o => some o
  | none => ((s.ords.filter fun o => o.who == w && atomReturns o.op && s.ordDue o && s.lowestOrd o.launch == some o).map OrdOp.toSc).find? cut

/-- The operations of one instruction are given up, with their reservations in the log. -/
def State.dropOps (s : State) (w : Who) (ord : Nat) : State :=
  let mine (v : Who) (o : Nat) : Bool := v == w && o == ord
  let s1 := (s.sc.filter fun p => mine p.who p.ord && p.rsv).foldl (fun (s : State) p => s.logReserve p.die (-1)) s
  let s2 := (s.ords.filter fun p => mine p.who p.ord).foldl (fun (s : State) p =>
    s.logReserve p.die (-((if p.rsv then 1 else 0) + if p.rsvRed then 1 else 0))) s1
  { s2 with sc := s2.sc.filter fun p => !mine p.who p.ord, ords := s2.ords.filter fun p => !mine p.who p.ord }

/-- The lanes of an instruction whose operations are held. -/
def State.heldLanes (s : State) (w : Who) (ord : Nat) : Word :=
  maskOf (((s.sc.filter fun p => p.who == w && p.ord == ord).map fun p => p.lane) ++
    (s.ords.filter fun p => p.who == w && p.ord == ord).map fun p => p.lane)

/-- The instruction of such an operation faults, with no result written (05 R75, 21 R294). Before any later instruction of the split has
issued, and with no lane's operation performed, it is its own resume point and keeps no window; else it is marked for re-issue, in the
lanes whose operations are still to be performed, and keeps the others' values in its window (log entry 62). -/
def State.scTimeout (s : State) (w : Who) (c : Ctx) (o : ScOp) : State :=
  match c.sp.windows.find? fun v => v.ord == o.ord with
  | none => s
  | some v =>
    let left := s.heldLanes w o.ord
    let s1 := { s with time := s.time + 5 * 2 ^ 22, focus := some w, stalled := [] }.dropOps w o.ord
    let at_ := s.chainTarget c.co 8 v.pc
    let t : Trap := { code := ECC_UNCORRECTED, lane := some o.lane, addr := Sparse.get 0 v.addrs o.lane, pc := some at_ }
    if left = v.pmask ∧ v.first at_ c.sp = true then { s1.faultFirst c v t with focus := s.focus }
    else
      let s2 := s1.updSp w fun x => { x with windows := x.windows.map fun (y : Window) => if y.ord = o.ord then
          { y with re := true, ready := false, pmask := left } else y }
      { s2.faultLater c v t with focus := s.focus }

/-- `LINK_REQUEST_TIMEOUT` (25 R347): no port has carried the request of a split found waiting, or of an SC operation of it that waits
for its ticket, within 2^24 fabric cycles: ECC_UNCORRECTED on the instruction, before anything is written (21 R295). -/
def execLinkRequestTimeout (w : Who) (s : State) : Host.Outcome State Fault Refusal :=
  .next (match s.ctxOf w with
    | none => s
    | some c =>
      let there : Bool := match c.co.status with
        | .resident => true
        | .saving _ _ => true
        | _ => false
      match s.scPort w with
      | some o => if there && !(s.clusterOf c.co).any (fun k => bit (s.reg (cluReg k 0x0488)) 0) then s.scTimeout w c o else s
      | none =>
        if s.free? c.co c.gr c.sp && s.stalled.contains w && c.h.badDisp.isNone then
          (match s.nextWord c with
           | .word x => (match s.waitsPort c x with
             | some p => s.portTrap w c x p
             | none => s)
           | _ => s)
        else s)

/-! ### Ordered operations at their homes (13 R211) -/

/-- A remote operation that returns nothing, and that no link port has carried within 2^24 fabric cycles, is lost: the PF's ring gets the
uncorrectable error, since no instruction is left to take it (25 R347; DESIGN CHOICE, log entry 162). -/
def State.ordLost (s : State) (o : OrdOp) : State :=
  let s1 : State := { s with time := s.time + 5 * 2 ^ 22, ords := s.ords.erase o, stalled := [] }
  (if o.rsvRed then s1.logReserve o.die (-1) else s1).event 0 { src := 5, code := ECC_UNCORRECTED, addr := o.va.toNat }

/-- `ORDERED_APPLY` (13 R211): the lowest operation of a launch that is due is applied; SC operations take their tickets
then (15 R226). -/
def execOrderedApply (l : Nat) (s : State) : Host.Outcome State Fault Refusal :=
  .next (match s.lowestOrd l with
    | none => s
    | some o =>
      if !s.ordDue o then s
      else if !s.ordGoes o then (if atomReturns o.op then s else s.ordLost o)
      else
        let rest := s.ords.erase o
        let held := rest.any fun p => p.who == o.who && p.ord == o.ord && atomReturns p.op
        let s1 := { s with ords := rest }
        let tag : Nat × BitVec 16 := match s.cohort? o.who.co with
          | some c => (c.lcell, c.ltag)
          | none => (0, ((s.launch? l).map fun x => x.ltag).getD 0)
        let s2 := s1.writeRsv o.rsvRed o.die 4 tag.1 tag.2 (redPay o)
        if 14 ≤ o.op then
          s2.grant o.toSc held
        else
          let co := s2.cohort? o.who.co
          let s3 := s2.flushLoc (co.bind s2.clusterOf) o.key (atomWidth o.op)
          let (v, s4) := s3.send o.src o.key o.vd (.atom o.op o.d o.x)
          let s5 := if atomAcquire o.op 2 then s4.acquire (co.bind s4.clusterOf) else s4
          if atomReturns o.op then s5.giveValue o.who o.ord o.lane o.op o.dst.toNat v held else s5)

end Sys2Proof.Machine
end

