-- ==== Sys2Proof/Machine/Dispatch.lean ====
section
/-! DEFINITION. One arm per operation or event: a call of its meaning. -/
namespace Sys2Proof.Machine

def exec (i : Instr) (s : State) : Host.Outcome State Fault Refusal :=
  match i with
  | .iadd x => Sys2Proof.Machine.execIadd x s
  | .isub x => Sys2Proof.Machine.execIsub x s
  | .imulLo x => Sys2Proof.Machine.execImulLo x s
  | .imulHiS x => Sys2Proof.Machine.execImulHiS x s
  | .imac x => Sys2Proof.Machine.execImac x s
  | .iabd x => Sys2Proof.Machine.execIabd x s
  | .iminS x => Sys2Proof.Machine.execIminS x s
  | .imaxS x => Sys2Proof.Machine.execImaxS x s
  | .iminN x => Sys2Proof.Machine.execIminN x s
  | .imaxN x => Sys2Proof.Machine.execImaxN x s
  | .and x => Sys2Proof.Machine.execAnd x s
  | .or x => Sys2Proof.Machine.execOr x s
  | .xor x => Sys2Proof.Machine.execXor x s
  | .andn x => Sys2Proof.Machine.execAndn x s
  | .shl x => Sys2Proof.Machine.execShl x s
  | .shr x => Sys2Proof.Machine.execShr x s
  | .sar x => Sys2Proof.Machine.execSar x s
  | .rot x => Sys2Proof.Machine.execRot x s
  | .fadd x => Sys2Proof.Machine.execFadd x s
  | .fsub x => Sys2Proof.Machine.execFsub x s
  | .fmul x => Sys2Proof.Machine.execFmul x s
  | .ffma x => Sys2Proof.Machine.execFfma x s
  | .fmin x => Sys2Proof.Machine.execFmin x s
  | .fmax x => Sys2Proof.Machine.execFmax x s
  | .haddBf16x2 x => Sys2Proof.Machine.execHaddBf16x2 x s
  | .hmulBf16x2 x => Sys2Proof.Machine.execHmulBf16x2 x s
  | .hfmaBf16x2 x => Sys2Proof.Machine.execHfmaBf16x2 x s
  | .hfmaF16x2 x => Sys2Proof.Machine.execHfmaF16x2 x s
  | .sel x => Sys2Proof.Machine.execSel x s
  | .permB8 x => Sys2Proof.Machine.execPermB8 x s
  | .dot4S8 x => Sys2Proof.Machine.execDot4S8 x s
  | .dot8S4 x => Sys2Proof.Machine.execDot8S4 x s
  | .icmpS32 x => Sys2Proof.Machine.execIcmpS32 x s
  | .icmpN32 x => Sys2Proof.Machine.execIcmpN32 x s
  | .fcmpF32 x => Sys2Proof.Machine.execFcmpF32 x s
  | .plog g p f a b m => Sys2Proof.Machine.execPlog g p f a b m s
  | .iaddi x => Sys2Proof.Machine.execIaddi x s
  | .shli x => Sys2Proof.Machine.execShli x s
  | .shri x => Sys2Proof.Machine.execShri x s
  | .sari x => Sys2Proof.Machine.execSari x s
  | .roti x => Sys2Proof.Machine.execRoti x s
  | .movi g d im => Sys2Proof.Machine.execMovi g d im s
  | .andi x => Sys2Proof.Machine.execAndi x s
  | .cvt g d a t sa => Sys2Proof.Machine.execCvt g d a t sa s
  | .movB32 x => Sys2Proof.Machine.execMovB32 x s
  | .notB32 x => Sys2Proof.Machine.execNotB32 x s
  | .inegS32 x => Sys2Proof.Machine.execInegS32 x s
  | .iabsS32 x => Sys2Proof.Machine.execIabsS32 x s
  | .popcB32 x => Sys2Proof.Machine.execPopcB32 x s
  | .clzB32 x => Sys2Proof.Machine.execClzB32 x s
  | .ctzB32 x => Sys2Proof.Machine.execCtzB32 x s
  | .brevB32 x => Sys2Proof.Machine.execBrevB32 x s
  | .fnegF32 x => Sys2Proof.Machine.execFnegF32 x s
  | .fabsF32 x => Sys2Proof.Machine.execFabsF32 x s
  | .fintF32 x => Sys2Proof.Machine.execFintF32 x s
  | .exp2 x => Sys2Proof.Machine.execExp2 x s
  | .log2 x => Sys2Proof.Machine.execLog2 x s
  | .rcp x => Sys2Proof.Machine.execRcp x s
  | .rsqrt x => Sys2Proof.Machine.execRsqrt x s
  | .sqrt x => Sys2Proof.Machine.execSqrt x s
  | .sinpi x => Sys2Proof.Machine.execSinpi x s
  | .cospi x => Sys2Proof.Machine.execCospi x s
  | .tanh x => Sys2Proof.Machine.execTanh x s
  | .rngB32 x => Sys2Proof.Machine.execRngB32 x s
  | .rnguF32 x => Sys2Proof.Machine.execRnguF32 x s
  | .packhBf16x2 x => Sys2Proof.Machine.execPackhBf16x2 x s
  | .packhF16x2 x => Sys2Proof.Machine.execPackhF16x2 x s
  | .unpackhBf16x2 x => Sys2Proof.Machine.execUnpackhBf16x2 x s
  | .unpackhF16x2 x => Sys2Proof.Machine.execUnpackhF16x2 x s
  | .iaddVs x => Sys2Proof.Machine.execIaddVs x s
  | .imulLoVs x => Sys2Proof.Machine.execImulLoVs x s
  | .imulHiN32Vs x => Sys2Proof.Machine.execImulHiN32Vs x s
  | .iaddwS64 x => Sys2Proof.Machine.execIaddwS64 x s
  | .faddVs x => Sys2Proof.Machine.execFaddVs x s
  | .fsubVs x => Sys2Proof.Machine.execFsubVs x s
  | .fmulVs x => Sys2Proof.Machine.execFmulVs x s
  | .ffmaVs x => Sys2Proof.Machine.execFfmaVs x s
  | .lpick x => Sys2Proof.Machine.execLpick x s
  | .lrot x => Sys2Proof.Machine.execLrot x s
  | .lslide x => Sys2Proof.Machine.execLslide x s
  | .lflip x => Sys2Proof.Machine.execLflip x s
  | .lrev x => Sys2Proof.Machine.execLrev x s
  | .lfoldIaddS32 x => Sys2Proof.Machine.execLfoldIaddS32 x s
  | .lfoldIminS32 x => Sys2Proof.Machine.execLfoldIminS32 x s
  | .lfoldImaxS32 x => Sys2Proof.Machine.execLfoldImaxS32 x s
  | .lfoldFaddF32 x => Sys2Proof.Machine.execLfoldFaddF32 x s
  | .lfoldIminN32 x => Sys2Proof.Machine.execLfoldIminN32 x s
  | .lfoldImaxN32 x => Sys2Proof.Machine.execLfoldImaxN32 x s
  | .lfoldFminF32 x => Sys2Proof.Machine.execLfoldFminF32 x s
  | .lfoldFmaxF32 x => Sys2Proof.Machine.execLfoldFmaxF32 x s
  | .lfoldAndB32 x => Sys2Proof.Machine.execLfoldAndB32 x s
  | .lfoldOrB32 x => Sys2Proof.Machine.execLfoldOrB32 x s
  | .lfoldXorB32 x => Sys2Proof.Machine.execLfoldXorB32 x s
  | .lpreIaddS32 x => Sys2Proof.Machine.execLpreIaddS32 x s
  | .lpreIminS32 x => Sys2Proof.Machine.execLpreIminS32 x s
  | .lpreImaxS32 x => Sys2Proof.Machine.execLpreImaxS32 x s
  | .lpreFaddF32 x => Sys2Proof.Machine.execLpreFaddF32 x s
  | .lprexIaddS32 x => Sys2Proof.Machine.execLprexIaddS32 x s
  | .lprexIminS32 x => Sys2Proof.Machine.execLprexIminS32 x s
  | .lprexImaxS32 x => Sys2Proof.Machine.execLprexImaxS32 x s
  | .lprexFaddF32 x => Sys2Proof.Machine.execLprexFaddF32 x s
  | .pmask x => Sys2Proof.Machine.execPmask x s
  | .pcount x => Sys2Proof.Machine.execPcount x s
  | .pfirst x => Sys2Proof.Machine.execPfirst x s
  | .pparity x => Sys2Proof.Machine.execPparity x s
  | .lpeersB32 x => Sys2Proof.Machine.execLpeersB32 x s
  | .lpeersB64 x => Sys2Proof.Machine.execLpeersB64 x s
  | .lrankB32 x => Sys2Proof.Machine.execLrankB32 x s
  | .lrankB64 x => Sys2Proof.Machine.execLrankB64 x s
  | .lsameB32 x => Sys2Proof.Machine.execLsameB32 x s
  | .lsameB64 x => Sys2Proof.Machine.execLsameB64 x s
  | .movsRead g d k sa => Sys2Proof.Machine.execMovsRead g d k sa s
  | .movsWrite g d k sa => Sys2Proof.Machine.execMovsWrite g d k sa s
  | .bcastB32 g d k => Sys2Proof.Machine.execBcastB32 g d k s
  | .rdlaneB32 g d k n => Sys2Proof.Machine.execRdlaneB32 g d k n s
  | .rdlaneFirstB32 g d k => Sys2Proof.Machine.execRdlaneFirstB32 g d k s
  | .sIadd x => Sys2Proof.Machine.execSIadd x s
  | .sIsub x => Sys2Proof.Machine.execSIsub x s
  | .sImulLo x => Sys2Proof.Machine.execSImulLo x s
  | .sImulHiS x => Sys2Proof.Machine.execSImulHiS x s
  | .sImulHiN x => Sys2Proof.Machine.execSImulHiN x s
  | .sIminS x => Sys2Proof.Machine.execSIminS x s
  | .sImaxS x => Sys2Proof.Machine.execSImaxS x s
  | .sIminN x => Sys2Proof.Machine.execSIminN x s
  | .sImaxN x => Sys2Proof.Machine.execSImaxN x s
  | .sAnd x => Sys2Proof.Machine.execSAnd x s
  | .sOr x => Sys2Proof.Machine.execSOr x s
  | .sXor x => Sys2Proof.Machine.execSXor x s
  | .sAndn x => Sys2Proof.Machine.execSAndn x s
  | .sShl x => Sys2Proof.Machine.execSShl x s
  | .sShr x => Sys2Proof.Machine.execSShr x s
  | .sSar x => Sys2Proof.Machine.execSSar x s
  | .sRot x => Sys2Proof.Machine.execSRot x s
  | .sPopc x => Sys2Proof.Machine.execSPopc x s
  | .sClz x => Sys2Proof.Machine.execSClz x s
  | .sCtz x => Sys2Proof.Machine.execSCtz x s
  | .sBrev x => Sys2Proof.Machine.execSBrev x s
  | .sNot x => Sys2Proof.Machine.execSNot x s
  | .sIaddS64 x => Sys2Proof.Machine.execSIaddS64 x s
  | .sIsubS64 x => Sys2Proof.Machine.execSIsubS64 x s
  | .sFadd x => Sys2Proof.Machine.execSFadd x s
  | .sFsub x => Sys2Proof.Machine.execSFsub x s
  | .sFmul x => Sys2Proof.Machine.execSFmul x s
  | .sFfma x => Sys2Proof.Machine.execSFfma x s
  | .sFmin x => Sys2Proof.Machine.execSFmin x s
  | .sFmax x => Sys2Proof.Machine.execSFmax x s
  | .sCvtF32S32 x => Sys2Proof.Machine.execSCvtF32S32 x s
  | .sCvtF32N32 x => Sys2Proof.Machine.execSCvtF32N32 x s
  | .sCvtS32F32 x => Sys2Proof.Machine.execSCvtS32F32 x s
  | .sCvtN32F32 x => Sys2Proof.Machine.execSCvtN32F32 x s
  | .sIcmpS32 x => Sys2Proof.Machine.execSIcmpS32 x s
  | .sIcmpN32 x => Sys2Proof.Machine.execSIcmpN32 x s
  | .sFcmpF32 x => Sys2Proof.Machine.execSFcmpF32 x s
  | .csel x => Sys2Proof.Machine.execCsel x s
  | .sIaddi x => Sys2Proof.Machine.execSIaddi x s
  | .sAndi x => Sys2Proof.Machine.execSAndi x s
  | .sOri x => Sys2Proof.Machine.execSOri x s
  | .sXori x => Sys2Proof.Machine.execSXori x s
  | .sShli x => Sys2Proof.Machine.execSShli x s
  | .sShri x => Sys2Proof.Machine.execSShri x s
  | .sSari x => Sys2Proof.Machine.execSSari x s
  | .sMovi d im => Sys2Proof.Machine.execSMovi d im s
  | .movwZ x => Sys2Proof.Machine.execMovwZ x s
  | .movwS x => Sys2Proof.Machine.execMovwS x s
  | .movwHi x => Sys2Proof.Machine.execMovwHi x s
  | .movwLo x => Sys2Proof.Machine.execMovwLo x s
  | .brAny x => Sys2Proof.Machine.execBrAny x s
  | .brAll x => Sys2Proof.Machine.execBrAll x s
  | .brNone x => Sys2Proof.Machine.execBrNone x s
  | .brUni x => Sys2Proof.Machine.execBrUni x s
  | .brs c sa o => Sys2Proof.Machine.execBrs c sa o s
  | .jmp o => Sys2Proof.Machine.execJmp o s
  | .brx a => Sys2Proof.Machine.execBrx a s
  | .call a l => Sys2Proof.Machine.execCall a l s
  | .ret l => Sys2Proof.Machine.execRet l s
  | .join => Sys2Proof.Machine.execJoin s
  | .waitj p n => Sys2Proof.Machine.execWaitj p n s
  | .push o => Sys2Proof.Machine.execPush o s
  | .pop => Sys2Proof.Machine.execPop s
  | .yield n => Sys2Proof.Machine.execYield n s
  | .exit => Sys2Proof.Machine.execExit s
  | .barc => Sys2Proof.Machine.execBarc s
  | .barpArrive a q => Sys2Proof.Machine.execBarpArrive a q s
  | .barpSync a q => Sys2Proof.Machine.execBarpSync a q s
  | .barpWait a q => Sys2Proof.Machine.execBarpWait a q s
  | .spawn e a => Sys2Proof.Machine.execSpawn e a s
  | .spawnU e a => Sys2Proof.Machine.execSpawnU e a s
  | .launch a c => Sys2Proof.Machine.execLaunch a c s
  | .xpand k sa o => Sys2Proof.Machine.execXpand k sa o s
  | .xnext p => Sys2Proof.Machine.execXnext p s
  | .sred a => Sys2Proof.Machine.execSred a s
  | .sredGet d l => Sys2Proof.Machine.execSredGet d l s
  | .recurse o => Sys2Proof.Machine.execRecurse o s
  | .wkids c d l => Sys2Proof.Machine.execWkids c d l s
  | .wret => Sys2Proof.Machine.execWret s
  | .ldg x => Sys2Proof.Machine.execLdg x s
  | .stg x => Sys2Proof.Machine.execStg x s
  | .lds x => Sys2Proof.Machine.execLds x s
  | .sts x => Sys2Proof.Machine.execSts x s
  | .ldc g d o z l => Sys2Proof.Machine.execLdc g d o z l s
  | .prefClu g o b => Sys2Proof.Machine.execPrefClu g o b s
  | .prefHome g o b => Sys2Proof.Machine.execPrefHome g o b s
  | .atomAddS32 x => Sys2Proof.Machine.execAtomAddS32 x s
  | .atomFaddF32 x => Sys2Proof.Machine.execAtomFaddF32 x s
  | .atomMinS32 x => Sys2Proof.Machine.execAtomMinS32 x s
  | .atomMaxS32 x => Sys2Proof.Machine.execAtomMaxS32 x s
  | .atomAndB32 x => Sys2Proof.Machine.execAtomAndB32 x s
  | .atomOrB32 x => Sys2Proof.Machine.execAtomOrB32 x s
  | .atomXchgB32 x => Sys2Proof.Machine.execAtomXchgB32 x s
  | .atomCasB32 x => Sys2Proof.Machine.execAtomCasB32 x s
  | .atomAddN64 x => Sys2Proof.Machine.execAtomAddN64 x s
  | .redAddS32 x => Sys2Proof.Machine.execRedAddS32 x s
  | .redFaddF32 x => Sys2Proof.Machine.execRedFaddF32 x s
  | .redAddN64 x => Sys2Proof.Machine.execRedAddN64 x s
  | .ldAcqB32 x => Sys2Proof.Machine.execLdAcqB32 x s
  | .stRelB32 x => Sys2Proof.Machine.execStRelB32 x s
  | .scAddS32 x => Sys2Proof.Machine.execScAddS32 x s
  | .scCasB32 x => Sys2Proof.Machine.execScCasB32 x s
  | .atomAddS32Scr x => Sys2Proof.Machine.execAtomAddS32Scr x s
  | .atomFaddF32Scr x => Sys2Proof.Machine.execAtomFaddF32Scr x s
  | .atomMinS32Scr x => Sys2Proof.Machine.execAtomMinS32Scr x s
  | .atomMaxS32Scr x => Sys2Proof.Machine.execAtomMaxS32Scr x s
  | .atomAndB32Scr x => Sys2Proof.Machine.execAtomAndB32Scr x s
  | .atomOrB32Scr x => Sys2Proof.Machine.execAtomOrB32Scr x s
  | .atomXchgB32Scr x => Sys2Proof.Machine.execAtomXchgB32Scr x s
  | .atomCasB32Scr x => Sys2Proof.Machine.execAtomCasB32Scr x s
  | .atomAddN64Scr x => Sys2Proof.Machine.execAtomAddN64Scr x s
  | .redAddS32Scr x => Sys2Proof.Machine.execRedAddS32Scr x s
  | .redFaddF32Scr x => Sys2Proof.Machine.execRedFaddF32Scr x s
  | .redAddN64Scr x => Sys2Proof.Machine.execRedAddN64Scr x s
  | .ldAcqB32Scr x => Sys2Proof.Machine.execLdAcqB32Scr x s
  | .stRelB32Scr x => Sys2Proof.Machine.execStRelB32Scr x s
  | .fence sa => Sys2Proof.Machine.execFence sa s
  | .xfence sa a b => Sys2Proof.Machine.execXfence sa a b s
  | .watchB32 c a b => Sys2Proof.Machine.execWatchB32 c a b s
  | .watchB64 c a b => Sys2Proof.Machine.execWatchB64 c a b s
  | .watchCancel => Sys2Proof.Machine.execWatchCancel s
  | .waitc sa d t => Sys2Proof.Machine.execWaitc sa d t s
  | .copy b => Sys2Proof.Machine.execCopy b s
  | .copyZero b => Sys2Proof.Machine.execCopyZero b s
  | .gather b => Sys2Proof.Machine.execGather b s
  | .scatter b => Sys2Proof.Machine.execScatter b s
  | .scatterAdd b => Sys2Proof.Machine.execScatterAdd b s
  | .mloop x => Sys2Proof.Machine.execMloop x s
  | .mloopSm b c k => Sys2Proof.Machine.execMloopSm b c k s
  | .mloopPro x => Sys2Proof.Machine.execMloopPro x s
  | .mloopGrp x => Sys2Proof.Machine.execMloopGrp x s
  | .tidset a n => Sys2Proof.Machine.execTidset a n s
  | .tidget j d n => Sys2Proof.Machine.execTidget j d n s
  | .aalloc n c => Sys2Proof.Machine.execAalloc n c s
  | .afree n c => Sys2Proof.Machine.execAfree n c s
  | .agetAcc x => Sys2Proof.Machine.execAgetAcc x s
  | .agetM x => Sys2Proof.Machine.execAgetM x s
  | .agetL x => Sys2Proof.Machine.execAgetL x s
  | .fclaim b => Sys2Proof.Machine.execFclaim b s
  | .chain c e => Sys2Proof.Machine.execChain c e s
  | .chwait sa c n => Sys2Proof.Machine.execChwait sa c n s
  | .collAllred b g => Sys2Proof.Machine.execCollAllred b g s
  | .collRedsc b g => Sys2Proof.Machine.execCollRedsc b g s
  | .collAllgat b g => Sys2Proof.Machine.execCollAllgat b g s
  | .collBcast b g => Sys2Proof.Machine.execCollBcast b g s
  | .svc d a n => Sys2Proof.Machine.execSvc d a n s
  | .escal n => Sys2Proof.Machine.execEscal n s
  | .brk n => Sys2Proof.Machine.execBrk n s
  | .dfold a => Sys2Proof.Machine.execDfold a s
  | .lmark a n => Sys2Proof.Machine.execLmark a n s
  | .hintImm h => Sys2Proof.Machine.execHintImm h s
  | .hintMod e m sa o b c l => Sys2Proof.Machine.execHintMod e m sa o b c l s
  | .hintGuard n => Sys2Proof.Machine.execHintGuard n s
  | .hintSched y u => Sys2Proof.Machine.execHintSched y u s
  | .hintRep c d a b => Sys2Proof.Machine.execHintRep c d a b s
  | .hintNop t => Sys2Proof.Machine.execHintNop t s
  | .dpair im r j sa => Sys2Proof.Machine.execDpair im r j sa s
  | .dpairSingle im r => Sys2Proof.Machine.execDpairSingle im r s
  | .instructionFetchFault w => Sys2Proof.Machine.execInstructionFetchFault w s
  | .resultWriteback w ord => Sys2Proof.Machine.execResultWriteback w ord s
  | .winzeGroupStart co => Sys2Proof.Machine.execWinzeGroupStart co s
  | .chainEntryRead k => Sys2Proof.Machine.execChainEntryRead k s
  | .walkerHandover k => Sys2Proof.Machine.execWalkerHandover k s
  | .nodeStart n => Sys2Proof.Machine.execNodeStart n s
  | .deviceLaunchAccept n => Sys2Proof.Machine.execDeviceLaunchAccept n s
  | .nodeComplete n => Sys2Proof.Machine.execNodeComplete n s
  | .nodePublish n => Sys2Proof.Machine.execNodePublish n s
  | .cohortDispatch l die => Sys2Proof.Machine.execCohortDispatch l die s
  | .windowEnd l die => Sys2Proof.Machine.execWindowEnd l die s
  | .taskGroupDispatch die l e => Sys2Proof.Machine.execTaskGroupDispatch die l e s
  | .cradleAgeExpiry die l e => Sys2Proof.Machine.execCradleAgeExpiry die l e s
  | .matrixEngineRun cell => Sys2Proof.Machine.execMatrixEngineRun cell s
  | .copyEngineRun id => Sys2Proof.Machine.execCopyEngineRun id s
  | .gatherUnitRun id => Sys2Proof.Machine.execGatherUnitRun id s
  | .collectiveEngineRun id peers => Sys2Proof.Machine.execCollectiveEngineRun id peers s
  | .commandComplete id => Sys2Proof.Machine.execCommandComplete id s
  | .homeSliceRequest r => Sys2Proof.Machine.execHomeSliceRequest r s
  | .clusterAtomicApply k r => Sys2Proof.Machine.execClusterAtomicApply k r s
  | .monitorPoll w => Sys2Proof.Machine.execMonitorPoll w s
  | .waitcWake w => Sys2Proof.Machine.execWaitcWake w s
  | .waitcTimeout w => Sys2Proof.Machine.execWaitcTimeout w s
  | .waitjTimeout w => Sys2Proof.Machine.execWaitjTimeout w s
  | .fenceComplete w => Sys2Proof.Machine.execFenceComplete w s
  | .scTicketGrant sys => Sys2Proof.Machine.execScTicketGrant sys s
  | .epochEnd co => Sys2Proof.Machine.execEpochEnd co s
  | .orderedApply l => Sys2Proof.Machine.execOrderedApply l s
  | .orderStall l => Sys2Proof.Machine.execOrderStall l s
  | .replayScStall l => Sys2Proof.Machine.execReplayScStall l s
  | .orderedCellWaitStall l die => Sys2Proof.Machine.execOrderedCellWaitStall l die s
  | .dirtyWritebackDeadline k line => Sys2Proof.Machine.execDirtyWritebackDeadline k line s
  | .llsUpdate cell => Sys2Proof.Machine.execLlsUpdate cell s
  | .splitBoost w => Sys2Proof.Machine.execSplitBoost w s
  | .yieldPauseEnd w => Sys2Proof.Machine.execYieldPauseEnd w s
  | .quantumEnd cell => Sys2Proof.Machine.execQuantumEnd cell s
  | .temperatureCheck die temps => Sys2Proof.Machine.execTemperatureCheck die temps s
  | .thermalMove die hot => Sys2Proof.Machine.execThermalMove die hot s
  | .accumulatorGrant cell => Sys2Proof.Machine.execAccumulatorGrant cell s
  | .pageWalk k root va => Sys2Proof.Machine.execPageWalk k root va s
  | .agentFaultService n discard => Sys2Proof.Machine.execAgentFaultService n discard s
  | .svcReply w v => Sys2Proof.Machine.execSvcReply w v s
  | .handlerBudgetSpent co gi => Sys2Proof.Machine.execHandlerBudgetSpent co gi s
  | .preemptRequest die v => Sys2Proof.Machine.execPreemptRequest die v s
  | .cohortSave co => Sys2Proof.Machine.execCohortSave co s
  | .cohortRestore co => Sys2Proof.Machine.execCohortRestore co s
  | .eccUncorrectedCell co lost => Sys2Proof.Machine.execEccUncorrectedCell co lost s
  | .csmodeWrite k hi v => Sys2Proof.Machine.execCsmodeWrite k hi v s
  | .bankModeChangeDone k bank => Sys2Proof.Machine.execBankModeChangeDone k bank s
  | .rrcWrite die n v => Sys2Proof.Machine.execRrcWrite die n v s
  | .qcfgWrite cell q v => Sys2Proof.Machine.execQcfgWrite cell q v s
  | .translationInvalidate v => Sys2Proof.Machine.execTranslationInvalidate v s
  | .invalidationComplete => Sys2Proof.Machine.execInvalidationComplete s
  | .ctxpoolPush die c v => Sys2Proof.Machine.execCtxpoolPush die c v s
  | .extpoolPush die v => Sys2Proof.Machine.execExtpoolPush die v s
  | .hostAppend f j v => Sys2Proof.Machine.execHostAppend f j v s
  | .hostWindowRead f off n => Sys2Proof.Machine.execHostWindowRead f off n s
  | .hostWindowWrite f off bytes => Sys2Proof.Machine.execHostWindowWrite f off bytes s
  | .watchpointWrite k n ctl v => Sys2Proof.Machine.execWatchpointWrite k n ctl v s
  | .clusterStop k => Sys2Proof.Machine.execClusterStop k s
  | .loupeGo k => Sys2Proof.Machine.execLoupeGo k s
  | .loupeSave k => Sys2Proof.Machine.execLoupeSave k s
  | .loupeStep k v => Sys2Proof.Machine.execLoupeStep k v s
  | .assayLogConfig die off v => Sys2Proof.Machine.execAssayLogConfig die off v s
  | .faceterLogResume die => Sys2Proof.Machine.execFaceterLogResume die s
  | .vdStop n => Sys2Proof.Machine.execVdStop n s
  | .vdStopDone => Sys2Proof.Machine.execVdStopDone s
  | .vdResume n => Sys2Proof.Machine.execVdResume n s
  | .linkLaneForce p => Sys2Proof.Machine.execLinkLaneForce p s
  | .linkLaneFailure p lane => Sys2Proof.Machine.execLinkLaneFailure p lane s
  | .linkPortDown p => Sys2Proof.Machine.execLinkPortDown p s
  | .linkRequestTimeout w => Sys2Proof.Machine.execLinkRequestTimeout w s
  | .attestationRequest v => Sys2Proof.Machine.execAttestationRequest v s
  | .cellFence c => Sys2Proof.Machine.execCellFence c s
  | .sliceSpare n => Sys2Proof.Machine.execSliceSpare n s
  | .hbmChannelSpare n => Sys2Proof.Machine.execHbmChannelSpare n s
  | .cellFenceLift c => Sys2Proof.Machine.execCellFenceLift c s
  | .linkLaneRepair n => Sys2Proof.Machine.execLinkLaneRepair n s
  | .repairComplete => Sys2Proof.Machine.execRepairComplete s
  | .powerLimitReached block => Sys2Proof.Machine.execPowerLimitReached block s
  | .registerWrite m off v => Sys2Proof.Machine.execRegisterWrite m off v s
  | .moduleReset => Sys2Proof.Machine.execModuleReset s
  | .mainPowerChange on => Sys2Proof.Machine.execMainPowerChange on s
  | .mctpControl msg => Sys2Proof.Machine.execMctpControl msg s
  | .pldmPlatformMonitor msg => Sys2Proof.Machine.execPldmPlatformMonitor msg s
  | .pldmFirmwareUpdate image whole => Sys2Proof.Machine.execPldmFirmwareUpdate image whole s
  | .aditRegisterRead off => Sys2Proof.Machine.execAditRegisterRead off s
  | .aditRegisterWrite off v => Sys2Proof.Machine.execAditRegisterWrite off v s
  | .getVersion => Sys2Proof.Machine.execGetVersion s
  | .getCapabilities => Sys2Proof.Machine.execGetCapabilities s
  | .negotiateAlgorithms => Sys2Proof.Machine.execNegotiateAlgorithms s
  | .getMeasurements index => Sys2Proof.Machine.execGetMeasurements index s
  | .vendorDefinedRequest nonce xfer => Sys2Proof.Machine.execVendorDefinedRequest nonce xfer s
  | .chunkGet => Sys2Proof.Machine.execChunkGet s
  | .encodingNotAnInstruction w => Sys2Proof.Machine.execEncodingNotAnInstruction w s
  | .linkPortUp p => Sys2Proof.Machine.execLinkPortUp p s
  | .requestRetry src seq => Sys2Proof.Machine.execRequestRetry src seq s

end Sys2Proof.Machine
end

