-- ==== Sys2Proof/Machine/Agenda.lean ====
section
/-! DEFINITION. What happens next: the issue of a split, an event on the agenda, or an event that the agents have ready. -/
namespace Sys2Proof.Machine

/-! ### Issue (05, 07 R116; 23 R320) -/

/-- What the Loupe's step of a group does after an issue: the word is one of a chain or a pair, and its target follows; or
the split could not issue, and the next ready one tries; or the step has ended, be it with the end of the cohort (23 R320). -/
def State.afterStep (s t : State) (w : Who) : State :=
  match t.group? w.co w.gi with
  | none => if (s.group? w.co w.gi).any fun g => g.stepped then t.orReg (lstat (((s.cohort? w.co).bind s.clusterOf).getD 0)) 4 else t
  | some g =>
    if !g.stepped then t
    else
      let len (u : State) : Nat × Bool := ((u.split? w).map fun x => (x.chain.length, x.codes.isEmpty)).getD (0, true)
      if (len s).1 < (len t).1 || ((len s).2 && !(len t).2) then { t with pick := some w }
      else if t.stalled.contains w then
        match (t.cohort? w.co).map fun c => t.stepReady c w.gi with
        | some (v :: _) => { t with pick := some v }
        | _ => t.stepEnd w true
      else t.stepEnd w false

/-- The outcome of an issue, with what a step of the Loupe adds. -/
def stepped? (s : State) (w : Who) : Host.Outcome State Fault Refusal → Host.Outcome State Fault Refusal
  | .next t => .next (s.afterStep t w)
  | .fault f => .fault f
  | .refused r => .refused r

/-- The split issues its next word: the decoded instruction, or the trap that stands in its place. -/
noncomputable def State.issueWord (s : State) (w : Who) : Host.Outcome State Fault Refusal :=
  let s1 := { s with focus := some w }
  match s1.ctx? with
  | none => .next s
  | some c => match s.nextWord c with
    | .fault _ => exec (.instructionFetchFault w) s1
    | .trap x t => .next ((s1.keepFetch c).raise c x t)
    | .word x => match decode x with
      | .ok i => exec i (s1.keepFetch c)
      | .error _ => exec (.encodingNotAnInstruction (BitVec.ofNat 32 x)) (s1.keepFetch c)

/-- A split could not issue its next word: it would wait for a register or for room (07 R116). -/
noncomputable def State.blocked (s : State) (w : Who) : Bool := match s.issueWord w with
  | .next t => t.stalled.contains w
  | _ => false

/-- The outcome of a step, with the starvation counts that the step leaves (07 R116). -/
noncomputable def starving (s : State) (issuer : Option Who) : Host.Outcome State Fault Refusal → Host.Outcome State Fault Refusal
  | .next t => .next (s.starveFrom t issuer s.blocked)
  | .fault f => .fault f
  | .refused r => .refused r

/-- A split issues. -/
noncomputable def State.issueNext (s : State) (w : Who) : Host.Outcome State Fault Refusal :=
  starving s (some w) (stepped? s w (s.issueWord w))

/-- An event happens. -/
noncomputable def State.happen (s : State) (e : Instr) : Host.Outcome State Fault Refusal := starving s none (exec e s)

/-! ### Events of the module's own agents (log entry 1) -/

/-- Events of splits. -/
noncomputable def State.splitEvents (s : State) : List Instr := s.whos.flatMap fun w => match s.split? w with
  | none => []
  | some x => if !x.live then [] else
    (x.windows.map fun v => Instr.resultWriteback w v.ord) ++
    [.monitorPoll w, .waitcWake w, .waitcTimeout w, .waitjTimeout w, .fenceComplete w, .splitBoost w, .yieldPauseEnd w, .linkRequestTimeout w]

/-- A saved cohort's restore is tried: not while the service of its escalation has decided nothing, not for a block already
refused. -/
def State.triesRestore (s : State) (c : Cohort) : Bool := (s.waveOf c).all fun d => match d.status with
  | .saved n _ => (n != 5 || s.outcomeOf d != 0) && !s.signals.contains (.restoreRefused d.ctx)
  | .held => s.outcomeOf d != 0
  | _ => false

/-- Events of cohorts and groups. -/
noncomputable def State.cohortEvents (s : State) : List Instr := s.cohorts.flatMap fun c => List.flatten [
  [.winzeGroupStart c.id, .epochEnd c.id, .cohortSave c.id], if s.triesRestore c then [.cohortRestore c.id] else [],
  (List.range c.groups.length).map fun i => .handlerBudgetSpent c.id i]

/-- Events of chains, launches and Cradles. -/
noncomputable def State.workEvents (s : State) : List Instr := List.flatten [
  (List.range s.chains.length).flatMap fun k => [.chainEntryRead k, .walkerHandover k],
  (List.range s.nodes.length).flatMap fun n => [.nodeStart n, .nodeComplete n, .nodePublish n],
  (List.range s.offers.length).map fun n => .deviceLaunchAccept n,
  s.launches.flatMap fun l => List.flatten [[.orderedApply l.num, .orderStall l.num, .replayScStall l.num],
    match l.cid with
    | some i => [.commandComplete i]
    | none => [],
    l.shares.flatMap fun sh => [.cohortDispatch l.num sh.die, .windowEnd l.num sh.die, .orderedCellWaitStall l.num sh.die]],
  s.cradle.flatMap fun p => (p.2.map fun i => (i.launch, i.entry)).eraseDups.flatMap fun q =>
    [.taskGroupDispatch p.1 q.1 q.2, .cradleAgeExpiry p.1 q.1 q.2]]

/-- Events of engines and of the memory side. -/
noncomputable def State.engineEvents (s : State) : List Instr := List.flatten [
  s.cmds.flatMap fun m => [.copyEngineRun m.id, .gatherUnitRun m.id, .commandComplete m.id],
  (s.cmds.filter fun m => m.eng == .matrix).filterMap fun m => (s.cmdCo m).map fun c => .matrixEngineRun (s.engCell c),
  s.cohorts.map fun c => .accumulatorGrant (s.engCell c),
  [.scTicketGrant false, .scTicketGrant true],
  s.clusters.flatMap fun p => List.flatten [p.2.lines.map fun l => .dirtyWritebackDeadline p.1 l.key,
    p.2.change.map fun q => .bankModeChangeDone p.1 q.1]]

/-- A wait that stands behind another of its agent is served when that one has gone (13 R357). -/
def State.waitDue (s : State) (n : Nat) : Bool := match s.waits[n]? with
  | none => false
  | some w => w.code == 0 && !(s.waits.take n).any fun v => v.act.target == w.act.target && v.root == w.root

/-- Events of cells, dies and the hub. -/
noncomputable def State.hubEvents (s : State) : List Instr := List.flatten [
  s.cells.flatMap fun p => [.llsUpdate p.1, .quantumEnd p.1], s.hot.map fun c => .thermalMove (c / 128) c,
  (List.range 4).map fun d => .faceterLogResume d,
  ((List.range s.waits.length).filter s.waitDue).map fun n => .agentFaultService n false,
  [.invalidationComplete, .vdStopDone, .repairComplete]]

/-- An event changes the module now. -/
noncomputable def State.happens (s : State) (e : Instr) : Bool := match exec e s with
  | .next t => decide (t ≠ s)
  | _ => false

/-- Events that the agents of the module have ready. What comes from outside (the host, the Adit port, a Headframe core's
service, errors, temperatures, other modules) comes by the agenda alone. -/
noncomputable def State.events (s : State) : List Instr :=
  (s.splitEvents ++ s.cohortEvents ++ s.workEvents ++ s.engineEvents ++ s.hubEvents).filter s.happens

/-! ### The default order -/

/-- Nothing can happen: time passes, and splits that could not issue may try again. -/
noncomputable def State.idle (s : State) : State := s.starveFrom { s.tick with stalled := [] } none s.blocked

/-- One of n, by a free value (log entry 1). -/
def State.choose (s : State) (n : Nat) : Nat × State := if n ≤ 1 then (0, s) else
  let (f, s1) := s.draw
  (f % n, s1)

/-- The time at which an event happens: now, or when what it waits for has passed. -/
noncomputable def State.timeOf (s : State) (e : Instr) : Nat := match exec e s with
  | .next t => t.time
  | _ => s.time

/-- The default order: some scheduler's choice, or some agent's event that happens now; which of them is a free value. With
none of these, time goes on to the earliest event. -/
noncomputable def State.someNext (s : State) : Host.Outcome State Fault Refusal :=
  let ws := s.choices
  let es := s.events
  let now := es.filter fun e => decide (s.timeOf e ≤ s.time)
  let first := es.filter fun e => es.all fun d => decide (s.timeOf e ≤ s.timeOf d)
  let later := if ws.isEmpty && now.isEmpty then first else now
  let (i, s1) := s.choose (ws.length + later.length)
  match ws[i]? with
  | some w => s1.issueNext w
  | none => match later[i - ws.length]? with
    | some e => s1.happen e
    | none => .next s1.idle

end Sys2Proof.Machine
end

