-- ==== Sys2Proof/Machine/Step.lean ====
section
/-! DEFINITION. One step of the module. -/
namespace Sys2Proof.Machine

/-- What would happen next: the event at the head of the agenda; else the picked split, when it is ready, issues; else the default order
(log entry 1). -/
noncomputable def State.upNext (s : State) : Host.Outcome State Fault Refusal :=
  match s.agenda with
  | e :: t => if e.isWord then .next { s with agenda := t } else { s with agenda := t }.happen e
  | [] =>
    match s.pick with
    | some w => if s.ready w then { s with pick := none }.issueNext w else { s with pick := none }.someNext
    | none => s.someNext

/-- What may not wait until a time: a dirty line's write-back (13 R182), and the next latency level of a cell that has counted anything
(07 R117). -/
noncomputable def State.overdue (s : State) (t : Nat) : Option Instr :=
  match s.clusters.findSome? fun p => (p.2.lines.find? fun l => l.isDirty && decide (s.lineDue l < t)).map fun l => (p.1, l.key) with
  | some (k, n) => some (.dirtyWritebackDeadline k n)
  | none => (s.cells.find? fun p => !p.2.quiet && decide (p.2.llsAt + 256 < t)).map fun p => .llsUpdate p.1

/-- One step: what would happen next; where time would pass the end of a period that the module keeps, what falls due in it happens
instead, and the rest stands. -/
noncomputable def step (s : State) : Host.Outcome State Fault Refusal :=
  match s.upNext with
  | .next t => match s.overdue t.time with
    | some e => s.happen e
    | none => .next t
  | o => o

/-- The launch header that `withFetchWord` loads (07 Table 7.1): one dimension of 32, ENTRY `pc`, 4 KiB of scratch, RB 16,
and the code-density mode. -/
def loadHeader (pc : Nat) (dict : Bool) : BitVec 1024 :=
  BitVec.ofNat 1024 (1 + (if dict then 2 ^ 10 else 0) + 2 ^ 12 + 2 ^ 16 + 4 * 2 ^ 32 + pc * 2 ^ 64 + 31 * 2 ^ 128 + 5 * 2 ^ 192 +
    2 ^ 234 + 4096 * 2 ^ 576 + 16 * 2 ^ 640)

/-- The cohort that `withFetchWord` makes resident: one group of 32 lanes, with a body at `pc`. -/
def loadCohort (id pc : Nat) (dict : Bool) : Cohort where
  id := id
  launch := some 0
  kind := .cut
  hdr := loadHeader pc dict
  root := .hf
  die := 0
  lcell := 0
  cseq := 0
  org := [0]
  ext := [32]
  vol := 32
  wave := 1
  ngroups := 1
  groups := [{ index := 0, slot := 0, role := 0, budget := 16, valid := BitVec.allOnes 32,
               iids := (List.range 32).filterMap fun l => if l = 0 then none else some (l, BitVec.ofNat 64 l),
               splits := [{ live := true, pc := BitVec.ofNat 56 pc, mask := BitVec.allOnes 32 }, {}, {}, {}] }]
  z := 4096

/-- The launch that the cohort belongs to. -/
def loadLaunch (pc : Nat) (dict : Bool) : Launch where
  num := 0
  hdr := loadHeader pc dict
  haddr := 0
  root := .hf
  ltag := 0
  node := none
  shares := [{ die := 0, base := 0, len := 32, running := 1 }]

/-- Page tables at physical 0, 4096 and 8192 that map the first GiB to itself, readable, writable and executable
(13 Table 13.6); the word goes to address 65536. -/
def loadMem (w : Nat) : List (Nat × List Byte) :=
  [(0, bytesOf 8 (1 + 4096)), (4096, bytesOf 8 (1 + 8192)), (8192, bytesOf 8 (1 + 2 + 32 + 64)), (65536, bytesOf 4 w)]

/-- The state with an instruction where `step` fetches next: a launch body of one cohort, as if loaded (log entry 17). -/
def State.withFetchWord (s : State) (nbits w : Nat) : State :=
  let x := w % 2 ^ nbits
  let dict := decide (2 ^ 31 ≤ x)
  let s1 := (loadMem x).foldl (fun s p => s.rawWrite p.1 p.2) (s.setReg 0x0B00 0)
  { s1 with cohorts := [loadCohort 0 65536 dict], nextCohort := 1, launches := [loadLaunch 65536 dict], nextLaunch := 1,
            agenda := [], pick := some ⟨0, 0, 0⟩, stalled := [] }

end Sys2Proof.Machine
end

