-- ==== Sys2Proof/Laws/PerInstr.lean ====
section
/-! SUPPORT. Decoding an encoded instruction gives it back: one lemma per layout of a word's fields, one per constructor. -/
namespace Sys2Proof.Laws
open Sys2Proof

/-- Decoding the word of a well-formed instruction gives the instruction back. -/
def RoundTrip.Statement (i : Instr) : Prop := i.isWord = true → i.wf = true → encode i < 2 ^ 32 ∧ decode (encode i) = .ok i

theorem bf_eq {w lo n : Nat} {x : BitVec n} (h : fld w lo n = x.toNat) : bf w lo n = x := by
  rw [bf, h, BitVec.ofNat_toNat, BitVec.setWidth_eq]

theorem fld_of_bf {w lo n : Nat} {x : BitVec n} (h : bf w lo n = x) : fld w lo n = x.toNat := by
  rw [← h, bf, BitVec.toNat_ofNat, Nat.mod_eq_of_lt]
  exact Nat.mod_lt _ (Nat.two_pow_pos n)

/-- A word from its fields, widths and values, lowest first. -/
def pack : List (Nat × Nat) → Nat
  | [] => 0
  | (n, v) :: l => v + 2 ^ n * pack l

/-- Every field is within its width. -/
def Fit : List (Nat × Nat) → Prop
  | [] => True
  | (n, v) :: l => v < 2 ^ n ∧ Fit l

def widths : List (Nat × Nat) → Nat
  | [] => 0
  | (n, _) :: l => n + widths l

theorem pack_lt : ∀ {l : List (Nat × Nat)}, Fit l → pack l < 2 ^ widths l
  | [], _ => by decide
  | (n, v) :: l, h => by
    have h1 : v + 2 ^ n * pack l < 2 ^ n * (pack l + 1) := by rw [Nat.mul_add, Nat.mul_one]; have := h.1; omega
    have h2 : 2 ^ n * (pack l + 1) ≤ 2 ^ n * 2 ^ widths l := Nat.mul_le_mul_left _ (pack_lt h.2)
    rw [← Nat.pow_add] at h2
    exact Nat.lt_of_lt_of_le h1 h2

/-- A field is read back at its place. -/
theorem fld_pack {lo n v : Nat} : ∀ (l : List (Nat × Nat)) (i : Nat), Fit l → l[i]? = some (n, v) → widths (l.take i) = lo →
    fld (pack l) lo n = v
  | [], _, _, h, _ => by simp at h
  | (m, u) :: l, 0, hf, h, hl => by
    simp only [List.getElem?_cons_zero, Option.some.injEq, Prod.mk.injEq] at h
    obtain ⟨rfl, rfl⟩ := h
    subst hl
    simp only [List.take_zero, pack, widths, fld, Nat.pow_zero, Nat.div_one]
    rw [Nat.add_mul_mod_self_left, Nat.mod_eq_of_lt hf.1]
  | (m, u) :: l, i + 1, hf, h, hl => by
    have ih := fld_pack l i hf.2 (by simpa using h) rfl
    subst hl
    simp only [List.take_succ_cons, pack, widths, fld] at ih ⊢
    rw [Nat.pow_add, ← Nat.div_div_eq_div_mul, Nat.add_mul_div_left _ _ (Nat.two_pow_pos m), Nat.div_eq_of_lt hf.1, Nat.zero_add]
    exact ih

theorem decode_of {w : Nat} {i : Instr} (hw : w < 2 ^ 32) (hr : rawDecode w = some i) (hf : i.wf = true) :
    w < 2 ^ 32 ∧ decode w = .ok i := by
  refine ⟨hw, ?_⟩
  rw [decode, Nat.mod_eq_of_lt hw, hr]
  simp [hf]

theorem raw00 {w : Nat} (h : fld w 25 7 = 0x00) : rawDecode w = decode00 w := by unfold rawDecode; rw [h]; rfl
theorem raw01 {w : Nat} (h : fld w 25 7 = 0x01) : rawDecode w = decode01 w := by unfold rawDecode; rw [h]; rfl
theorem raw02 {w : Nat} (h : fld w 25 7 = 0x02) : rawDecode w = decode02 w := by unfold rawDecode; rw [h]; rfl
theorem raw03 {w : Nat} (h : fld w 25 7 = 0x03) : rawDecode w = decode03 w := by unfold rawDecode; rw [h]; rfl
theorem raw04 {w : Nat} (h : fld w 25 7 = 0x04) : rawDecode w = decode04 w := by unfold rawDecode; rw [h]; rfl
theorem raw05 {w : Nat} (h : fld w 25 7 = 0x05) : rawDecode w = decode05 w := by unfold rawDecode; rw [h]; rfl
theorem raw06 {w : Nat} (h : fld w 25 7 = 0x06) : rawDecode w = decode06 w := by unfold rawDecode; rw [h]; rfl
theorem raw07 {w : Nat} (h : fld w 25 7 = 0x07) : rawDecode w = decode07 w := by unfold rawDecode; rw [h]; rfl
theorem raw08 {w : Nat} (h : fld w 25 7 = 0x08) : rawDecode w = decode08 w := by unfold rawDecode; rw [h]; rfl
theorem raw09 {w : Nat} (h : fld w 25 7 = 0x09) : rawDecode w = decode09 w := by unfold rawDecode; rw [h]; rfl
theorem raw0A {w : Nat} (h : fld w 25 7 = 0x0A) : rawDecode w = decode0A w := by unfold rawDecode; rw [h]; rfl
theorem raw0B {w : Nat} (h : fld w 25 7 = 0x0B) : rawDecode w = decode0B w := by unfold rawDecode; rw [h]; rfl
theorem raw0C {w : Nat} (h : fld w 25 7 = 0x0C) : rawDecode w = decode0C w := by unfold rawDecode; rw [h]; rfl
theorem raw0D {w : Nat} (h : fld w 25 7 = 0x0D) : rawDecode w = decode0D w := by unfold rawDecode; rw [h]; rfl
theorem raw0E {w : Nat} (h : fld w 25 7 = 0x0E) : rawDecode w = decode0E w := by unfold rawDecode; rw [h]; rfl
theorem raw0F {w : Nat} (h : fld w 25 7 = 0x0F) : rawDecode w = decode0F w := by unfold rawDecode; rw [h]; rfl
theorem raw10 {w : Nat} (h : fld w 25 7 = 0x10) : rawDecode w = decode10 w := by unfold rawDecode; rw [h]; rfl
theorem raw11 {w : Nat} (h : fld w 25 7 = 0x11) : rawDecode w = decode11 w := by unfold rawDecode; rw [h]; rfl
theorem raw12 {w : Nat} (h : fld w 25 7 = 0x12) : rawDecode w = decode12 w := by unfold rawDecode; rw [h]; rfl
theorem raw13 {w : Nat} (h : fld w 25 7 = 0x13) : rawDecode w = decode13 w := by unfold rawDecode; rw [h]; rfl
theorem raw14 {w : Nat} (h : fld w 25 7 = 0x14) : rawDecode w = decode14 w := by unfold rawDecode; rw [h]; rfl
theorem raw15 {w : Nat} (h : fld w 25 7 = 0x15) : rawDecode w = decode15 w := by unfold rawDecode; rw [h]; rfl
theorem raw16 {w : Nat} (h : fld w 25 7 = 0x16) : rawDecode w = decode16 w := by unfold rawDecode; rw [h]; rfl
theorem raw17 {w : Nat} (h : fld w 25 7 = 0x17) : rawDecode w = decode17 w := by unfold rawDecode; rw [h]; rfl
theorem raw18 {w : Nat} (h : fld w 25 7 = 0x18) : rawDecode w = decode18 w := by unfold rawDecode; rw [h]; rfl
theorem raw19 {w : Nat} (h : fld w 25 7 = 0x19) : rawDecode w = decode19 w := by unfold rawDecode; rw [h]; rfl
theorem raw1A {w : Nat} (h : fld w 25 7 = 0x1A) : rawDecode w = decode1A w := by unfold rawDecode; rw [h]; rfl
theorem raw1B {w : Nat} (h : fld w 25 7 = 0x1B) : rawDecode w = decode1B w := by unfold rawDecode; rw [h]; rfl
theorem raw1C {w : Nat} (h : fld w 25 7 = 0x1C) : rawDecode w = decode1C w := by unfold rawDecode; rw [h]; rfl
theorem raw1D {w : Nat} (h : fld w 25 7 = 0x1D) : rawDecode w = decode1D w := by unfold rawDecode; rw [h]; rfl
theorem raw1E {w : Nat} (h : fld w 25 7 = 0x1E) : rawDecode w = decode1E w := by unfold rawDecode; rw [h]; rfl
theorem raw1F {w : Nat} (h : fld w 25 7 = 0x1F) : rawDecode w = decode1F w := by unfold rawDecode; rw [h]; rfl
theorem raw20 {w : Nat} (h : fld w 25 7 = 0x20) : rawDecode w = decode20 w := by unfold rawDecode; rw [h]; rfl
theorem raw21 {w : Nat} (h : fld w 25 7 = 0x21) : rawDecode w = decode21 w := by unfold rawDecode; rw [h]; rfl
theorem raw22 {w : Nat} (h : fld w 25 7 = 0x22) : rawDecode w = decode22 w := by unfold rawDecode; rw [h]; rfl
theorem raw23 {w : Nat} (h : fld w 25 7 = 0x23) : rawDecode w = decode23 w := by unfold rawDecode; rw [h]; rfl
theorem raw28 {w : Nat} (h : fld w 25 7 = 0x28) : rawDecode w = decode28 w := by unfold rawDecode; rw [h]; rfl
theorem raw29 {w : Nat} (h : fld w 25 7 = 0x29) : rawDecode w = decode29 w := by unfold rawDecode; rw [h]; rfl
theorem raw2A {w : Nat} (h : fld w 25 7 = 0x2A) : rawDecode w = decode2A w := by unfold rawDecode; rw [h]; rfl
theorem raw2B {w : Nat} (h : fld w 25 7 = 0x2B) : rawDecode w = decode2B w := by unfold rawDecode; rw [h]; rfl
theorem raw2C {w : Nat} (h : fld w 25 7 = 0x2C) : rawDecode w = decode2C w := by unfold rawDecode; rw [h]; rfl
theorem raw2D {w : Nat} (h : fld w 25 7 = 0x2D) : rawDecode w = decode2D w := by unfold rawDecode; rw [h]; rfl
theorem raw2E {w : Nat} (h : fld w 25 7 = 0x2E) : rawDecode w = decode2E w := by unfold rawDecode; rw [h]; rfl
theorem raw2F {w : Nat} (h : fld w 25 7 = 0x2F) : rawDecode w = decode2F w := by unfold rawDecode; rw [h]; rfl
theorem raw30 {w : Nat} (h : fld w 25 7 = 0x30) : rawDecode w = decode30 w := by unfold rawDecode; rw [h]; rfl
theorem raw31 {w : Nat} (h : fld w 25 7 = 0x31) : rawDecode w = decode31 w := by unfold rawDecode; rw [h]; rfl
theorem raw32 {w : Nat} (h : fld w 25 7 = 0x32) : rawDecode w = decode32 w := by unfold rawDecode; rw [h]; rfl
theorem raw33 {w : Nat} (h : fld w 25 7 = 0x33) : rawDecode w = decode33 w := by unfold rawDecode; rw [h]; rfl
theorem raw34 {w : Nat} (h : fld w 25 7 = 0x34) : rawDecode w = decode34 w := by unfold rawDecode; rw [h]; rfl
theorem raw35 {w : Nat} (h : fld w 25 7 = 0x35) : rawDecode w = decode35 w := by unfold rawDecode; rw [h]; rfl
theorem raw36 {w : Nat} (h : fld w 25 7 = 0x36) : rawDecode w = decode36 w := by unfold rawDecode; rw [h]; rfl
theorem raw37 {w : Nat} (h : fld w 25 7 = 0x37) : rawDecode w = decode37 w := by unfold rawDecode; rw [h]; rfl
theorem raw38 {w : Nat} (h : fld w 25 7 = 0x38) : rawDecode w = decode38 w := by unfold rawDecode; rw [h]; rfl
theorem raw39 {w : Nat} (h : fld w 25 7 = 0x39) : rawDecode w = decode39 w := by unfold rawDecode; rw [h]; rfl
theorem raw3A {w : Nat} (h : fld w 25 7 = 0x3A) : rawDecode w = decode3A w := by unfold rawDecode; rw [h]; rfl
theorem raw3B {w : Nat} (h : fld w 25 7 = 0x3B) : rawDecode w = decode3B w := by unfold rawDecode; rw [h]; rfl
theorem raw3C {w : Nat} (h : fld w 25 7 = 0x3C) : rawDecode w = decode3C w := by unfold rawDecode; rw [h]; rfl
theorem raw3D {w : Nat} (h : fld w 25 7 = 0x3D) : rawDecode w = decode3D w := by unfold rawDecode; rw [h]; rfl
theorem raw3E {w : Nat} (h : fld w 25 7 = 0x3E) : rawDecode w = decode3E w := by unfold rawDecode; rw [h]; rfl
theorem raw3F {w : Nat} (h : fld w 25 7 = 0x3F) : rawDecode w = decode3F w := by unfold rawDecode; rw [h]; rfl

theorem rawPair {w : Nat} (h : 64 ≤ fld w 25 7) : rawDecode w = decodePair w := by
  have h2 : fld w 25 7 < 128 := by unfold fld; omega
  unfold rawDecode
  split <;> first | omega | simp [h, h2]

theorem layout0 {w k m g0 : Nat} {x0 : BitVec 3} {x1 : BitVec 7} {x2 : BitVec 7} {x3 : BitVec 7}
    (hw : k + x0.toNat * 2 ^ 22 + x1.toNat * 2 ^ 15 + x2.toNat * 2 ^ 8 + x3.toNat * 2 ^ 1 = w) (hk : k = m * 2 ^ 25 + g0) (hm : m < 2 ^ 7) (hg0 : g0 < 2 ^ 1) :
    w < 2 ^ 32 ∧ fld w 25 7 = m ∧ bf w 22 3 = x0 ∧ bf w 15 7 = x1 ∧ bf w 8 7 = x2 ∧ bf w 1 7 = x3 ∧ fld w 0 1 = g0 := by
  have e : w = pack [(1, g0), (7, x3.toNat), (7, x2.toNat), (7, x1.toNat), (3, x0.toNat), (7, m)] := by simp only [pack]; omega
  rw [e]
  have hf : Fit [(1, g0), (7, x3.toNat), (7, x2.toNat), (7, x1.toNat), (3, x0.toNat), (7, m)] := ⟨hg0, x3.isLt, x2.isLt, x1.isLt, x0.isLt, hm, trivial⟩
  exact ⟨pack_lt hf, fld_pack _ 5 hf rfl rfl, bf_eq (fld_pack _ 4 hf rfl rfl), bf_eq (fld_pack _ 3 hf rfl rfl), bf_eq (fld_pack _ 2 hf rfl rfl), bf_eq (fld_pack _ 1 hf rfl rfl), fld_pack _ 0 hf rfl rfl⟩

theorem layout1 {w k m  : Nat} {x0 : BitVec 3} {x1 : BitVec 3} {x2 : BitVec 3} {x3 : BitVec 7} {x4 : BitVec 7} {x5 : BitVec 2}
    (hw : k + x0.toNat * 2 ^ 22 + x1.toNat * 2 ^ 19 + x2.toNat * 2 ^ 16 + x3.toNat * 2 ^ 9 + x4.toNat * 2 ^ 2 + x5.toNat = w) (hk : k = m * 2 ^ 25) (hm : m < 2 ^ 7) :
    w < 2 ^ 32 ∧ fld w 25 7 = m ∧ bf w 22 3 = x0 ∧ bf w 19 3 = x1 ∧ bf w 16 3 = x2 ∧ bf w 9 7 = x3 ∧ bf w 2 7 = x4 ∧ bf w 0 2 = x5 := by
  have e : w = pack [(2, x5.toNat), (7, x4.toNat), (7, x3.toNat), (3, x2.toNat), (3, x1.toNat), (3, x0.toNat), (7, m)] := by simp only [pack]; omega
  rw [e]
  have hf : Fit [(2, x5.toNat), (7, x4.toNat), (7, x3.toNat), (3, x2.toNat), (3, x1.toNat), (3, x0.toNat), (7, m)] := ⟨x5.isLt, x4.isLt, x3.isLt, x2.isLt, x1.isLt, x0.isLt, hm, trivial⟩
  exact ⟨pack_lt hf, fld_pack _ 6 hf rfl rfl, bf_eq (fld_pack _ 5 hf rfl rfl), bf_eq (fld_pack _ 4 hf rfl rfl), bf_eq (fld_pack _ 3 hf rfl rfl), bf_eq (fld_pack _ 2 hf rfl rfl), bf_eq (fld_pack _ 1 hf rfl rfl), bf_eq (fld_pack _ 0 hf rfl rfl)⟩

theorem layout2 {w k m g0 g1 : Nat} {x0 : BitVec 3} {x1 : BitVec 3} {x2 : BitVec 3} {x3 : BitVec 3} {x4 : BitVec 3} {x5 : BitVec 2}
    (hw : k + x0.toNat * 2 ^ 22 + x1.toNat * 2 ^ 19 + x2.toNat * 2 ^ 16 + x3.toNat * 2 ^ 9 + x4.toNat * 2 ^ 2 + x5.toNat = w) (hk : k = m * 2 ^ 25 + g0 * 2 ^ 12 + g1 * 2 ^ 5) (hm : m < 2 ^ 7) (hg0 : g0 < 2 ^ 4) (hg1 : g1 < 2 ^ 4) :
    w < 2 ^ 32 ∧ fld w 25 7 = m ∧ bf w 22 3 = x0 ∧ bf w 19 3 = x1 ∧ bf w 16 3 = x2 ∧ bf w 9 3 = x3 ∧ bf w 2 3 = x4 ∧ bf w 0 2 = x5 ∧ fld w 12 4 = g0 ∧ fld w 5 4 = g1 := by
  have e : w = pack [(2, x5.toNat), (3, x4.toNat), (4, g1), (3, x3.toNat), (4, g0), (3, x2.toNat), (3, x1.toNat), (3, x0.toNat), (7, m)] := by simp only [pack]; omega
  rw [e]
  have hf : Fit [(2, x5.toNat), (3, x4.toNat), (4, g1), (3, x3.toNat), (4, g0), (3, x2.toNat), (3, x1.toNat), (3, x0.toNat), (7, m)] := ⟨x5.isLt, x4.isLt, hg1, x3.isLt, hg0, x2.isLt, x1.isLt, x0.isLt, hm, trivial⟩
  exact ⟨pack_lt hf, fld_pack _ 8 hf rfl rfl, bf_eq (fld_pack _ 7 hf rfl rfl), bf_eq (fld_pack _ 6 hf rfl rfl), bf_eq (fld_pack _ 5 hf rfl rfl), bf_eq (fld_pack _ 3 hf rfl rfl), bf_eq (fld_pack _ 1 hf rfl rfl), bf_eq (fld_pack _ 0 hf rfl rfl), fld_pack _ 4 hf rfl rfl, fld_pack _ 2 hf rfl rfl⟩

theorem layout3 {w k m  : Nat} {x0 : BitVec 3} {x1 : BitVec 7} {x2 : BitVec 7} {x3 : BitVec 8}
    (hw : k + x0.toNat * 2 ^ 22 + x1.toNat * 2 ^ 15 + x2.toNat * 2 ^ 8 + x3.toNat = w) (hk : k = m * 2 ^ 25) (hm : m < 2 ^ 7) :
    w < 2 ^ 32 ∧ fld w 25 7 = m ∧ bf w 22 3 = x0 ∧ bf w 15 7 = x1 ∧ bf w 8 7 = x2 ∧ bf w 0 8 = x3 := by
  have e : w = pack [(8, x3.toNat), (7, x2.toNat), (7, x1.toNat), (3, x0.toNat), (7, m)] := by simp only [pack]; omega
  rw [e]
  have hf : Fit [(8, x3.toNat), (7, x2.toNat), (7, x1.toNat), (3, x0.toNat), (7, m)] := ⟨x3.isLt, x2.isLt, x1.isLt, x0.isLt, hm, trivial⟩
  exact ⟨pack_lt hf, fld_pack _ 4 hf rfl rfl, bf_eq (fld_pack _ 3 hf rfl rfl), bf_eq (fld_pack _ 2 hf rfl rfl), bf_eq (fld_pack _ 1 hf rfl rfl), bf_eq (fld_pack _ 0 hf rfl rfl)⟩

theorem layout4 {w k m g0 : Nat} {x0 : BitVec 3} {x1 : BitVec 7} {x2 : BitVec 7} {x3 : BitVec 5}
    (hw : k + x0.toNat * 2 ^ 22 + x1.toNat * 2 ^ 15 + x2.toNat * 2 ^ 8 + x3.toNat = w) (hk : k = m * 2 ^ 25 + g0 * 2 ^ 5) (hm : m < 2 ^ 7) (hg0 : g0 < 2 ^ 3) :
    w < 2 ^ 32 ∧ fld w 25 7 = m ∧ bf w 22 3 = x0 ∧ bf w 15 7 = x1 ∧ bf w 8 7 = x2 ∧ bf w 0 5 = x3 ∧ fld w 5 3 = g0 := by
  have e : w = pack [(5, x3.toNat), (3, g0), (7, x2.toNat), (7, x1.toNat), (3, x0.toNat), (7, m)] := by simp only [pack]; omega
  rw [e]
  have hf : Fit [(5, x3.toNat), (3, g0), (7, x2.toNat), (7, x1.toNat), (3, x0.toNat), (7, m)] := ⟨x3.isLt, hg0, x2.isLt, x1.isLt, x0.isLt, hm, trivial⟩
  exact ⟨pack_lt hf, fld_pack _ 5 hf rfl rfl, bf_eq (fld_pack _ 4 hf rfl rfl), bf_eq (fld_pack _ 3 hf rfl rfl), bf_eq (fld_pack _ 2 hf rfl rfl), bf_eq (fld_pack _ 0 hf rfl rfl), fld_pack _ 1 hf rfl rfl⟩

theorem layout5 {w k m g0 : Nat} {x0 : BitVec 3} {x1 : BitVec 7} {x2 : BitVec 8}
    (hw : k + x0.toNat * 2 ^ 22 + x1.toNat * 2 ^ 15 + x2.toNat = w) (hk : k = m * 2 ^ 25 + g0 * 2 ^ 8) (hm : m < 2 ^ 7) (hg0 : g0 < 2 ^ 7) :
    w < 2 ^ 32 ∧ fld w 25 7 = m ∧ bf w 22 3 = x0 ∧ bf w 15 7 = x1 ∧ bf w 0 8 = x2 ∧ fld w 8 7 = g0 := by
  have e : w = pack [(8, x2.toNat), (7, g0), (7, x1.toNat), (3, x0.toNat), (7, m)] := by simp only [pack]; omega
  rw [e]
  have hf : Fit [(8, x2.toNat), (7, g0), (7, x1.toNat), (3, x0.toNat), (7, m)] := ⟨x2.isLt, hg0, x1.isLt, x0.isLt, hm, trivial⟩
  exact ⟨pack_lt hf, fld_pack _ 4 hf rfl rfl, bf_eq (fld_pack _ 3 hf rfl rfl), bf_eq (fld_pack _ 2 hf rfl rfl), bf_eq (fld_pack _ 0 hf rfl rfl), fld_pack _ 1 hf rfl rfl⟩

theorem layout6 {w k m  : Nat} {x0 : BitVec 3} {x1 : BitVec 7} {x2 : BitVec 7} {x3 : BitVec 4} {x4 : BitVec 4}
    (hw : k + x0.toNat * 2 ^ 22 + x1.toNat * 2 ^ 15 + x2.toNat * 2 ^ 8 + x3.toNat * 2 ^ 4 + x4.toNat = w) (hk : k = m * 2 ^ 25) (hm : m < 2 ^ 7) :
    w < 2 ^ 32 ∧ fld w 25 7 = m ∧ bf w 22 3 = x0 ∧ bf w 15 7 = x1 ∧ bf w 8 7 = x2 ∧ bf w 4 4 = x3 ∧ bf w 0 4 = x4 := by
  have e : w = pack [(4, x4.toNat), (4, x3.toNat), (7, x2.toNat), (7, x1.toNat), (3, x0.toNat), (7, m)] := by simp only [pack]; omega
  rw [e]
  have hf : Fit [(4, x4.toNat), (4, x3.toNat), (7, x2.toNat), (7, x1.toNat), (3, x0.toNat), (7, m)] := ⟨x4.isLt, x3.isLt, x2.isLt, x1.isLt, x0.isLt, hm, trivial⟩
  exact ⟨pack_lt hf, fld_pack _ 5 hf rfl rfl, bf_eq (fld_pack _ 4 hf rfl rfl), bf_eq (fld_pack _ 3 hf rfl rfl), bf_eq (fld_pack _ 2 hf rfl rfl), bf_eq (fld_pack _ 1 hf rfl rfl), bf_eq (fld_pack _ 0 hf rfl rfl)⟩

theorem layout7 {w k m g0 : Nat} {x0 : BitVec 3} {x1 : BitVec 7} {x2 : BitVec 7}
    (hw : k + x0.toNat * 2 ^ 22 + x1.toNat * 2 ^ 15 + x2.toNat * 2 ^ 8 = w) (hk : k = m * 2 ^ 25 + g0) (hm : m < 2 ^ 7) (hg0 : g0 < 2 ^ 8) :
    w < 2 ^ 32 ∧ fld w 25 7 = m ∧ bf w 22 3 = x0 ∧ bf w 15 7 = x1 ∧ bf w 8 7 = x2 ∧ fld w 0 8 = g0 := by
  have e : w = pack [(8, g0), (7, x2.toNat), (7, x1.toNat), (3, x0.toNat), (7, m)] := by simp only [pack]; omega
  rw [e]
  have hf : Fit [(8, g0), (7, x2.toNat), (7, x1.toNat), (3, x0.toNat), (7, m)] := ⟨hg0, x2.isLt, x1.isLt, x0.isLt, hm, trivial⟩
  exact ⟨pack_lt hf, fld_pack _ 4 hf rfl rfl, bf_eq (fld_pack _ 3 hf rfl rfl), bf_eq (fld_pack _ 2 hf rfl rfl), bf_eq (fld_pack _ 1 hf rfl rfl), fld_pack _ 0 hf rfl rfl⟩

theorem layout8 {w k m g0 : Nat} {x0 : BitVec 3} {x1 : BitVec 7} {x2 : BitVec 7} {x3 : BitVec 6}
    (hw : k + x0.toNat * 2 ^ 22 + x1.toNat * 2 ^ 15 + x2.toNat * 2 ^ 8 + x3.toNat * 2 ^ 2 = w) (hk : k = m * 2 ^ 25 + g0) (hm : m < 2 ^ 7) (hg0 : g0 < 2 ^ 2) :
    w < 2 ^ 32 ∧ fld w 25 7 = m ∧ bf w 22 3 = x0 ∧ bf w 15 7 = x1 ∧ bf w 8 7 = x2 ∧ bf w 2 6 = x3 ∧ fld w 0 2 = g0 := by
  have e : w = pack [(2, g0), (6, x3.toNat), (7, x2.toNat), (7, x1.toNat), (3, x0.toNat), (7, m)] := by simp only [pack]; omega
  rw [e]
  have hf : Fit [(2, g0), (6, x3.toNat), (7, x2.toNat), (7, x1.toNat), (3, x0.toNat), (7, m)] := ⟨hg0, x3.isLt, x2.isLt, x1.isLt, x0.isLt, hm, trivial⟩
  exact ⟨pack_lt hf, fld_pack _ 5 hf rfl rfl, bf_eq (fld_pack _ 4 hf rfl rfl), bf_eq (fld_pack _ 3 hf rfl rfl), bf_eq (fld_pack _ 2 hf rfl rfl), bf_eq (fld_pack _ 1 hf rfl rfl), fld_pack _ 0 hf rfl rfl⟩

theorem layout9 {w k m g0 : Nat} {x0 : BitVec 3} {x1 : BitVec 7} {x2 : BitVec 7} {x3 : BitVec 3} {x4 : BitVec 2}
    (hw : k + x0.toNat * 2 ^ 22 + x1.toNat * 2 ^ 15 + x2.toNat * 2 ^ 8 + x3.toNat * 2 ^ 5 + x4.toNat = w) (hk : k = m * 2 ^ 25 + g0 * 2 ^ 2) (hm : m < 2 ^ 7) (hg0 : g0 < 2 ^ 3) :
    w < 2 ^ 32 ∧ fld w 25 7 = m ∧ bf w 22 3 = x0 ∧ bf w 15 7 = x1 ∧ bf w 8 7 = x2 ∧ bf w 5 3 = x3 ∧ bf w 0 2 = x4 ∧ fld w 2 3 = g0 := by
  have e : w = pack [(2, x4.toNat), (3, g0), (3, x3.toNat), (7, x2.toNat), (7, x1.toNat), (3, x0.toNat), (7, m)] := by simp only [pack]; omega
  rw [e]
  have hf : Fit [(2, x4.toNat), (3, g0), (3, x3.toNat), (7, x2.toNat), (7, x1.toNat), (3, x0.toNat), (7, m)] := ⟨x4.isLt, hg0, x3.isLt, x2.isLt, x1.isLt, x0.isLt, hm, trivial⟩
  exact ⟨pack_lt hf, fld_pack _ 6 hf rfl rfl, bf_eq (fld_pack _ 5 hf rfl rfl), bf_eq (fld_pack _ 4 hf rfl rfl), bf_eq (fld_pack _ 3 hf rfl rfl), bf_eq (fld_pack _ 2 hf rfl rfl), bf_eq (fld_pack _ 0 hf rfl rfl), fld_pack _ 1 hf rfl rfl⟩

theorem layout10 {w k m g0 : Nat} {x0 : BitVec 3} {x1 : BitVec 7} {x2 : BitVec 7} {x3 : BitVec 3}
    (hw : k + x0.toNat * 2 ^ 22 + x1.toNat * 2 ^ 15 + x2.toNat * 2 ^ 8 + x3.toNat * 2 ^ 5 = w) (hk : k = m * 2 ^ 25 + g0) (hm : m < 2 ^ 7) (hg0 : g0 < 2 ^ 5) :
    w < 2 ^ 32 ∧ fld w 25 7 = m ∧ bf w 22 3 = x0 ∧ bf w 15 7 = x1 ∧ bf w 8 7 = x2 ∧ bf w 5 3 = x3 ∧ fld w 0 5 = g0 := by
  have e : w = pack [(5, g0), (3, x3.toNat), (7, x2.toNat), (7, x1.toNat), (3, x0.toNat), (7, m)] := by simp only [pack]; omega
  rw [e]
  have hf : Fit [(5, g0), (3, x3.toNat), (7, x2.toNat), (7, x1.toNat), (3, x0.toNat), (7, m)] := ⟨hg0, x3.isLt, x2.isLt, x1.isLt, x0.isLt, hm, trivial⟩
  exact ⟨pack_lt hf, fld_pack _ 5 hf rfl rfl, bf_eq (fld_pack _ 4 hf rfl rfl), bf_eq (fld_pack _ 3 hf rfl rfl), bf_eq (fld_pack _ 2 hf rfl rfl), bf_eq (fld_pack _ 1 hf rfl rfl), fld_pack _ 0 hf rfl rfl⟩

theorem layout11 {w k m g0 g1 : Nat} {x0 : BitVec 3} {x1 : BitVec 7} {x2 : BitVec 3} {x3 : BitVec 3}
    (hw : k + x0.toNat * 2 ^ 22 + x1.toNat * 2 ^ 15 + x2.toNat * 2 ^ 8 + x3.toNat * 2 ^ 5 = w) (hk : k = m * 2 ^ 25 + g0 * 2 ^ 11 + g1) (hm : m < 2 ^ 7) (hg0 : g0 < 2 ^ 4) (hg1 : g1 < 2 ^ 5) :
    w < 2 ^ 32 ∧ fld w 25 7 = m ∧ bf w 22 3 = x0 ∧ bf w 15 7 = x1 ∧ bf w 8 3 = x2 ∧ bf w 5 3 = x3 ∧ fld w 11 4 = g0 ∧ fld w 0 5 = g1 := by
  have e : w = pack [(5, g1), (3, x3.toNat), (3, x2.toNat), (4, g0), (7, x1.toNat), (3, x0.toNat), (7, m)] := by simp only [pack]; omega
  rw [e]
  have hf : Fit [(5, g1), (3, x3.toNat), (3, x2.toNat), (4, g0), (7, x1.toNat), (3, x0.toNat), (7, m)] := ⟨hg1, x3.isLt, x2.isLt, hg0, x1.isLt, x0.isLt, hm, trivial⟩
  exact ⟨pack_lt hf, fld_pack _ 6 hf rfl rfl, bf_eq (fld_pack _ 5 hf rfl rfl), bf_eq (fld_pack _ 4 hf rfl rfl), bf_eq (fld_pack _ 2 hf rfl rfl), bf_eq (fld_pack _ 1 hf rfl rfl), fld_pack _ 3 hf rfl rfl, fld_pack _ 0 hf rfl rfl⟩

theorem layout12 {w k m  : Nat} {x0 : BitVec 3} {x1 : BitVec 7} {x2 : BitVec 1} {x3 : BitVec 14}
    (hw : k + x0.toNat * 2 ^ 22 + x1.toNat * 2 ^ 15 + x2.toNat * 2 ^ 14 + x3.toNat = w) (hk : k = m * 2 ^ 25) (hm : m < 2 ^ 7) :
    w < 2 ^ 32 ∧ fld w 25 7 = m ∧ bf w 22 3 = x0 ∧ bf w 15 7 = x1 ∧ bf w 14 1 = x2 ∧ bf w 0 14 = x3 := by
  have e : w = pack [(14, x3.toNat), (1, x2.toNat), (7, x1.toNat), (3, x0.toNat), (7, m)] := by simp only [pack]; omega
  rw [e]
  have hf : Fit [(14, x3.toNat), (1, x2.toNat), (7, x1.toNat), (3, x0.toNat), (7, m)] := ⟨x3.isLt, x2.isLt, x1.isLt, x0.isLt, hm, trivial⟩
  exact ⟨pack_lt hf, fld_pack _ 4 hf rfl rfl, bf_eq (fld_pack _ 3 hf rfl rfl), bf_eq (fld_pack _ 2 hf rfl rfl), bf_eq (fld_pack _ 1 hf rfl rfl), bf_eq (fld_pack _ 0 hf rfl rfl)⟩

theorem layout13 {w k m g0 : Nat} {x0 : BitVec 3} {x1 : BitVec 7} {x2 : BitVec 1} {x3 : BitVec 12}
    (hw : k + x0.toNat * 2 ^ 22 + x1.toNat * 2 ^ 15 + x2.toNat * 2 ^ 14 + x3.toNat = w) (hk : k = m * 2 ^ 25 + g0 * 2 ^ 12) (hm : m < 2 ^ 7) (hg0 : g0 < 2 ^ 2) :
    w < 2 ^ 32 ∧ fld w 25 7 = m ∧ bf w 22 3 = x0 ∧ bf w 15 7 = x1 ∧ bf w 14 1 = x2 ∧ bf w 0 12 = x3 ∧ fld w 12 2 = g0 := by
  have e : w = pack [(12, x3.toNat), (2, g0), (1, x2.toNat), (7, x1.toNat), (3, x0.toNat), (7, m)] := by simp only [pack]; omega
  rw [e]
  have hf : Fit [(12, x3.toNat), (2, g0), (1, x2.toNat), (7, x1.toNat), (3, x0.toNat), (7, m)] := ⟨x3.isLt, hg0, x2.isLt, x1.isLt, x0.isLt, hm, trivial⟩
  exact ⟨pack_lt hf, fld_pack _ 5 hf rfl rfl, bf_eq (fld_pack _ 4 hf rfl rfl), bf_eq (fld_pack _ 3 hf rfl rfl), bf_eq (fld_pack _ 2 hf rfl rfl), bf_eq (fld_pack _ 0 hf rfl rfl), fld_pack _ 1 hf rfl rfl⟩

theorem layout14 {w k m g0 : Nat} {x0 : BitVec 3} {x1 : BitVec 7} {x2 : BitVec 6}
    (hw : k + x0.toNat * 2 ^ 22 + x1.toNat * 2 ^ 15 + x2.toNat = w) (hk : k = m * 2 ^ 25 + g0 * 2 ^ 6) (hm : m < 2 ^ 7) (hg0 : g0 < 2 ^ 9) :
    w < 2 ^ 32 ∧ fld w 25 7 = m ∧ bf w 22 3 = x0 ∧ bf w 15 7 = x1 ∧ bf w 0 6 = x2 ∧ fld w 6 9 = g0 := by
  have e : w = pack [(6, x2.toNat), (9, g0), (7, x1.toNat), (3, x0.toNat), (7, m)] := by simp only [pack]; omega
  rw [e]
  have hf : Fit [(6, x2.toNat), (9, g0), (7, x1.toNat), (3, x0.toNat), (7, m)] := ⟨x2.isLt, hg0, x1.isLt, x0.isLt, hm, trivial⟩
  exact ⟨pack_lt hf, fld_pack _ 4 hf rfl rfl, bf_eq (fld_pack _ 3 hf rfl rfl), bf_eq (fld_pack _ 2 hf rfl rfl), bf_eq (fld_pack _ 0 hf rfl rfl), fld_pack _ 1 hf rfl rfl⟩

theorem layout15 {w k m g0 : Nat} {x0 : BitVec 3} {x1 : BitVec 7} {x2 : BitVec 6} {x3 : BitVec 5}
    (hw : k + x0.toNat * 2 ^ 22 + x1.toNat * 2 ^ 15 + x2.toNat * 2 ^ 5 + x3.toNat = w) (hk : k = m * 2 ^ 25 + g0 * 2 ^ 11) (hm : m < 2 ^ 7) (hg0 : g0 < 2 ^ 4) :
    w < 2 ^ 32 ∧ fld w 25 7 = m ∧ bf w 22 3 = x0 ∧ bf w 15 7 = x1 ∧ bf w 5 6 = x2 ∧ bf w 0 5 = x3 ∧ fld w 11 4 = g0 := by
  have e : w = pack [(5, x3.toNat), (6, x2.toNat), (4, g0), (7, x1.toNat), (3, x0.toNat), (7, m)] := by simp only [pack]; omega
  rw [e]
  have hf : Fit [(5, x3.toNat), (6, x2.toNat), (4, g0), (7, x1.toNat), (3, x0.toNat), (7, m)] := ⟨x3.isLt, x2.isLt, hg0, x1.isLt, x0.isLt, hm, trivial⟩
  exact ⟨pack_lt hf, fld_pack _ 5 hf rfl rfl, bf_eq (fld_pack _ 4 hf rfl rfl), bf_eq (fld_pack _ 3 hf rfl rfl), bf_eq (fld_pack _ 1 hf rfl rfl), bf_eq (fld_pack _ 0 hf rfl rfl), fld_pack _ 2 hf rfl rfl⟩

theorem layout16 {w k m g0 g1 : Nat} {x0 : BitVec 3} {x1 : BitVec 7} {x2 : BitVec 6}
    (hw : k + x0.toNat * 2 ^ 22 + x1.toNat * 2 ^ 15 + x2.toNat * 2 ^ 5 = w) (hk : k = m * 2 ^ 25 + g0 * 2 ^ 11 + g1) (hm : m < 2 ^ 7) (hg0 : g0 < 2 ^ 4) (hg1 : g1 < 2 ^ 5) :
    w < 2 ^ 32 ∧ fld w 25 7 = m ∧ bf w 22 3 = x0 ∧ bf w 15 7 = x1 ∧ bf w 5 6 = x2 ∧ fld w 11 4 = g0 ∧ fld w 0 5 = g1 := by
  have e : w = pack [(5, g1), (6, x2.toNat), (4, g0), (7, x1.toNat), (3, x0.toNat), (7, m)] := by simp only [pack]; omega
  rw [e]
  have hf : Fit [(5, g1), (6, x2.toNat), (4, g0), (7, x1.toNat), (3, x0.toNat), (7, m)] := ⟨hg1, x2.isLt, hg0, x1.isLt, x0.isLt, hm, trivial⟩
  exact ⟨pack_lt hf, fld_pack _ 5 hf rfl rfl, bf_eq (fld_pack _ 4 hf rfl rfl), bf_eq (fld_pack _ 3 hf rfl rfl), bf_eq (fld_pack _ 1 hf rfl rfl), fld_pack _ 2 hf rfl rfl, fld_pack _ 0 hf rfl rfl⟩

theorem layout17 {w k m g0 g1 : Nat} {x0 : BitVec 6} {x1 : BitVec 6} {x2 : BitVec 6}
    (hw : k + x0.toNat * 2 ^ 16 + x1.toNat * 2 ^ 10 + x2.toNat * 2 ^ 4 = w) (hk : k = m * 2 ^ 25 + g0 * 2 ^ 22 + g1) (hm : m < 2 ^ 7) (hg0 : g0 < 2 ^ 3) (hg1 : g1 < 2 ^ 4) :
    w < 2 ^ 32 ∧ fld w 25 7 = m ∧ bf w 16 6 = x0 ∧ bf w 10 6 = x1 ∧ bf w 4 6 = x2 ∧ fld w 22 3 = g0 ∧ fld w 0 4 = g1 := by
  have e : w = pack [(4, g1), (6, x2.toNat), (6, x1.toNat), (6, x0.toNat), (3, g0), (7, m)] := by simp only [pack]; omega
  rw [e]
  have hf : Fit [(4, g1), (6, x2.toNat), (6, x1.toNat), (6, x0.toNat), (3, g0), (7, m)] := ⟨hg1, x2.isLt, x1.isLt, x0.isLt, hg0, hm, trivial⟩
  exact ⟨pack_lt hf, fld_pack _ 5 hf rfl rfl, bf_eq (fld_pack _ 3 hf rfl rfl), bf_eq (fld_pack _ 2 hf rfl rfl), bf_eq (fld_pack _ 1 hf rfl rfl), fld_pack _ 4 hf rfl rfl, fld_pack _ 0 hf rfl rfl⟩

theorem layout18 {w k m g0 g1 : Nat} {x0 : BitVec 6} {x1 : BitVec 6}
    (hw : k + x0.toNat * 2 ^ 16 + x1.toNat * 2 ^ 10 = w) (hk : k = m * 2 ^ 25 + g0 * 2 ^ 22 + g1) (hm : m < 2 ^ 7) (hg0 : g0 < 2 ^ 3) (hg1 : g1 < 2 ^ 10) :
    w < 2 ^ 32 ∧ fld w 25 7 = m ∧ bf w 16 6 = x0 ∧ bf w 10 6 = x1 ∧ fld w 22 3 = g0 ∧ fld w 0 10 = g1 := by
  have e : w = pack [(10, g1), (6, x1.toNat), (6, x0.toNat), (3, g0), (7, m)] := by simp only [pack]; omega
  rw [e]
  have hf : Fit [(10, g1), (6, x1.toNat), (6, x0.toNat), (3, g0), (7, m)] := ⟨hg1, x1.isLt, x0.isLt, hg0, hm, trivial⟩
  exact ⟨pack_lt hf, fld_pack _ 4 hf rfl rfl, bf_eq (fld_pack _ 2 hf rfl rfl), bf_eq (fld_pack _ 1 hf rfl rfl), fld_pack _ 3 hf rfl rfl, fld_pack _ 0 hf rfl rfl⟩

theorem layout19 {w k m g0 g1 : Nat} {x0 : BitVec 6} {x1 : BitVec 6} {x2 : BitVec 6} {x3 : BitVec 3}
    (hw : k + x0.toNat * 2 ^ 16 + x1.toNat * 2 ^ 10 + x2.toNat * 2 ^ 4 + x3.toNat = w) (hk : k = m * 2 ^ 25 + g0 * 2 ^ 22 + g1 * 2 ^ 3) (hm : m < 2 ^ 7) (hg0 : g0 < 2 ^ 3) (hg1 : g1 < 2 ^ 1) :
    w < 2 ^ 32 ∧ fld w 25 7 = m ∧ bf w 16 6 = x0 ∧ bf w 10 6 = x1 ∧ bf w 4 6 = x2 ∧ bf w 0 3 = x3 ∧ fld w 22 3 = g0 ∧ fld w 3 1 = g1 := by
  have e : w = pack [(3, x3.toNat), (1, g1), (6, x2.toNat), (6, x1.toNat), (6, x0.toNat), (3, g0), (7, m)] := by simp only [pack]; omega
  rw [e]
  have hf : Fit [(3, x3.toNat), (1, g1), (6, x2.toNat), (6, x1.toNat), (6, x0.toNat), (3, g0), (7, m)] := ⟨x3.isLt, hg1, x2.isLt, x1.isLt, x0.isLt, hg0, hm, trivial⟩
  exact ⟨pack_lt hf, fld_pack _ 6 hf rfl rfl, bf_eq (fld_pack _ 4 hf rfl rfl), bf_eq (fld_pack _ 3 hf rfl rfl), bf_eq (fld_pack _ 2 hf rfl rfl), bf_eq (fld_pack _ 0 hf rfl rfl), fld_pack _ 5 hf rfl rfl, fld_pack _ 1 hf rfl rfl⟩

theorem layout20 {w k m g0 : Nat} {x0 : BitVec 6} {x1 : BitVec 6} {x2 : BitVec 10}
    (hw : k + x0.toNat * 2 ^ 16 + x1.toNat * 2 ^ 10 + x2.toNat = w) (hk : k = m * 2 ^ 25 + g0 * 2 ^ 22) (hm : m < 2 ^ 7) (hg0 : g0 < 2 ^ 3) :
    w < 2 ^ 32 ∧ fld w 25 7 = m ∧ bf w 16 6 = x0 ∧ bf w 10 6 = x1 ∧ bf w 0 10 = x2 ∧ fld w 22 3 = g0 := by
  have e : w = pack [(10, x2.toNat), (6, x1.toNat), (6, x0.toNat), (3, g0), (7, m)] := by simp only [pack]; omega
  rw [e]
  have hf : Fit [(10, x2.toNat), (6, x1.toNat), (6, x0.toNat), (3, g0), (7, m)] := ⟨x2.isLt, x1.isLt, x0.isLt, hg0, hm, trivial⟩
  exact ⟨pack_lt hf, fld_pack _ 4 hf rfl rfl, bf_eq (fld_pack _ 2 hf rfl rfl), bf_eq (fld_pack _ 1 hf rfl rfl), bf_eq (fld_pack _ 0 hf rfl rfl), fld_pack _ 3 hf rfl rfl⟩

theorem layout21 {w k m g0 g1 : Nat} {x0 : BitVec 6} {x1 : BitVec 6} {x2 : BitVec 5}
    (hw : k + x0.toNat * 2 ^ 16 + x1.toNat * 2 ^ 10 + x2.toNat = w) (hk : k = m * 2 ^ 25 + g0 * 2 ^ 22 + g1 * 2 ^ 5) (hm : m < 2 ^ 7) (hg0 : g0 < 2 ^ 3) (hg1 : g1 < 2 ^ 5) :
    w < 2 ^ 32 ∧ fld w 25 7 = m ∧ bf w 16 6 = x0 ∧ bf w 10 6 = x1 ∧ bf w 0 5 = x2 ∧ fld w 22 3 = g0 ∧ fld w 5 5 = g1 := by
  have e : w = pack [(5, x2.toNat), (5, g1), (6, x1.toNat), (6, x0.toNat), (3, g0), (7, m)] := by simp only [pack]; omega
  rw [e]
  have hf : Fit [(5, x2.toNat), (5, g1), (6, x1.toNat), (6, x0.toNat), (3, g0), (7, m)] := ⟨x2.isLt, hg1, x1.isLt, x0.isLt, hg0, hm, trivial⟩
  exact ⟨pack_lt hf, fld_pack _ 5 hf rfl rfl, bf_eq (fld_pack _ 3 hf rfl rfl), bf_eq (fld_pack _ 2 hf rfl rfl), bf_eq (fld_pack _ 0 hf rfl rfl), fld_pack _ 4 hf rfl rfl, fld_pack _ 1 hf rfl rfl⟩

theorem layout22 {w k m g0 g1 : Nat} {x0 : BitVec 6} {x1 : BitVec 10}
    (hw : k + x0.toNat * 2 ^ 16 + x1.toNat = w) (hk : k = m * 2 ^ 25 + g0 * 2 ^ 22 + g1 * 2 ^ 10) (hm : m < 2 ^ 7) (hg0 : g0 < 2 ^ 3) (hg1 : g1 < 2 ^ 6) :
    w < 2 ^ 32 ∧ fld w 25 7 = m ∧ bf w 16 6 = x0 ∧ bf w 0 10 = x1 ∧ fld w 22 3 = g0 ∧ fld w 10 6 = g1 := by
  have e : w = pack [(10, x1.toNat), (6, g1), (6, x0.toNat), (3, g0), (7, m)] := by simp only [pack]; omega
  rw [e]
  have hf : Fit [(10, x1.toNat), (6, g1), (6, x0.toNat), (3, g0), (7, m)] := ⟨x1.isLt, hg1, x0.isLt, hg0, hm, trivial⟩
  exact ⟨pack_lt hf, fld_pack _ 4 hf rfl rfl, bf_eq (fld_pack _ 2 hf rfl rfl), bf_eq (fld_pack _ 0 hf rfl rfl), fld_pack _ 3 hf rfl rfl, fld_pack _ 1 hf rfl rfl⟩

theorem layout23 {w k m g0 : Nat} {x0 : BitVec 6} {x1 : BitVec 16}
    (hw : k + x0.toNat * 2 ^ 16 + x1.toNat = w) (hk : k = m * 2 ^ 25 + g0 * 2 ^ 22) (hm : m < 2 ^ 7) (hg0 : g0 < 2 ^ 3) :
    w < 2 ^ 32 ∧ fld w 25 7 = m ∧ bf w 16 6 = x0 ∧ bf w 0 16 = x1 ∧ fld w 22 3 = g0 := by
  have e : w = pack [(16, x1.toNat), (6, x0.toNat), (3, g0), (7, m)] := by simp only [pack]; omega
  rw [e]
  have hf : Fit [(16, x1.toNat), (6, x0.toNat), (3, g0), (7, m)] := ⟨x1.isLt, x0.isLt, hg0, hm, trivial⟩
  exact ⟨pack_lt hf, fld_pack _ 3 hf rfl rfl, bf_eq (fld_pack _ 1 hf rfl rfl), bf_eq (fld_pack _ 0 hf rfl rfl), fld_pack _ 2 hf rfl rfl⟩

theorem layout24 {w k m g0 : Nat} {x0 : BitVec 3} {x1 : BitVec 20}
    (hw : k + x0.toNat * 2 ^ 22 + x1.toNat = w) (hk : k = m * 2 ^ 25 + g0 * 2 ^ 20) (hm : m < 2 ^ 7) (hg0 : g0 < 2 ^ 2) :
    w < 2 ^ 32 ∧ fld w 25 7 = m ∧ bf w 22 3 = x0 ∧ bf w 0 20 = x1 ∧ fld w 20 2 = g0 := by
  have e : w = pack [(20, x1.toNat), (2, g0), (3, x0.toNat), (7, m)] := by simp only [pack]; omega
  rw [e]
  have hf : Fit [(20, x1.toNat), (2, g0), (3, x0.toNat), (7, m)] := ⟨x1.isLt, hg0, x0.isLt, hm, trivial⟩
  exact ⟨pack_lt hf, fld_pack _ 3 hf rfl rfl, bf_eq (fld_pack _ 2 hf rfl rfl), bf_eq (fld_pack _ 0 hf rfl rfl), fld_pack _ 1 hf rfl rfl⟩

theorem layout25 {w k m  : Nat} {x0 : BitVec 3} {x1 : BitVec 6} {x2 : BitVec 16}
    (hw : k + x0.toNat * 2 ^ 22 + x1.toNat * 2 ^ 16 + x2.toNat = w) (hk : k = m * 2 ^ 25) (hm : m < 2 ^ 7) :
    w < 2 ^ 32 ∧ fld w 25 7 = m ∧ bf w 22 3 = x0 ∧ bf w 16 6 = x1 ∧ bf w 0 16 = x2 := by
  have e : w = pack [(16, x2.toNat), (6, x1.toNat), (3, x0.toNat), (7, m)] := by simp only [pack]; omega
  rw [e]
  have hf : Fit [(16, x2.toNat), (6, x1.toNat), (3, x0.toNat), (7, m)] := ⟨x2.isLt, x1.isLt, x0.isLt, hm, trivial⟩
  exact ⟨pack_lt hf, fld_pack _ 3 hf rfl rfl, bf_eq (fld_pack _ 2 hf rfl rfl), bf_eq (fld_pack _ 1 hf rfl rfl), bf_eq (fld_pack _ 0 hf rfl rfl)⟩

theorem layout26 {w k m g0 : Nat} {x0 : BitVec 16}
    (hw : k + x0.toNat = w) (hk : k = m * 2 ^ 25 + g0 * 2 ^ 16) (hm : m < 2 ^ 7) (hg0 : g0 < 2 ^ 9) :
    w < 2 ^ 32 ∧ fld w 25 7 = m ∧ bf w 0 16 = x0 ∧ fld w 16 9 = g0 := by
  have e : w = pack [(16, x0.toNat), (9, g0), (7, m)] := by simp only [pack]; omega
  rw [e]
  have hf : Fit [(16, x0.toNat), (9, g0), (7, m)] := ⟨x0.isLt, hg0, hm, trivial⟩
  exact ⟨pack_lt hf, fld_pack _ 2 hf rfl rfl, bf_eq (fld_pack _ 0 hf rfl rfl), fld_pack _ 1 hf rfl rfl⟩

theorem layout27 {w k m g0 g1 : Nat} {x0 : BitVec 7}
    (hw : k + x0.toNat * 2 ^ 15 = w) (hk : k = m * 2 ^ 25 + g0 * 2 ^ 22 + g1) (hm : m < 2 ^ 7) (hg0 : g0 < 2 ^ 3) (hg1 : g1 < 2 ^ 15) :
    w < 2 ^ 32 ∧ fld w 25 7 = m ∧ bf w 15 7 = x0 ∧ fld w 22 3 = g0 ∧ fld w 0 15 = g1 := by
  have e : w = pack [(15, g1), (7, x0.toNat), (3, g0), (7, m)] := by simp only [pack]; omega
  rw [e]
  have hf : Fit [(15, g1), (7, x0.toNat), (3, g0), (7, m)] := ⟨hg1, x0.isLt, hg0, hm, trivial⟩
  exact ⟨pack_lt hf, fld_pack _ 3 hf rfl rfl, bf_eq (fld_pack _ 1 hf rfl rfl), fld_pack _ 2 hf rfl rfl, fld_pack _ 0 hf rfl rfl⟩

theorem layout28 {w k m g0 g1 : Nat} {x0 : BitVec 6} {x1 : BitVec 6}
    (hw : k + x0.toNat * 2 ^ 15 + x1.toNat * 2 ^ 9 = w) (hk : k = m * 2 ^ 25 + g0 * 2 ^ 21 + g1) (hm : m < 2 ^ 7) (hg0 : g0 < 2 ^ 4) (hg1 : g1 < 2 ^ 9) :
    w < 2 ^ 32 ∧ fld w 25 7 = m ∧ bf w 15 6 = x0 ∧ bf w 9 6 = x1 ∧ fld w 21 4 = g0 ∧ fld w 0 9 = g1 := by
  have e : w = pack [(9, g1), (6, x1.toNat), (6, x0.toNat), (4, g0), (7, m)] := by simp only [pack]; omega
  rw [e]
  have hf : Fit [(9, g1), (6, x1.toNat), (6, x0.toNat), (4, g0), (7, m)] := ⟨hg1, x1.isLt, x0.isLt, hg0, hm, trivial⟩
  exact ⟨pack_lt hf, fld_pack _ 4 hf rfl rfl, bf_eq (fld_pack _ 2 hf rfl rfl), bf_eq (fld_pack _ 1 hf rfl rfl), fld_pack _ 3 hf rfl rfl, fld_pack _ 0 hf rfl rfl⟩

theorem layout29 {w k m g0 g1 : Nat} {x0 : BitVec 6}
    (hw : k + x0.toNat * 2 ^ 9 = w) (hk : k = m * 2 ^ 25 + g0 * 2 ^ 15 + g1) (hm : m < 2 ^ 7) (hg0 : g0 < 2 ^ 10) (hg1 : g1 < 2 ^ 9) :
    w < 2 ^ 32 ∧ fld w 25 7 = m ∧ bf w 9 6 = x0 ∧ fld w 15 10 = g0 ∧ fld w 0 9 = g1 := by
  have e : w = pack [(9, g1), (6, x0.toNat), (10, g0), (7, m)] := by simp only [pack]; omega
  rw [e]
  have hf : Fit [(9, g1), (6, x0.toNat), (10, g0), (7, m)] := ⟨hg1, x0.isLt, hg0, hm, trivial⟩
  exact ⟨pack_lt hf, fld_pack _ 3 hf rfl rfl, bf_eq (fld_pack _ 1 hf rfl rfl), fld_pack _ 2 hf rfl rfl, fld_pack _ 0 hf rfl rfl⟩

theorem layout30 {w k m g0 : Nat}
    (hw : k = w) (hk : k = m * 2 ^ 25 + g0) (hm : m < 2 ^ 7) (hg0 : g0 < 2 ^ 25) :
    w < 2 ^ 32 ∧ fld w 25 7 = m ∧ fld w 0 25 = g0 := by
  have e : w = pack [(25, g0), (7, m)] := by simp only [pack]; omega
  rw [e]
  have hf : Fit [(25, g0), (7, m)] := ⟨hg0, hm, trivial⟩
  exact ⟨pack_lt hf, fld_pack _ 1 hf rfl rfl, fld_pack _ 0 hf rfl rfl⟩

theorem layout31 {w k m g0 : Nat} {x0 : BitVec 3} {x1 : BitVec 19}
    (hw : k + x0.toNat * 2 ^ 19 + x1.toNat = w) (hk : k = m * 2 ^ 25 + g0 * 2 ^ 22) (hm : m < 2 ^ 7) (hg0 : g0 < 2 ^ 3) :
    w < 2 ^ 32 ∧ fld w 25 7 = m ∧ bf w 19 3 = x0 ∧ bf w 0 19 = x1 ∧ fld w 22 3 = g0 := by
  have e : w = pack [(19, x1.toNat), (3, x0.toNat), (3, g0), (7, m)] := by simp only [pack]; omega
  rw [e]
  have hf : Fit [(19, x1.toNat), (3, x0.toNat), (3, g0), (7, m)] := ⟨x1.isLt, x0.isLt, hg0, hm, trivial⟩
  exact ⟨pack_lt hf, fld_pack _ 3 hf rfl rfl, bf_eq (fld_pack _ 1 hf rfl rfl), bf_eq (fld_pack _ 0 hf rfl rfl), fld_pack _ 2 hf rfl rfl⟩

theorem layout32 {w k m g0 : Nat} {x0 : BitVec 20}
    (hw : k + x0.toNat = w) (hk : k = m * 2 ^ 25 + g0 * 2 ^ 20) (hm : m < 2 ^ 7) (hg0 : g0 < 2 ^ 5) :
    w < 2 ^ 32 ∧ fld w 25 7 = m ∧ bf w 0 20 = x0 ∧ fld w 20 5 = g0 := by
  have e : w = pack [(20, x0.toNat), (5, g0), (7, m)] := by simp only [pack]; omega
  rw [e]
  have hf : Fit [(20, x0.toNat), (5, g0), (7, m)] := ⟨x0.isLt, hg0, hm, trivial⟩
  exact ⟨pack_lt hf, fld_pack _ 2 hf rfl rfl, bf_eq (fld_pack _ 0 hf rfl rfl), fld_pack _ 1 hf rfl rfl⟩

theorem layout33 {w k m g0 : Nat} {x0 : BitVec 10}
    (hw : k + x0.toNat = w) (hk : k = m * 2 ^ 25 + g0 * 2 ^ 10) (hm : m < 2 ^ 7) (hg0 : g0 < 2 ^ 15) :
    w < 2 ^ 32 ∧ fld w 25 7 = m ∧ bf w 0 10 = x0 ∧ fld w 10 15 = g0 := by
  have e : w = pack [(10, x0.toNat), (15, g0), (7, m)] := by simp only [pack]; omega
  rw [e]
  have hf : Fit [(10, x0.toNat), (15, g0), (7, m)] := ⟨x0.isLt, hg0, hm, trivial⟩
  exact ⟨pack_lt hf, fld_pack _ 2 hf rfl rfl, bf_eq (fld_pack _ 0 hf rfl rfl), fld_pack _ 1 hf rfl rfl⟩

theorem layout34 {w k m g0 : Nat} {x0 : BitVec 3} {x1 : BitVec 6} {x2 : BitVec 6}
    (hw : k + x0.toNat * 2 ^ 22 + x1.toNat * 2 ^ 16 + x2.toNat * 2 ^ 10 = w) (hk : k = m * 2 ^ 25 + g0) (hm : m < 2 ^ 7) (hg0 : g0 < 2 ^ 10) :
    w < 2 ^ 32 ∧ fld w 25 7 = m ∧ bf w 22 3 = x0 ∧ bf w 16 6 = x1 ∧ bf w 10 6 = x2 ∧ fld w 0 10 = g0 := by
  have e : w = pack [(10, g0), (6, x2.toNat), (6, x1.toNat), (3, x0.toNat), (7, m)] := by simp only [pack]; omega
  rw [e]
  have hf : Fit [(10, g0), (6, x2.toNat), (6, x1.toNat), (3, x0.toNat), (7, m)] := ⟨hg0, x2.isLt, x1.isLt, x0.isLt, hm, trivial⟩
  exact ⟨pack_lt hf, fld_pack _ 4 hf rfl rfl, bf_eq (fld_pack _ 3 hf rfl rfl), bf_eq (fld_pack _ 2 hf rfl rfl), bf_eq (fld_pack _ 1 hf rfl rfl), fld_pack _ 0 hf rfl rfl⟩

theorem layout35 {w k m g0 : Nat} {x0 : BitVec 3}
    (hw : k + x0.toNat * 2 ^ 22 = w) (hk : k = m * 2 ^ 25 + g0) (hm : m < 2 ^ 7) (hg0 : g0 < 2 ^ 22) :
    w < 2 ^ 32 ∧ fld w 25 7 = m ∧ bf w 22 3 = x0 ∧ fld w 0 22 = g0 := by
  have e : w = pack [(22, g0), (3, x0.toNat), (7, m)] := by simp only [pack]; omega
  rw [e]
  have hf : Fit [(22, g0), (3, x0.toNat), (7, m)] := ⟨hg0, x0.isLt, hm, trivial⟩
  exact ⟨pack_lt hf, fld_pack _ 2 hf rfl rfl, bf_eq (fld_pack _ 1 hf rfl rfl), fld_pack _ 0 hf rfl rfl⟩

theorem layout36 {w k m g0 g1 : Nat} {x0 : BitVec 6}
    (hw : k + x0.toNat * 2 ^ 16 = w) (hk : k = m * 2 ^ 25 + g0 * 2 ^ 22 + g1) (hm : m < 2 ^ 7) (hg0 : g0 < 2 ^ 3) (hg1 : g1 < 2 ^ 16) :
    w < 2 ^ 32 ∧ fld w 25 7 = m ∧ bf w 16 6 = x0 ∧ fld w 22 3 = g0 ∧ fld w 0 16 = g1 := by
  have e : w = pack [(16, g1), (6, x0.toNat), (3, g0), (7, m)] := by simp only [pack]; omega
  rw [e]
  have hf : Fit [(16, g1), (6, x0.toNat), (3, g0), (7, m)] := ⟨hg1, x0.isLt, hg0, hm, trivial⟩
  exact ⟨pack_lt hf, fld_pack _ 3 hf rfl rfl, bf_eq (fld_pack _ 1 hf rfl rfl), fld_pack _ 2 hf rfl rfl, fld_pack _ 0 hf rfl rfl⟩

theorem layout37 {w k m g0 g1 : Nat} {x0 : BitVec 6} {x1 : BitVec 4}
    (hw : k + x0.toNat * 2 ^ 16 + x1.toNat = w) (hk : k = m * 2 ^ 25 + g0 * 2 ^ 22 + g1 * 2 ^ 4) (hm : m < 2 ^ 7) (hg0 : g0 < 2 ^ 3) (hg1 : g1 < 2 ^ 12) :
    w < 2 ^ 32 ∧ fld w 25 7 = m ∧ bf w 16 6 = x0 ∧ bf w 0 4 = x1 ∧ fld w 22 3 = g0 ∧ fld w 4 12 = g1 := by
  have e : w = pack [(4, x1.toNat), (12, g1), (6, x0.toNat), (3, g0), (7, m)] := by simp only [pack]; omega
  rw [e]
  have hf : Fit [(4, x1.toNat), (12, g1), (6, x0.toNat), (3, g0), (7, m)] := ⟨x1.isLt, hg1, x0.isLt, hg0, hm, trivial⟩
  exact ⟨pack_lt hf, fld_pack _ 4 hf rfl rfl, bf_eq (fld_pack _ 2 hf rfl rfl), bf_eq (fld_pack _ 0 hf rfl rfl), fld_pack _ 3 hf rfl rfl, fld_pack _ 1 hf rfl rfl⟩

theorem layout38 {w k m g0 g1 : Nat} {x0 : BitVec 6} {x1 : BitVec 6} {x2 : BitVec 4}
    (hw : k + x0.toNat * 2 ^ 16 + x1.toNat * 2 ^ 10 + x2.toNat = w) (hk : k = m * 2 ^ 25 + g0 * 2 ^ 22 + g1 * 2 ^ 4) (hm : m < 2 ^ 7) (hg0 : g0 < 2 ^ 3) (hg1 : g1 < 2 ^ 6) :
    w < 2 ^ 32 ∧ fld w 25 7 = m ∧ bf w 16 6 = x0 ∧ bf w 10 6 = x1 ∧ bf w 0 4 = x2 ∧ fld w 22 3 = g0 ∧ fld w 4 6 = g1 := by
  have e : w = pack [(4, x2.toNat), (6, g1), (6, x1.toNat), (6, x0.toNat), (3, g0), (7, m)] := by simp only [pack]; omega
  rw [e]
  have hf : Fit [(4, x2.toNat), (6, g1), (6, x1.toNat), (6, x0.toNat), (3, g0), (7, m)] := ⟨x2.isLt, hg1, x1.isLt, x0.isLt, hg0, hm, trivial⟩
  exact ⟨pack_lt hf, fld_pack _ 5 hf rfl rfl, bf_eq (fld_pack _ 3 hf rfl rfl), bf_eq (fld_pack _ 2 hf rfl rfl), bf_eq (fld_pack _ 0 hf rfl rfl), fld_pack _ 4 hf rfl rfl, fld_pack _ 1 hf rfl rfl⟩

theorem layout39 {w k m  : Nat} {x0 : BitVec 3} {x1 : BitVec 7} {x2 : BitVec 7} {x3 : BitVec 2} {x4 : BitVec 2} {x5 : BitVec 4}
    (hw : k + x0.toNat * 2 ^ 22 + x1.toNat * 2 ^ 15 + x2.toNat * 2 ^ 8 + x3.toNat * 2 ^ 6 + x4.toNat * 2 ^ 4 + x5.toNat = w) (hk : k = m * 2 ^ 25) (hm : m < 2 ^ 7) :
    w < 2 ^ 32 ∧ fld w 25 7 = m ∧ bf w 22 3 = x0 ∧ bf w 15 7 = x1 ∧ bf w 8 7 = x2 ∧ bf w 6 2 = x3 ∧ bf w 4 2 = x4 ∧ bf w 0 4 = x5 := by
  have e : w = pack [(4, x5.toNat), (2, x4.toNat), (2, x3.toNat), (7, x2.toNat), (7, x1.toNat), (3, x0.toNat), (7, m)] := by simp only [pack]; omega
  rw [e]
  have hf : Fit [(4, x5.toNat), (2, x4.toNat), (2, x3.toNat), (7, x2.toNat), (7, x1.toNat), (3, x0.toNat), (7, m)] := ⟨x5.isLt, x4.isLt, x3.isLt, x2.isLt, x1.isLt, x0.isLt, hm, trivial⟩
  exact ⟨pack_lt hf, fld_pack _ 6 hf rfl rfl, bf_eq (fld_pack _ 5 hf rfl rfl), bf_eq (fld_pack _ 4 hf rfl rfl), bf_eq (fld_pack _ 3 hf rfl rfl), bf_eq (fld_pack _ 2 hf rfl rfl), bf_eq (fld_pack _ 1 hf rfl rfl), bf_eq (fld_pack _ 0 hf rfl rfl)⟩

theorem layout40 {w k m g0 : Nat} {x0 : BitVec 3} {x1 : BitVec 7} {x2 : BitVec 7} {x3 : BitVec 2} {x4 : BitVec 2}
    (hw : k + x0.toNat * 2 ^ 22 + x1.toNat * 2 ^ 15 + x2.toNat * 2 ^ 8 + x3.toNat * 2 ^ 6 + x4.toNat * 2 ^ 4 = w) (hk : k = m * 2 ^ 25 + g0) (hm : m < 2 ^ 7) (hg0 : g0 < 2 ^ 4) :
    w < 2 ^ 32 ∧ fld w 25 7 = m ∧ bf w 22 3 = x0 ∧ bf w 15 7 = x1 ∧ bf w 8 7 = x2 ∧ bf w 6 2 = x3 ∧ bf w 4 2 = x4 ∧ fld w 0 4 = g0 := by
  have e : w = pack [(4, g0), (2, x4.toNat), (2, x3.toNat), (7, x2.toNat), (7, x1.toNat), (3, x0.toNat), (7, m)] := by simp only [pack]; omega
  rw [e]
  have hf : Fit [(4, g0), (2, x4.toNat), (2, x3.toNat), (7, x2.toNat), (7, x1.toNat), (3, x0.toNat), (7, m)] := ⟨hg0, x4.isLt, x3.isLt, x2.isLt, x1.isLt, x0.isLt, hm, trivial⟩
  exact ⟨pack_lt hf, fld_pack _ 6 hf rfl rfl, bf_eq (fld_pack _ 5 hf rfl rfl), bf_eq (fld_pack _ 4 hf rfl rfl), bf_eq (fld_pack _ 3 hf rfl rfl), bf_eq (fld_pack _ 2 hf rfl rfl), bf_eq (fld_pack _ 1 hf rfl rfl), fld_pack _ 0 hf rfl rfl⟩

theorem layout41 {w k m g0 : Nat} {x0 : BitVec 3} {x1 : BitVec 7} {x2 : BitVec 7} {x3 : BitVec 2} {x4 : BitVec 4}
    (hw : k + x0.toNat * 2 ^ 22 + x1.toNat * 2 ^ 15 + x2.toNat * 2 ^ 8 + x3.toNat * 2 ^ 6 + x4.toNat = w) (hk : k = m * 2 ^ 25 + g0 * 2 ^ 4) (hm : m < 2 ^ 7) (hg0 : g0 < 2 ^ 2) :
    w < 2 ^ 32 ∧ fld w 25 7 = m ∧ bf w 22 3 = x0 ∧ bf w 15 7 = x1 ∧ bf w 8 7 = x2 ∧ bf w 6 2 = x3 ∧ bf w 0 4 = x4 ∧ fld w 4 2 = g0 := by
  have e : w = pack [(4, x4.toNat), (2, g0), (2, x3.toNat), (7, x2.toNat), (7, x1.toNat), (3, x0.toNat), (7, m)] := by simp only [pack]; omega
  rw [e]
  have hf : Fit [(4, x4.toNat), (2, g0), (2, x3.toNat), (7, x2.toNat), (7, x1.toNat), (3, x0.toNat), (7, m)] := ⟨x4.isLt, hg0, x3.isLt, x2.isLt, x1.isLt, x0.isLt, hm, trivial⟩
  exact ⟨pack_lt hf, fld_pack _ 6 hf rfl rfl, bf_eq (fld_pack _ 5 hf rfl rfl), bf_eq (fld_pack _ 4 hf rfl rfl), bf_eq (fld_pack _ 3 hf rfl rfl), bf_eq (fld_pack _ 2 hf rfl rfl), bf_eq (fld_pack _ 0 hf rfl rfl), fld_pack _ 1 hf rfl rfl⟩

theorem layout42 {w k m g0 g1 g2 : Nat} {x0 : BitVec 3} {x1 : BitVec 7} {x2 : BitVec 2}
    (hw : k + x0.toNat * 2 ^ 22 + x1.toNat * 2 ^ 8 + x2.toNat * 2 ^ 4 = w) (hk : k = m * 2 ^ 25 + g0 * 2 ^ 15 + g1 * 2 ^ 6 + g2) (hm : m < 2 ^ 7) (hg0 : g0 < 2 ^ 7) (hg1 : g1 < 2 ^ 2) (hg2 : g2 < 2 ^ 4) :
    w < 2 ^ 32 ∧ fld w 25 7 = m ∧ bf w 22 3 = x0 ∧ bf w 8 7 = x1 ∧ bf w 4 2 = x2 ∧ fld w 15 7 = g0 ∧ fld w 6 2 = g1 ∧ fld w 0 4 = g2 := by
  have e : w = pack [(4, g2), (2, x2.toNat), (2, g1), (7, x1.toNat), (7, g0), (3, x0.toNat), (7, m)] := by simp only [pack]; omega
  rw [e]
  have hf : Fit [(4, g2), (2, x2.toNat), (2, g1), (7, x1.toNat), (7, g0), (3, x0.toNat), (7, m)] := ⟨hg2, x2.isLt, hg1, x1.isLt, hg0, x0.isLt, hm, trivial⟩
  exact ⟨pack_lt hf, fld_pack _ 6 hf rfl rfl, bf_eq (fld_pack _ 5 hf rfl rfl), bf_eq (fld_pack _ 3 hf rfl rfl), bf_eq (fld_pack _ 1 hf rfl rfl), fld_pack _ 4 hf rfl rfl, fld_pack _ 2 hf rfl rfl, fld_pack _ 0 hf rfl rfl⟩

theorem layout43 {w k m g0 : Nat} {x0 : BitVec 3} {x1 : BitVec 7} {x2 : BitVec 7} {x3 : BitVec 4}
    (hw : k + x0.toNat * 2 ^ 22 + x1.toNat * 2 ^ 15 + x2.toNat * 2 ^ 8 + x3.toNat = w) (hk : k = m * 2 ^ 25 + g0 * 2 ^ 4) (hm : m < 2 ^ 7) (hg0 : g0 < 2 ^ 4) :
    w < 2 ^ 32 ∧ fld w 25 7 = m ∧ bf w 22 3 = x0 ∧ bf w 15 7 = x1 ∧ bf w 8 7 = x2 ∧ bf w 0 4 = x3 ∧ fld w 4 4 = g0 := by
  have e : w = pack [(4, x3.toNat), (4, g0), (7, x2.toNat), (7, x1.toNat), (3, x0.toNat), (7, m)] := by simp only [pack]; omega
  rw [e]
  have hf : Fit [(4, x3.toNat), (4, g0), (7, x2.toNat), (7, x1.toNat), (3, x0.toNat), (7, m)] := ⟨x3.isLt, hg0, x2.isLt, x1.isLt, x0.isLt, hm, trivial⟩
  exact ⟨pack_lt hf, fld_pack _ 5 hf rfl rfl, bf_eq (fld_pack _ 4 hf rfl rfl), bf_eq (fld_pack _ 3 hf rfl rfl), bf_eq (fld_pack _ 2 hf rfl rfl), bf_eq (fld_pack _ 0 hf rfl rfl), fld_pack _ 1 hf rfl rfl⟩

theorem layout44 {w k m g0 g1 : Nat} {x0 : BitVec 7} {x1 : BitVec 7} {x2 : BitVec 4}
    (hw : k + x0.toNat * 2 ^ 15 + x1.toNat * 2 ^ 8 + x2.toNat = w) (hk : k = m * 2 ^ 25 + g0 * 2 ^ 22 + g1 * 2 ^ 4) (hm : m < 2 ^ 7) (hg0 : g0 < 2 ^ 3) (hg1 : g1 < 2 ^ 4) :
    w < 2 ^ 32 ∧ fld w 25 7 = m ∧ bf w 15 7 = x0 ∧ bf w 8 7 = x1 ∧ bf w 0 4 = x2 ∧ fld w 22 3 = g0 ∧ fld w 4 4 = g1 := by
  have e : w = pack [(4, x2.toNat), (4, g1), (7, x1.toNat), (7, x0.toNat), (3, g0), (7, m)] := by simp only [pack]; omega
  rw [e]
  have hf : Fit [(4, x2.toNat), (4, g1), (7, x1.toNat), (7, x0.toNat), (3, g0), (7, m)] := ⟨x2.isLt, hg1, x1.isLt, x0.isLt, hg0, hm, trivial⟩
  exact ⟨pack_lt hf, fld_pack _ 5 hf rfl rfl, bf_eq (fld_pack _ 3 hf rfl rfl), bf_eq (fld_pack _ 2 hf rfl rfl), bf_eq (fld_pack _ 0 hf rfl rfl), fld_pack _ 4 hf rfl rfl, fld_pack _ 1 hf rfl rfl⟩

theorem layout45 {w k m g0 g1 : Nat} {x0 : BitVec 7} {x1 : BitVec 7}
    (hw : k + x0.toNat * 2 ^ 15 + x1.toNat * 2 ^ 8 = w) (hk : k = m * 2 ^ 25 + g0 * 2 ^ 22 + g1) (hm : m < 2 ^ 7) (hg0 : g0 < 2 ^ 3) (hg1 : g1 < 2 ^ 8) :
    w < 2 ^ 32 ∧ fld w 25 7 = m ∧ bf w 15 7 = x0 ∧ bf w 8 7 = x1 ∧ fld w 22 3 = g0 ∧ fld w 0 8 = g1 := by
  have e : w = pack [(8, g1), (7, x1.toNat), (7, x0.toNat), (3, g0), (7, m)] := by simp only [pack]; omega
  rw [e]
  have hf : Fit [(8, g1), (7, x1.toNat), (7, x0.toNat), (3, g0), (7, m)] := ⟨hg1, x1.isLt, x0.isLt, hg0, hm, trivial⟩
  exact ⟨pack_lt hf, fld_pack _ 4 hf rfl rfl, bf_eq (fld_pack _ 2 hf rfl rfl), bf_eq (fld_pack _ 1 hf rfl rfl), fld_pack _ 3 hf rfl rfl, fld_pack _ 0 hf rfl rfl⟩

theorem layout46 {w k m g0 : Nat} {x0 : BitVec 6} {x1 : BitVec 6} {x2 : BitVec 5} {x3 : BitVec 5}
    (hw : k + x0.toNat * 2 ^ 16 + x1.toNat * 2 ^ 10 + x2.toNat * 2 ^ 5 + x3.toNat = w) (hk : k = m * 2 ^ 25 + g0 * 2 ^ 22) (hm : m < 2 ^ 7) (hg0 : g0 < 2 ^ 3) :
    w < 2 ^ 32 ∧ fld w 25 7 = m ∧ bf w 16 6 = x0 ∧ bf w 10 6 = x1 ∧ bf w 5 5 = x2 ∧ bf w 0 5 = x3 ∧ fld w 22 3 = g0 := by
  have e : w = pack [(5, x3.toNat), (5, x2.toNat), (6, x1.toNat), (6, x0.toNat), (3, g0), (7, m)] := by simp only [pack]; omega
  rw [e]
  have hf : Fit [(5, x3.toNat), (5, x2.toNat), (6, x1.toNat), (6, x0.toNat), (3, g0), (7, m)] := ⟨x3.isLt, x2.isLt, x1.isLt, x0.isLt, hg0, hm, trivial⟩
  exact ⟨pack_lt hf, fld_pack _ 5 hf rfl rfl, bf_eq (fld_pack _ 3 hf rfl rfl), bf_eq (fld_pack _ 2 hf rfl rfl), bf_eq (fld_pack _ 1 hf rfl rfl), bf_eq (fld_pack _ 0 hf rfl rfl), fld_pack _ 4 hf rfl rfl⟩

theorem layout47 {w k m g0 : Nat} {x0 : BitVec 6} {x1 : BitVec 5} {x2 : BitVec 5}
    (hw : k + x0.toNat * 2 ^ 10 + x1.toNat * 2 ^ 5 + x2.toNat = w) (hk : k = m * 2 ^ 25 + g0 * 2 ^ 16) (hm : m < 2 ^ 7) (hg0 : g0 < 2 ^ 9) :
    w < 2 ^ 32 ∧ fld w 25 7 = m ∧ bf w 10 6 = x0 ∧ bf w 5 5 = x1 ∧ bf w 0 5 = x2 ∧ fld w 16 9 = g0 := by
  have e : w = pack [(5, x2.toNat), (5, x1.toNat), (6, x0.toNat), (9, g0), (7, m)] := by simp only [pack]; omega
  rw [e]
  have hf : Fit [(5, x2.toNat), (5, x1.toNat), (6, x0.toNat), (9, g0), (7, m)] := ⟨x2.isLt, x1.isLt, x0.isLt, hg0, hm, trivial⟩
  exact ⟨pack_lt hf, fld_pack _ 4 hf rfl rfl, bf_eq (fld_pack _ 2 hf rfl rfl), bf_eq (fld_pack _ 1 hf rfl rfl), bf_eq (fld_pack _ 0 hf rfl rfl), fld_pack _ 3 hf rfl rfl⟩

theorem layout48 {w k m g0 g1 : Nat} {x0 : BitVec 1} {x1 : BitVec 6} {x2 : BitVec 6} {x3 : BitVec 4}
    (hw : k + x0.toNat * 2 ^ 22 + x1.toNat * 2 ^ 16 + x2.toNat * 2 ^ 10 + x3.toNat = w) (hk : k = m * 2 ^ 25 + g0 * 2 ^ 23 + g1 * 2 ^ 4) (hm : m < 2 ^ 7) (hg0 : g0 < 2 ^ 2) (hg1 : g1 < 2 ^ 6) :
    w < 2 ^ 32 ∧ fld w 25 7 = m ∧ bf w 22 1 = x0 ∧ bf w 16 6 = x1 ∧ bf w 10 6 = x2 ∧ bf w 0 4 = x3 ∧ fld w 23 2 = g0 ∧ fld w 4 6 = g1 := by
  have e : w = pack [(4, x3.toNat), (6, g1), (6, x2.toNat), (6, x1.toNat), (1, x0.toNat), (2, g0), (7, m)] := by simp only [pack]; omega
  rw [e]
  have hf : Fit [(4, x3.toNat), (6, g1), (6, x2.toNat), (6, x1.toNat), (1, x0.toNat), (2, g0), (7, m)] := ⟨x3.isLt, hg1, x2.isLt, x1.isLt, x0.isLt, hg0, hm, trivial⟩
  exact ⟨pack_lt hf, fld_pack _ 6 hf rfl rfl, bf_eq (fld_pack _ 4 hf rfl rfl), bf_eq (fld_pack _ 3 hf rfl rfl), bf_eq (fld_pack _ 2 hf rfl rfl), bf_eq (fld_pack _ 0 hf rfl rfl), fld_pack _ 5 hf rfl rfl, fld_pack _ 1 hf rfl rfl⟩

theorem layout49 {w k m g0 : Nat} {x0 : BitVec 8}
    (hw : k + x0.toNat = w) (hk : k = m * 2 ^ 25 + g0 * 2 ^ 8) (hm : m < 2 ^ 7) (hg0 : g0 < 2 ^ 17) :
    w < 2 ^ 32 ∧ fld w 25 7 = m ∧ bf w 0 8 = x0 ∧ fld w 8 17 = g0 := by
  have e : w = pack [(8, x0.toNat), (17, g0), (7, m)] := by simp only [pack]; omega
  rw [e]
  have hf : Fit [(8, x0.toNat), (17, g0), (7, m)] := ⟨x0.isLt, hg0, hm, trivial⟩
  exact ⟨pack_lt hf, fld_pack _ 2 hf rfl rfl, bf_eq (fld_pack _ 0 hf rfl rfl), fld_pack _ 1 hf rfl rfl⟩

theorem layout50 {w k m g0 : Nat} {x0 : BitVec 22}
    (hw : k + x0.toNat = w) (hk : k = m * 2 ^ 25 + g0 * 2 ^ 22) (hm : m < 2 ^ 7) (hg0 : g0 < 2 ^ 3) :
    w < 2 ^ 32 ∧ fld w 25 7 = m ∧ bf w 0 22 = x0 ∧ fld w 22 3 = g0 := by
  have e : w = pack [(22, x0.toNat), (3, g0), (7, m)] := by simp only [pack]; omega
  rw [e]
  have hf : Fit [(22, x0.toNat), (3, g0), (7, m)] := ⟨x0.isLt, hg0, hm, trivial⟩
  exact ⟨pack_lt hf, fld_pack _ 2 hf rfl rfl, bf_eq (fld_pack _ 0 hf rfl rfl), fld_pack _ 1 hf rfl rfl⟩

theorem layout51 {w k m g0 g1 : Nat} {x0 : BitVec 1} {x1 : BitVec 2} {x2 : BitVec 1} {x3 : BitVec 1} {x4 : BitVec 1} {x5 : BitVec 3} {x6 : BitVec 4}
    (hw : k + x0.toNat * 2 ^ 21 + x1.toNat * 2 ^ 19 + x2.toNat * 2 ^ 18 + x3.toNat * 2 ^ 17 + x4.toNat * 2 ^ 16 + x5.toNat * 2 ^ 13 + x6.toNat * 2 ^ 9 = w) (hk : k = m * 2 ^ 25 + g0 * 2 ^ 22 + g1) (hm : m < 2 ^ 7) (hg0 : g0 < 2 ^ 3) (hg1 : g1 < 2 ^ 9) :
    w < 2 ^ 32 ∧ fld w 25 7 = m ∧ bf w 21 1 = x0 ∧ bf w 19 2 = x1 ∧ bf w 18 1 = x2 ∧ bf w 17 1 = x3 ∧ bf w 16 1 = x4 ∧ bf w 13 3 = x5 ∧ bf w 9 4 = x6 ∧ fld w 22 3 = g0 ∧ fld w 0 9 = g1 := by
  have e : w = pack [(9, g1), (4, x6.toNat), (3, x5.toNat), (1, x4.toNat), (1, x3.toNat), (1, x2.toNat), (2, x1.toNat), (1, x0.toNat), (3, g0), (7, m)] := by simp only [pack]; omega
  rw [e]
  have hf : Fit [(9, g1), (4, x6.toNat), (3, x5.toNat), (1, x4.toNat), (1, x3.toNat), (1, x2.toNat), (2, x1.toNat), (1, x0.toNat), (3, g0), (7, m)] := ⟨hg1, x6.isLt, x5.isLt, x4.isLt, x3.isLt, x2.isLt, x1.isLt, x0.isLt, hg0, hm, trivial⟩
  exact ⟨pack_lt hf, fld_pack _ 9 hf rfl rfl, bf_eq (fld_pack _ 7 hf rfl rfl), bf_eq (fld_pack _ 6 hf rfl rfl), bf_eq (fld_pack _ 5 hf rfl rfl), bf_eq (fld_pack _ 4 hf rfl rfl), bf_eq (fld_pack _ 3 hf rfl rfl), bf_eq (fld_pack _ 2 hf rfl rfl), bf_eq (fld_pack _ 1 hf rfl rfl), fld_pack _ 8 hf rfl rfl, fld_pack _ 0 hf rfl rfl⟩

theorem layout52 {w k m g0 g1 : Nat} {x0 : BitVec 3}
    (hw : k + x0.toNat * 2 ^ 19 = w) (hk : k = m * 2 ^ 25 + g0 * 2 ^ 22 + g1) (hm : m < 2 ^ 7) (hg0 : g0 < 2 ^ 3) (hg1 : g1 < 2 ^ 19) :
    w < 2 ^ 32 ∧ fld w 25 7 = m ∧ bf w 19 3 = x0 ∧ fld w 22 3 = g0 ∧ fld w 0 19 = g1 := by
  have e : w = pack [(19, g1), (3, x0.toNat), (3, g0), (7, m)] := by simp only [pack]; omega
  rw [e]
  have hf : Fit [(19, g1), (3, x0.toNat), (3, g0), (7, m)] := ⟨hg1, x0.isLt, hg0, hm, trivial⟩
  exact ⟨pack_lt hf, fld_pack _ 3 hf rfl rfl, bf_eq (fld_pack _ 1 hf rfl rfl), fld_pack _ 2 hf rfl rfl, fld_pack _ 0 hf rfl rfl⟩

theorem layout53 {w k m g0 g1 : Nat} {x0 : BitVec 1} {x1 : BitVec 1}
    (hw : k + x0.toNat * 2 ^ 21 + x1.toNat * 2 ^ 20 = w) (hk : k = m * 2 ^ 25 + g0 * 2 ^ 22 + g1) (hm : m < 2 ^ 7) (hg0 : g0 < 2 ^ 3) (hg1 : g1 < 2 ^ 20) :
    w < 2 ^ 32 ∧ fld w 25 7 = m ∧ bf w 21 1 = x0 ∧ bf w 20 1 = x1 ∧ fld w 22 3 = g0 ∧ fld w 0 20 = g1 := by
  have e : w = pack [(20, g1), (1, x1.toNat), (1, x0.toNat), (3, g0), (7, m)] := by simp only [pack]; omega
  rw [e]
  have hf : Fit [(20, g1), (1, x1.toNat), (1, x0.toNat), (3, g0), (7, m)] := ⟨hg1, x1.isLt, x0.isLt, hg0, hm, trivial⟩
  exact ⟨pack_lt hf, fld_pack _ 4 hf rfl rfl, bf_eq (fld_pack _ 2 hf rfl rfl), bf_eq (fld_pack _ 1 hf rfl rfl), fld_pack _ 3 hf rfl rfl, fld_pack _ 0 hf rfl rfl⟩

theorem layout54 {w k m g0 g1 : Nat} {x0 : BitVec 6} {x1 : BitVec 4} {x2 : BitVec 4} {x3 : BitVec 4}
    (hw : k + x0.toNat * 2 ^ 16 + x1.toNat * 2 ^ 12 + x2.toNat * 2 ^ 8 + x3.toNat * 2 ^ 4 = w) (hk : k = m * 2 ^ 25 + g0 * 2 ^ 22 + g1) (hm : m < 2 ^ 7) (hg0 : g0 < 2 ^ 3) (hg1 : g1 < 2 ^ 4) :
    w < 2 ^ 32 ∧ fld w 25 7 = m ∧ bf w 16 6 = x0 ∧ bf w 12 4 = x1 ∧ bf w 8 4 = x2 ∧ bf w 4 4 = x3 ∧ fld w 22 3 = g0 ∧ fld w 0 4 = g1 := by
  have e : w = pack [(4, g1), (4, x3.toNat), (4, x2.toNat), (4, x1.toNat), (6, x0.toNat), (3, g0), (7, m)] := by simp only [pack]; omega
  rw [e]
  have hf : Fit [(4, g1), (4, x3.toNat), (4, x2.toNat), (4, x1.toNat), (6, x0.toNat), (3, g0), (7, m)] := ⟨hg1, x3.isLt, x2.isLt, x1.isLt, x0.isLt, hg0, hm, trivial⟩
  exact ⟨pack_lt hf, fld_pack _ 6 hf rfl rfl, bf_eq (fld_pack _ 4 hf rfl rfl), bf_eq (fld_pack _ 3 hf rfl rfl), bf_eq (fld_pack _ 2 hf rfl rfl), bf_eq (fld_pack _ 1 hf rfl rfl), fld_pack _ 5 hf rfl rfl, fld_pack _ 0 hf rfl rfl⟩

theorem layout55 {w k m g0 : Nat} {x0 : BitVec 10} {x1 : BitVec 5} {x2 : BitVec 10} {x3 : BitVec 5}
    (hw : k + x0.toNat * 2 ^ 21 + x1.toNat * 2 ^ 16 + x2.toNat * 2 ^ 5 + x3.toNat = w) (hk : k = m * 2 ^ 31 + g0 * 2 ^ 15) (hm : m = 1) (hg0 : g0 < 2 ^ 1) :
    w < 2 ^ 32 ∧ 64 ≤ fld w 25 7 ∧ bf w 21 10 = x0 ∧ bf w 16 5 = x1 ∧ bf w 5 10 = x2 ∧ bf w 0 5 = x3 ∧ fld w 15 1 = g0 := by
  have e : w = pack [(5, x3.toNat), (10, x2.toNat), (1, g0), (5, x1.toNat), (10, x0.toNat), (1, m)] := by simp only [pack]; omega
  rw [e]
  have hf : Fit [(5, x3.toNat), (10, x2.toNat), (1, g0), (5, x1.toNat), (10, x0.toNat), (1, m)] := ⟨x3.isLt, x2.isLt, hg0, x1.isLt, x0.isLt, (by omega), trivial⟩
  exact ⟨pack_lt hf, by clear hw; unfold fld; simp only [pack]; omega, bf_eq (fld_pack _ 4 hf rfl rfl), bf_eq (fld_pack _ 3 hf rfl rfl), bf_eq (fld_pack _ 1 hf rfl rfl), bf_eq (fld_pack _ 0 hf rfl rfl), fld_pack _ 2 hf rfl rfl⟩

theorem layout56 {w k m g0 : Nat} {x0 : BitVec 10} {x1 : BitVec 5}
    (hw : k + x0.toNat * 2 ^ 21 + x1.toNat * 2 ^ 16 = w) (hk : k = m * 2 ^ 31 + g0) (hm : m = 1) (hg0 : g0 < 2 ^ 16) :
    w < 2 ^ 32 ∧ 64 ≤ fld w 25 7 ∧ bf w 21 10 = x0 ∧ bf w 16 5 = x1 ∧ fld w 0 16 = g0 := by
  have e : w = pack [(16, g0), (5, x1.toNat), (10, x0.toNat), (1, m)] := by simp only [pack]; omega
  rw [e]
  have hf : Fit [(16, g0), (5, x1.toNat), (10, x0.toNat), (1, m)] := ⟨hg0, x1.isLt, x0.isLt, (by omega), trivial⟩
  exact ⟨pack_lt hf, by clear hw; unfold fld; simp only [pack]; omega, bf_eq (fld_pack _ 2 hf rfl rfl), bf_eq (fld_pack _ 1 hf rfl rfl), fld_pack _ 0 hf rfl rfl⟩

theorem RoundTrip.iadd (x : V3) : RoundTrip.Statement (.iadd x) := by
  intro _ hf
  generalize hw : encode (.iadd x) = w
  obtain ⟨hl, hm, b0, b1, b2, b3, f0⟩ := layout0 (k := 0x00000000) (m := 0) (g0 := 0) (x0 := x.g) (x1 := x.d) (x2 := x.a) (x3 := x.b) hw rfl (by decide) (by decide)
  exact decode_of hl ((raw00 hm).trans (by simp [decode00, b0, b1, b2, b3, f0])) hf
theorem RoundTrip.isub (x : V3) : RoundTrip.Statement (.isub x) := by
  intro _ hf
  generalize hw : encode (.isub x) = w
  obtain ⟨hl, hm, b0, b1, b2, b3, f0⟩ := layout0 (k := 0x00000001) (m := 0) (g0 := 1) (x0 := x.g) (x1 := x.d) (x2 := x.a) (x3 := x.b) hw rfl (by decide) (by decide)
  exact decode_of hl ((raw00 hm).trans (by simp [decode00, b0, b1, b2, b3, f0])) hf
theorem RoundTrip.imulLo (x : V3) : RoundTrip.Statement (.imulLo x) := by
  intro _ hf
  generalize hw : encode (.imulLo x) = w
  obtain ⟨hl, hm, b0, b1, b2, b3, f0⟩ := layout0 (k := 0x02000000) (m := 1) (g0 := 0) (x0 := x.g) (x1 := x.d) (x2 := x.a) (x3 := x.b) hw rfl (by decide) (by decide)
  exact decode_of hl ((raw01 hm).trans (by simp [decode01, b0, b1, b2, b3, f0])) hf
theorem RoundTrip.imulHiS (x : V3) : RoundTrip.Statement (.imulHiS x) := by
  intro _ hf
  generalize hw : encode (.imulHiS x) = w
  obtain ⟨hl, hm, b0, b1, b2, b3, f0⟩ := layout0 (k := 0x02000001) (m := 1) (g0 := 1) (x0 := x.g) (x1 := x.d) (x2 := x.a) (x3 := x.b) hw rfl (by decide) (by decide)
  exact decode_of hl ((raw01 hm).trans (by simp [decode01, b0, b1, b2, b3, f0])) hf
theorem RoundTrip.imac (x : V3) : RoundTrip.Statement (.imac x) := by
  intro _ hf
  generalize hw : encode (.imac x) = w
  obtain ⟨hl, hm, b0, b1, b2, b3, f0⟩ := layout0 (k := 0x04000000) (m := 2) (g0 := 0) (x0 := x.g) (x1 := x.d) (x2 := x.a) (x3 := x.b) hw rfl (by decide) (by decide)
  exact decode_of hl ((raw02 hm).trans (by simp [decode02, b0, b1, b2, b3, f0])) hf
theorem RoundTrip.iabd (x : V3) : RoundTrip.Statement (.iabd x) := by
  intro _ hf
  generalize hw : encode (.iabd x) = w
  obtain ⟨hl, hm, b0, b1, b2, b3, f0⟩ := layout0 (k := 0x04000001) (m := 2) (g0 := 1) (x0 := x.g) (x1 := x.d) (x2 := x.a) (x3 := x.b) hw rfl (by decide) (by decide)
  exact decode_of hl ((raw02 hm).trans (by simp [decode02, b0, b1, b2, b3, f0])) hf
theorem RoundTrip.iminS (x : V3) : RoundTrip.Statement (.iminS x) := by
  intro _ hf
  generalize hw : encode (.iminS x) = w
  obtain ⟨hl, hm, b0, b1, b2, b3, f0⟩ := layout0 (k := 0x06000000) (m := 3) (g0 := 0) (x0 := x.g) (x1 := x.d) (x2 := x.a) (x3 := x.b) hw rfl (by decide) (by decide)
  exact decode_of hl ((raw03 hm).trans (by simp [decode03, b0, b1, b2, b3, f0])) hf
theorem RoundTrip.imaxS (x : V3) : RoundTrip.Statement (.imaxS x) := by
  intro _ hf
  generalize hw : encode (.imaxS x) = w
  obtain ⟨hl, hm, b0, b1, b2, b3, f0⟩ := layout0 (k := 0x06000001) (m := 3) (g0 := 1) (x0 := x.g) (x1 := x.d) (x2 := x.a) (x3 := x.b) hw rfl (by decide) (by decide)
  exact decode_of hl ((raw03 hm).trans (by simp [decode03, b0, b1, b2, b3, f0])) hf
theorem RoundTrip.iminN (x : V3) : RoundTrip.Statement (.iminN x) := by
  intro _ hf
  generalize hw : encode (.iminN x) = w
  obtain ⟨hl, hm, b0, b1, b2, b3, f0⟩ := layout0 (k := 0x08000000) (m := 4) (g0 := 0) (x0 := x.g) (x1 := x.d) (x2 := x.a) (x3 := x.b) hw rfl (by decide) (by decide)
  exact decode_of hl ((raw04 hm).trans (by simp [decode04, b0, b1, b2, b3, f0])) hf
theorem RoundTrip.imaxN (x : V3) : RoundTrip.Statement (.imaxN x) := by
  intro _ hf
  generalize hw : encode (.imaxN x) = w
  obtain ⟨hl, hm, b0, b1, b2, b3, f0⟩ := layout0 (k := 0x08000001) (m := 4) (g0 := 1) (x0 := x.g) (x1 := x.d) (x2 := x.a) (x3 := x.b) hw rfl (by decide) (by decide)
  exact decode_of hl ((raw04 hm).trans (by simp [decode04, b0, b1, b2, b3, f0])) hf
theorem RoundTrip.and (x : V3) : RoundTrip.Statement (.and x) := by
  intro _ hf
  generalize hw : encode (.and x) = w
  obtain ⟨hl, hm, b0, b1, b2, b3, f0⟩ := layout0 (k := 0x0A000000) (m := 5) (g0 := 0) (x0 := x.g) (x1 := x.d) (x2 := x.a) (x3 := x.b) hw rfl (by decide) (by decide)
  exact decode_of hl ((raw05 hm).trans (by simp [decode05, b0, b1, b2, b3, f0])) hf
theorem RoundTrip.or (x : V3) : RoundTrip.Statement (.or x) := by
  intro _ hf
  generalize hw : encode (.or x) = w
  obtain ⟨hl, hm, b0, b1, b2, b3, f0⟩ := layout0 (k := 0x0A000001) (m := 5) (g0 := 1) (x0 := x.g) (x1 := x.d) (x2 := x.a) (x3 := x.b) hw rfl (by decide) (by decide)
  exact decode_of hl ((raw05 hm).trans (by simp [decode05, b0, b1, b2, b3, f0])) hf
theorem RoundTrip.xor (x : V3) : RoundTrip.Statement (.xor x) := by
  intro _ hf
  generalize hw : encode (.xor x) = w
  obtain ⟨hl, hm, b0, b1, b2, b3, f0⟩ := layout0 (k := 0x0C000000) (m := 6) (g0 := 0) (x0 := x.g) (x1 := x.d) (x2 := x.a) (x3 := x.b) hw rfl (by decide) (by decide)
  exact decode_of hl ((raw06 hm).trans (by simp [decode06, b0, b1, b2, b3, f0])) hf
theorem RoundTrip.andn (x : V3) : RoundTrip.Statement (.andn x) := by
  intro _ hf
  generalize hw : encode (.andn x) = w
  obtain ⟨hl, hm, b0, b1, b2, b3, f0⟩ := layout0 (k := 0x0C000001) (m := 6) (g0 := 1) (x0 := x.g) (x1 := x.d) (x2 := x.a) (x3 := x.b) hw rfl (by decide) (by decide)
  exact decode_of hl ((raw06 hm).trans (by simp [decode06, b0, b1, b2, b3, f0])) hf
theorem RoundTrip.shl (x : V3) : RoundTrip.Statement (.shl x) := by
  intro _ hf
  generalize hw : encode (.shl x) = w
  obtain ⟨hl, hm, b0, b1, b2, b3, f0⟩ := layout0 (k := 0x0E000000) (m := 7) (g0 := 0) (x0 := x.g) (x1 := x.d) (x2 := x.a) (x3 := x.b) hw rfl (by decide) (by decide)
  exact decode_of hl ((raw07 hm).trans (by simp [decode07, b0, b1, b2, b3, f0])) hf
theorem RoundTrip.shr (x : V3) : RoundTrip.Statement (.shr x) := by
  intro _ hf
  generalize hw : encode (.shr x) = w
  obtain ⟨hl, hm, b0, b1, b2, b3, f0⟩ := layout0 (k := 0x0E000001) (m := 7) (g0 := 1) (x0 := x.g) (x1 := x.d) (x2 := x.a) (x3 := x.b) hw rfl (by decide) (by decide)
  exact decode_of hl ((raw07 hm).trans (by simp [decode07, b0, b1, b2, b3, f0])) hf
theorem RoundTrip.sar (x : V3) : RoundTrip.Statement (.sar x) := by
  intro _ hf
  generalize hw : encode (.sar x) = w
  obtain ⟨hl, hm, b0, b1, b2, b3, f0⟩ := layout0 (k := 0x10000000) (m := 8) (g0 := 0) (x0 := x.g) (x1 := x.d) (x2 := x.a) (x3 := x.b) hw rfl (by decide) (by decide)
  exact decode_of hl ((raw08 hm).trans (by simp [decode08, b0, b1, b2, b3, f0])) hf
theorem RoundTrip.rot (x : V3) : RoundTrip.Statement (.rot x) := by
  intro _ hf
  generalize hw : encode (.rot x) = w
  obtain ⟨hl, hm, b0, b1, b2, b3, f0⟩ := layout0 (k := 0x10000001) (m := 8) (g0 := 1) (x0 := x.g) (x1 := x.d) (x2 := x.a) (x3 := x.b) hw rfl (by decide) (by decide)
  exact decode_of hl ((raw08 hm).trans (by simp [decode08, b0, b1, b2, b3, f0])) hf
theorem RoundTrip.fadd (x : V3) : RoundTrip.Statement (.fadd x) := by
  intro _ hf
  generalize hw : encode (.fadd x) = w
  obtain ⟨hl, hm, b0, b1, b2, b3, f0⟩ := layout0 (k := 0x12000000) (m := 9) (g0 := 0) (x0 := x.g) (x1 := x.d) (x2 := x.a) (x3 := x.b) hw rfl (by decide) (by decide)
  exact decode_of hl ((raw09 hm).trans (by simp [decode09, b0, b1, b2, b3, f0])) hf
theorem RoundTrip.fsub (x : V3) : RoundTrip.Statement (.fsub x) := by
  intro _ hf
  generalize hw : encode (.fsub x) = w
  obtain ⟨hl, hm, b0, b1, b2, b3, f0⟩ := layout0 (k := 0x12000001) (m := 9) (g0 := 1) (x0 := x.g) (x1 := x.d) (x2 := x.a) (x3 := x.b) hw rfl (by decide) (by decide)
  exact decode_of hl ((raw09 hm).trans (by simp [decode09, b0, b1, b2, b3, f0])) hf
theorem RoundTrip.fmul (x : V3) : RoundTrip.Statement (.fmul x) := by
  intro _ hf
  generalize hw : encode (.fmul x) = w
  obtain ⟨hl, hm, b0, b1, b2, b3, f0⟩ := layout0 (k := 0x14000000) (m := 10) (g0 := 0) (x0 := x.g) (x1 := x.d) (x2 := x.a) (x3 := x.b) hw rfl (by decide) (by decide)
  exact decode_of hl ((raw0A hm).trans (by simp [decode0A, b0, b1, b2, b3, f0])) hf
theorem RoundTrip.ffma (x : V3) : RoundTrip.Statement (.ffma x) := by
  intro _ hf
  generalize hw : encode (.ffma x) = w
  obtain ⟨hl, hm, b0, b1, b2, b3, f0⟩ := layout0 (k := 0x14000001) (m := 10) (g0 := 1) (x0 := x.g) (x1 := x.d) (x2 := x.a) (x3 := x.b) hw rfl (by decide) (by decide)
  exact decode_of hl ((raw0A hm).trans (by simp [decode0A, b0, b1, b2, b3, f0])) hf
theorem RoundTrip.fmin (x : V3) : RoundTrip.Statement (.fmin x) := by
  intro _ hf
  generalize hw : encode (.fmin x) = w
  obtain ⟨hl, hm, b0, b1, b2, b3, f0⟩ := layout0 (k := 0x16000000) (m := 11) (g0 := 0) (x0 := x.g) (x1 := x.d) (x2 := x.a) (x3 := x.b) hw rfl (by decide) (by decide)
  exact decode_of hl ((raw0B hm).trans (by simp [decode0B, b0, b1, b2, b3, f0])) hf
theorem RoundTrip.fmax (x : V3) : RoundTrip.Statement (.fmax x) := by
  intro _ hf
  generalize hw : encode (.fmax x) = w
  obtain ⟨hl, hm, b0, b1, b2, b3, f0⟩ := layout0 (k := 0x16000001) (m := 11) (g0 := 1) (x0 := x.g) (x1 := x.d) (x2 := x.a) (x3 := x.b) hw rfl (by decide) (by decide)
  exact decode_of hl ((raw0B hm).trans (by simp [decode0B, b0, b1, b2, b3, f0])) hf
theorem RoundTrip.haddBf16x2 (x : V3) : RoundTrip.Statement (.haddBf16x2 x) := by
  intro _ hf
  generalize hw : encode (.haddBf16x2 x) = w
  obtain ⟨hl, hm, b0, b1, b2, b3, f0⟩ := layout0 (k := 0x18000000) (m := 12) (g0 := 0) (x0 := x.g) (x1 := x.d) (x2 := x.a) (x3 := x.b) hw rfl (by decide) (by decide)
  exact decode_of hl ((raw0C hm).trans (by simp [decode0C, b0, b1, b2, b3, f0])) hf
theorem RoundTrip.hmulBf16x2 (x : V3) : RoundTrip.Statement (.hmulBf16x2 x) := by
  intro _ hf
  generalize hw : encode (.hmulBf16x2 x) = w
  obtain ⟨hl, hm, b0, b1, b2, b3, f0⟩ := layout0 (k := 0x18000001) (m := 12) (g0 := 1) (x0 := x.g) (x1 := x.d) (x2 := x.a) (x3 := x.b) hw rfl (by decide) (by decide)
  exact decode_of hl ((raw0C hm).trans (by simp [decode0C, b0, b1, b2, b3, f0])) hf
theorem RoundTrip.hfmaBf16x2 (x : V3) : RoundTrip.Statement (.hfmaBf16x2 x) := by
  intro _ hf
  generalize hw : encode (.hfmaBf16x2 x) = w
  obtain ⟨hl, hm, b0, b1, b2, b3, f0⟩ := layout0 (k := 0x1A000000) (m := 13) (g0 := 0) (x0 := x.g) (x1 := x.d) (x2 := x.a) (x3 := x.b) hw rfl (by decide) (by decide)
  exact decode_of hl ((raw0D hm).trans (by simp [decode0D, b0, b1, b2, b3, f0])) hf
theorem RoundTrip.hfmaF16x2 (x : V3) : RoundTrip.Statement (.hfmaF16x2 x) := by
  intro _ hf
  generalize hw : encode (.hfmaF16x2 x) = w
  obtain ⟨hl, hm, b0, b1, b2, b3, f0⟩ := layout0 (k := 0x1A000001) (m := 13) (g0 := 1) (x0 := x.g) (x1 := x.d) (x2 := x.a) (x3 := x.b) hw rfl (by decide) (by decide)
  exact decode_of hl ((raw0D hm).trans (by simp [decode0D, b0, b1, b2, b3, f0])) hf
theorem RoundTrip.sel (x : V3) : RoundTrip.Statement (.sel x) := by
  intro _ hf
  generalize hw : encode (.sel x) = w
  obtain ⟨hl, hm, b0, b1, b2, b3, f0⟩ := layout0 (k := 0x1C000000) (m := 14) (g0 := 0) (x0 := x.g) (x1 := x.d) (x2 := x.a) (x3 := x.b) hw rfl (by decide) (by decide)
  exact decode_of hl ((raw0E hm).trans (by simp [decode0E, b0, b1, b2, b3, f0])) hf
theorem RoundTrip.permB8 (x : V3) : RoundTrip.Statement (.permB8 x) := by
  intro _ hf
  generalize hw : encode (.permB8 x) = w
  obtain ⟨hl, hm, b0, b1, b2, b3, f0⟩ := layout0 (k := 0x1C000001) (m := 14) (g0 := 1) (x0 := x.g) (x1 := x.d) (x2 := x.a) (x3 := x.b) hw rfl (by decide) (by decide)
  exact decode_of hl ((raw0E hm).trans (by simp [decode0E, b0, b1, b2, b3, f0])) hf
theorem RoundTrip.dot4S8 (x : V3) : RoundTrip.Statement (.dot4S8 x) := by
  intro _ hf
  generalize hw : encode (.dot4S8 x) = w
  obtain ⟨hl, hm, b0, b1, b2, b3, f0⟩ := layout0 (k := 0x1E000000) (m := 15) (g0 := 0) (x0 := x.g) (x1 := x.d) (x2 := x.a) (x3 := x.b) hw rfl (by decide) (by decide)
  exact decode_of hl ((raw0F hm).trans (by simp [decode0F, b0, b1, b2, b3, f0])) hf
theorem RoundTrip.dot8S4 (x : V3) : RoundTrip.Statement (.dot8S4 x) := by
  intro _ hf
  generalize hw : encode (.dot8S4 x) = w
  obtain ⟨hl, hm, b0, b1, b2, b3, f0⟩ := layout0 (k := 0x1E000001) (m := 15) (g0 := 1) (x0 := x.g) (x1 := x.d) (x2 := x.a) (x3 := x.b) hw rfl (by decide) (by decide)
  exact decode_of hl ((raw0F hm).trans (by simp [decode0F, b0, b1, b2, b3, f0])) hf
theorem RoundTrip.icmpS32 (x : VC) : RoundTrip.Statement (.icmpS32 x) := by
  intro _ hf
  generalize hw : encode (.icmpS32 x) = w
  obtain ⟨hl, hm, b0, b1, b2, b3, b4, b5⟩ := layout1 (k := 0x20000000) (m := 16) (x0 := x.g) (x1 := x.pd) (x2 := x.cc) (x3 := x.a) (x4 := x.b) (x5 := x.cm) hw rfl (by decide)
  exact decode_of hl ((raw10 hm).trans (by simp [decode10, b0, b1, b2, b3, b4, b5])) hf
theorem RoundTrip.icmpN32 (x : VC) : RoundTrip.Statement (.icmpN32 x) := by
  intro _ hf
  generalize hw : encode (.icmpN32 x) = w
  obtain ⟨hl, hm, b0, b1, b2, b3, b4, b5⟩ := layout1 (k := 0x22000000) (m := 17) (x0 := x.g) (x1 := x.pd) (x2 := x.cc) (x3 := x.a) (x4 := x.b) (x5 := x.cm) hw rfl (by decide)
  exact decode_of hl ((raw11 hm).trans (by simp [decode11, b0, b1, b2, b3, b4, b5])) hf
theorem RoundTrip.fcmpF32 (x : VC) : RoundTrip.Statement (.fcmpF32 x) := by
  intro _ hf
  generalize hw : encode (.fcmpF32 x) = w
  obtain ⟨hl, hm, b0, b1, b2, b3, b4, b5⟩ := layout1 (k := 0x24000000) (m := 18) (x0 := x.g) (x1 := x.pd) (x2 := x.cc) (x3 := x.a) (x4 := x.b) (x5 := x.cm) hw rfl (by decide)
  exact decode_of hl ((raw12 hm).trans (by simp [decode12, b0, b1, b2, b3, b4, b5])) hf
theorem RoundTrip.plog (g : BitVec 3) (p : BitVec 3) (f : BitVec 3) (a : BitVec 3) (b : BitVec 3) (m : BitVec 2) : RoundTrip.Statement (.plog g p f a b m) := by
  intro _ hf
  generalize hw : encode (.plog g p f a b m) = w
  obtain ⟨hl, hm, b0, b1, b2, b3, b4, b5, f0, f1⟩ := layout2 (k := 0x26000000) (m := 19) (g0 := 0) (g1 := 0) (x0 := g) (x1 := p) (x2 := f) (x3 := a) (x4 := b) (x5 := m) hw rfl (by decide) (by decide) (by decide)
  exact decode_of hl ((raw13 hm).trans (by simp [decode13, b0, b1, b2, b3, b4, b5, f0, f1])) hf
theorem RoundTrip.iaddi (x : VI) : RoundTrip.Statement (.iaddi x) := by
  intro _ hf
  generalize hw : encode (.iaddi x) = w
  obtain ⟨hl, hm, b0, b1, b2, b3⟩ := layout3 (k := 0x28000000) (m := 20) (x0 := x.g) (x1 := x.d) (x2 := x.a) (x3 := x.imm) hw rfl (by decide)
  exact decode_of hl ((raw14 hm).trans (by simp [decode14, b0, b1, b2, b3])) hf
theorem RoundTrip.shli (x : VN) : RoundTrip.Statement (.shli x) := by
  intro _ hf
  generalize hw : encode (.shli x) = w
  obtain ⟨hl, hm, b0, b1, b2, b3, f0⟩ := layout4 (k := 0x2A000000) (m := 21) (g0 := 0) (x0 := x.g) (x1 := x.d) (x2 := x.a) (x3 := x.n) hw rfl (by decide) (by decide)
  exact decode_of hl ((raw15 hm).trans (by simp [decode15, b0, b1, b2, b3, f0])) hf
theorem RoundTrip.shri (x : VN) : RoundTrip.Statement (.shri x) := by
  intro _ hf
  generalize hw : encode (.shri x) = w
  obtain ⟨hl, hm, b0, b1, b2, b3, f0⟩ := layout4 (k := 0x2A000040) (m := 21) (g0 := 2) (x0 := x.g) (x1 := x.d) (x2 := x.a) (x3 := x.n) hw rfl (by decide) (by decide)
  exact decode_of hl ((raw15 hm).trans (by simp [decode15, b0, b1, b2, b3, f0])) hf
theorem RoundTrip.sari (x : VN) : RoundTrip.Statement (.sari x) := by
  intro _ hf
  generalize hw : encode (.sari x) = w
  obtain ⟨hl, hm, b0, b1, b2, b3, f0⟩ := layout4 (k := 0x2A000080) (m := 21) (g0 := 4) (x0 := x.g) (x1 := x.d) (x2 := x.a) (x3 := x.n) hw rfl (by decide) (by decide)
  exact decode_of hl ((raw15 hm).trans (by simp [decode15, b0, b1, b2, b3, f0])) hf
theorem RoundTrip.roti (x : VN) : RoundTrip.Statement (.roti x) := by
  intro _ hf
  generalize hw : encode (.roti x) = w
  obtain ⟨hl, hm, b0, b1, b2, b3, f0⟩ := layout4 (k := 0x2A0000C0) (m := 21) (g0 := 6) (x0 := x.g) (x1 := x.d) (x2 := x.a) (x3 := x.n) hw rfl (by decide) (by decide)
  exact decode_of hl ((raw15 hm).trans (by simp [decode15, b0, b1, b2, b3, f0])) hf
theorem RoundTrip.movi (g : BitVec 3) (d : BitVec 7) (i : BitVec 8) : RoundTrip.Statement (.movi g d i) := by
  intro _ hf
  generalize hw : encode (.movi g d i) = w
  obtain ⟨hl, hm, b0, b1, b2, f0⟩ := layout5 (k := 0x2C000000) (m := 22) (g0 := 0) (x0 := g) (x1 := d) (x2 := i) hw rfl (by decide) (by decide)
  exact decode_of hl ((raw16 hm).trans (by simp [decode16, b0, b1, b2, f0])) hf
theorem RoundTrip.andi (x : VI) : RoundTrip.Statement (.andi x) := by
  intro _ hf
  generalize hw : encode (.andi x) = w
  obtain ⟨hl, hm, b0, b1, b2, b3⟩ := layout3 (k := 0x2E000000) (m := 23) (x0 := x.g) (x1 := x.d) (x2 := x.a) (x3 := x.imm) hw rfl (by decide)
  exact decode_of hl ((raw17 hm).trans (by simp [decode17, b0, b1, b2, b3])) hf
theorem RoundTrip.cvt (g : BitVec 3) (d : BitVec 7) (a : BitVec 7) (t : BitVec 4) (s : BitVec 4) : RoundTrip.Statement (.cvt g d a t s) := by
  intro _ hf
  generalize hw : encode (.cvt g d a t s) = w
  obtain ⟨hl, hm, b0, b1, b2, b3, b4⟩ := layout6 (k := 0x30000000) (m := 24) (x0 := g) (x1 := d) (x2 := a) (x3 := t) (x4 := s) hw rfl (by decide)
  exact decode_of hl ((raw18 hm).trans (by simp [decode18, b0, b1, b2, b3, b4])) hf
theorem RoundTrip.movB32 (x : V2) : RoundTrip.Statement (.movB32 x) := by
  intro _ hf
  generalize hw : encode (.movB32 x) = w
  obtain ⟨hl, hm, b0, b1, b2, f0⟩ := layout7 (k := 0x32000000) (m := 25) (g0 := 0) (x0 := x.g) (x1 := x.d) (x2 := x.a) hw rfl (by decide) (by decide)
  exact decode_of hl ((raw19 hm).trans (by simp [decode19, b0, b1, b2, f0])) hf
theorem RoundTrip.notB32 (x : V2) : RoundTrip.Statement (.notB32 x) := by
  intro _ hf
  generalize hw : encode (.notB32 x) = w
  obtain ⟨hl, hm, b0, b1, b2, f0⟩ := layout7 (k := 0x32000001) (m := 25) (g0 := 1) (x0 := x.g) (x1 := x.d) (x2 := x.a) hw rfl (by decide) (by decide)
  exact decode_of hl ((raw19 hm).trans (by simp [decode19, b0, b1, b2, f0])) hf
theorem RoundTrip.inegS32 (x : V2) : RoundTrip.Statement (.inegS32 x) := by
  intro _ hf
  generalize hw : encode (.inegS32 x) = w
  obtain ⟨hl, hm, b0, b1, b2, f0⟩ := layout7 (k := 0x32000002) (m := 25) (g0 := 2) (x0 := x.g) (x1 := x.d) (x2 := x.a) hw rfl (by decide) (by decide)
  exact decode_of hl ((raw19 hm).trans (by simp [decode19, b0, b1, b2, f0])) hf
theorem RoundTrip.iabsS32 (x : V2) : RoundTrip.Statement (.iabsS32 x) := by
  intro _ hf
  generalize hw : encode (.iabsS32 x) = w
  obtain ⟨hl, hm, b0, b1, b2, f0⟩ := layout7 (k := 0x32000003) (m := 25) (g0 := 3) (x0 := x.g) (x1 := x.d) (x2 := x.a) hw rfl (by decide) (by decide)
  exact decode_of hl ((raw19 hm).trans (by simp [decode19, b0, b1, b2, f0])) hf
theorem RoundTrip.popcB32 (x : V2) : RoundTrip.Statement (.popcB32 x) := by
  intro _ hf
  generalize hw : encode (.popcB32 x) = w
  obtain ⟨hl, hm, b0, b1, b2, f0⟩ := layout7 (k := 0x32000004) (m := 25) (g0 := 4) (x0 := x.g) (x1 := x.d) (x2 := x.a) hw rfl (by decide) (by decide)
  exact decode_of hl ((raw19 hm).trans (by simp [decode19, b0, b1, b2, f0])) hf
theorem RoundTrip.clzB32 (x : V2) : RoundTrip.Statement (.clzB32 x) := by
  intro _ hf
  generalize hw : encode (.clzB32 x) = w
  obtain ⟨hl, hm, b0, b1, b2, f0⟩ := layout7 (k := 0x32000005) (m := 25) (g0 := 5) (x0 := x.g) (x1 := x.d) (x2 := x.a) hw rfl (by decide) (by decide)
  exact decode_of hl ((raw19 hm).trans (by simp [decode19, b0, b1, b2, f0])) hf
theorem RoundTrip.ctzB32 (x : V2) : RoundTrip.Statement (.ctzB32 x) := by
  intro _ hf
  generalize hw : encode (.ctzB32 x) = w
  obtain ⟨hl, hm, b0, b1, b2, f0⟩ := layout7 (k := 0x32000006) (m := 25) (g0 := 6) (x0 := x.g) (x1 := x.d) (x2 := x.a) hw rfl (by decide) (by decide)
  exact decode_of hl ((raw19 hm).trans (by simp [decode19, b0, b1, b2, f0])) hf
theorem RoundTrip.brevB32 (x : V2) : RoundTrip.Statement (.brevB32 x) := by
  intro _ hf
  generalize hw : encode (.brevB32 x) = w
  obtain ⟨hl, hm, b0, b1, b2, f0⟩ := layout7 (k := 0x32000007) (m := 25) (g0 := 7) (x0 := x.g) (x1 := x.d) (x2 := x.a) hw rfl (by decide) (by decide)
  exact decode_of hl ((raw19 hm).trans (by simp [decode19, b0, b1, b2, f0])) hf
theorem RoundTrip.fnegF32 (x : V2) : RoundTrip.Statement (.fnegF32 x) := by
  intro _ hf
  generalize hw : encode (.fnegF32 x) = w
  obtain ⟨hl, hm, b0, b1, b2, f0⟩ := layout7 (k := 0x32000008) (m := 25) (g0 := 8) (x0 := x.g) (x1 := x.d) (x2 := x.a) hw rfl (by decide) (by decide)
  exact decode_of hl ((raw19 hm).trans (by simp [decode19, b0, b1, b2, f0])) hf
theorem RoundTrip.fabsF32 (x : V2) : RoundTrip.Statement (.fabsF32 x) := by
  intro _ hf
  generalize hw : encode (.fabsF32 x) = w
  obtain ⟨hl, hm, b0, b1, b2, f0⟩ := layout7 (k := 0x32000009) (m := 25) (g0 := 9) (x0 := x.g) (x1 := x.d) (x2 := x.a) hw rfl (by decide) (by decide)
  exact decode_of hl ((raw19 hm).trans (by simp [decode19, b0, b1, b2, f0])) hf
theorem RoundTrip.fintF32 (x : V2) : RoundTrip.Statement (.fintF32 x) := by
  intro _ hf
  generalize hw : encode (.fintF32 x) = w
  obtain ⟨hl, hm, b0, b1, b2, f0⟩ := layout7 (k := 0x3200000A) (m := 25) (g0 := 10) (x0 := x.g) (x1 := x.d) (x2 := x.a) hw rfl (by decide) (by decide)
  exact decode_of hl ((raw19 hm).trans (by simp [decode19, b0, b1, b2, f0])) hf
theorem RoundTrip.exp2 (x : V2) : RoundTrip.Statement (.exp2 x) := by
  intro _ hf
  generalize hw : encode (.exp2 x) = w
  obtain ⟨hl, hm, b0, b1, b2, f0⟩ := layout7 (k := 0x32000010) (m := 25) (g0 := 16) (x0 := x.g) (x1 := x.d) (x2 := x.a) hw rfl (by decide) (by decide)
  exact decode_of hl ((raw19 hm).trans (by simp [decode19, b0, b1, b2, f0])) hf
theorem RoundTrip.log2 (x : V2) : RoundTrip.Statement (.log2 x) := by
  intro _ hf
  generalize hw : encode (.log2 x) = w
  obtain ⟨hl, hm, b0, b1, b2, f0⟩ := layout7 (k := 0x32000011) (m := 25) (g0 := 17) (x0 := x.g) (x1 := x.d) (x2 := x.a) hw rfl (by decide) (by decide)
  exact decode_of hl ((raw19 hm).trans (by simp [decode19, b0, b1, b2, f0])) hf
theorem RoundTrip.rcp (x : V2) : RoundTrip.Statement (.rcp x) := by
  intro _ hf
  generalize hw : encode (.rcp x) = w
  obtain ⟨hl, hm, b0, b1, b2, f0⟩ := layout7 (k := 0x32000012) (m := 25) (g0 := 18) (x0 := x.g) (x1 := x.d) (x2 := x.a) hw rfl (by decide) (by decide)
  exact decode_of hl ((raw19 hm).trans (by simp [decode19, b0, b1, b2, f0])) hf
theorem RoundTrip.rsqrt (x : V2) : RoundTrip.Statement (.rsqrt x) := by
  intro _ hf
  generalize hw : encode (.rsqrt x) = w
  obtain ⟨hl, hm, b0, b1, b2, f0⟩ := layout7 (k := 0x32000013) (m := 25) (g0 := 19) (x0 := x.g) (x1 := x.d) (x2 := x.a) hw rfl (by decide) (by decide)
  exact decode_of hl ((raw19 hm).trans (by simp [decode19, b0, b1, b2, f0])) hf
theorem RoundTrip.sqrt (x : V2) : RoundTrip.Statement (.sqrt x) := by
  intro _ hf
  generalize hw : encode (.sqrt x) = w
  obtain ⟨hl, hm, b0, b1, b2, f0⟩ := layout7 (k := 0x32000014) (m := 25) (g0 := 20) (x0 := x.g) (x1 := x.d) (x2 := x.a) hw rfl (by decide) (by decide)
  exact decode_of hl ((raw19 hm).trans (by simp [decode19, b0, b1, b2, f0])) hf
theorem RoundTrip.sinpi (x : V2) : RoundTrip.Statement (.sinpi x) := by
  intro _ hf
  generalize hw : encode (.sinpi x) = w
  obtain ⟨hl, hm, b0, b1, b2, f0⟩ := layout7 (k := 0x32000015) (m := 25) (g0 := 21) (x0 := x.g) (x1 := x.d) (x2 := x.a) hw rfl (by decide) (by decide)
  exact decode_of hl ((raw19 hm).trans (by simp [decode19, b0, b1, b2, f0])) hf
theorem RoundTrip.cospi (x : V2) : RoundTrip.Statement (.cospi x) := by
  intro _ hf
  generalize hw : encode (.cospi x) = w
  obtain ⟨hl, hm, b0, b1, b2, f0⟩ := layout7 (k := 0x32000016) (m := 25) (g0 := 22) (x0 := x.g) (x1 := x.d) (x2 := x.a) hw rfl (by decide) (by decide)
  exact decode_of hl ((raw19 hm).trans (by simp [decode19, b0, b1, b2, f0])) hf
theorem RoundTrip.tanh (x : V2) : RoundTrip.Statement (.tanh x) := by
  intro _ hf
  generalize hw : encode (.tanh x) = w
  obtain ⟨hl, hm, b0, b1, b2, f0⟩ := layout7 (k := 0x32000017) (m := 25) (g0 := 23) (x0 := x.g) (x1 := x.d) (x2 := x.a) hw rfl (by decide) (by decide)
  exact decode_of hl ((raw19 hm).trans (by simp [decode19, b0, b1, b2, f0])) hf
theorem RoundTrip.rngB32 (x : V2) : RoundTrip.Statement (.rngB32 x) := by
  intro _ hf
  generalize hw : encode (.rngB32 x) = w
  obtain ⟨hl, hm, b0, b1, b2, f0⟩ := layout7 (k := 0x32000020) (m := 25) (g0 := 32) (x0 := x.g) (x1 := x.d) (x2 := x.a) hw rfl (by decide) (by decide)
  exact decode_of hl ((raw19 hm).trans (by simp [decode19, b0, b1, b2, f0])) hf
theorem RoundTrip.rnguF32 (x : V2) : RoundTrip.Statement (.rnguF32 x) := by
  intro _ hf
  generalize hw : encode (.rnguF32 x) = w
  obtain ⟨hl, hm, b0, b1, b2, f0⟩ := layout7 (k := 0x32000021) (m := 25) (g0 := 33) (x0 := x.g) (x1 := x.d) (x2 := x.a) hw rfl (by decide) (by decide)
  exact decode_of hl ((raw19 hm).trans (by simp [decode19, b0, b1, b2, f0])) hf
theorem RoundTrip.packhBf16x2 (x : V2) : RoundTrip.Statement (.packhBf16x2 x) := by
  intro _ hf
  generalize hw : encode (.packhBf16x2 x) = w
  obtain ⟨hl, hm, b0, b1, b2, f0⟩ := layout7 (k := 0x32000030) (m := 25) (g0 := 48) (x0 := x.g) (x1 := x.d) (x2 := x.a) hw rfl (by decide) (by decide)
  exact decode_of hl ((raw19 hm).trans (by simp [decode19, b0, b1, b2, f0])) hf
theorem RoundTrip.packhF16x2 (x : V2) : RoundTrip.Statement (.packhF16x2 x) := by
  intro _ hf
  generalize hw : encode (.packhF16x2 x) = w
  obtain ⟨hl, hm, b0, b1, b2, f0⟩ := layout7 (k := 0x32000031) (m := 25) (g0 := 49) (x0 := x.g) (x1 := x.d) (x2 := x.a) hw rfl (by decide) (by decide)
  exact decode_of hl ((raw19 hm).trans (by simp [decode19, b0, b1, b2, f0])) hf
theorem RoundTrip.unpackhBf16x2 (x : V2) : RoundTrip.Statement (.unpackhBf16x2 x) := by
  intro _ hf
  generalize hw : encode (.unpackhBf16x2 x) = w
  obtain ⟨hl, hm, b0, b1, b2, f0⟩ := layout7 (k := 0x32000032) (m := 25) (g0 := 50) (x0 := x.g) (x1 := x.d) (x2 := x.a) hw rfl (by decide) (by decide)
  exact decode_of hl ((raw19 hm).trans (by simp [decode19, b0, b1, b2, f0])) hf
theorem RoundTrip.unpackhF16x2 (x : V2) : RoundTrip.Statement (.unpackhF16x2 x) := by
  intro _ hf
  generalize hw : encode (.unpackhF16x2 x) = w
  obtain ⟨hl, hm, b0, b1, b2, f0⟩ := layout7 (k := 0x32000033) (m := 25) (g0 := 51) (x0 := x.g) (x1 := x.d) (x2 := x.a) hw rfl (by decide) (by decide)
  exact decode_of hl ((raw19 hm).trans (by simp [decode19, b0, b1, b2, f0])) hf
theorem RoundTrip.iaddVs (x : VS) : RoundTrip.Statement (.iaddVs x) := by
  intro _ hf
  generalize hw : encode (.iaddVs x) = w
  obtain ⟨hl, hm, b0, b1, b2, b3, f0⟩ := layout8 (k := 0x34000000) (m := 26) (g0 := 0) (x0 := x.g) (x1 := x.d) (x2 := x.a) (x3 := x.s) hw rfl (by decide) (by decide)
  exact decode_of hl ((raw1A hm).trans (by simp [decode1A, b0, b1, b2, b3, f0])) hf
theorem RoundTrip.imulLoVs (x : VS) : RoundTrip.Statement (.imulLoVs x) := by
  intro _ hf
  generalize hw : encode (.imulLoVs x) = w
  obtain ⟨hl, hm, b0, b1, b2, b3, f0⟩ := layout8 (k := 0x34000001) (m := 26) (g0 := 1) (x0 := x.g) (x1 := x.d) (x2 := x.a) (x3 := x.s) hw rfl (by decide) (by decide)
  exact decode_of hl ((raw1A hm).trans (by simp [decode1A, b0, b1, b2, b3, f0])) hf
theorem RoundTrip.imulHiN32Vs (x : VS) : RoundTrip.Statement (.imulHiN32Vs x) := by
  intro _ hf
  generalize hw : encode (.imulHiN32Vs x) = w
  obtain ⟨hl, hm, b0, b1, b2, b3, f0⟩ := layout8 (k := 0x34000002) (m := 26) (g0 := 2) (x0 := x.g) (x1 := x.d) (x2 := x.a) (x3 := x.s) hw rfl (by decide) (by decide)
  exact decode_of hl ((raw1A hm).trans (by simp [decode1A, b0, b1, b2, b3, f0])) hf
theorem RoundTrip.iaddwS64 (x : VS) : RoundTrip.Statement (.iaddwS64 x) := by
  intro _ hf
  generalize hw : encode (.iaddwS64 x) = w
  obtain ⟨hl, hm, b0, b1, b2, b3, f0⟩ := layout8 (k := 0x34000003) (m := 26) (g0 := 3) (x0 := x.g) (x1 := x.d) (x2 := x.a) (x3 := x.s) hw rfl (by decide) (by decide)
  exact decode_of hl ((raw1A hm).trans (by simp [decode1A, b0, b1, b2, b3, f0])) hf
theorem RoundTrip.faddVs (x : VS) : RoundTrip.Statement (.faddVs x) := by
  intro _ hf
  generalize hw : encode (.faddVs x) = w
  obtain ⟨hl, hm, b0, b1, b2, b3, f0⟩ := layout8 (k := 0x36000000) (m := 27) (g0 := 0) (x0 := x.g) (x1 := x.d) (x2 := x.a) (x3 := x.s) hw rfl (by decide) (by decide)
  exact decode_of hl ((raw1B hm).trans (by simp [decode1B, b0, b1, b2, b3, f0])) hf
theorem RoundTrip.fsubVs (x : VS) : RoundTrip.Statement (.fsubVs x) := by
  intro _ hf
  generalize hw : encode (.fsubVs x) = w
  obtain ⟨hl, hm, b0, b1, b2, b3, f0⟩ := layout8 (k := 0x36000001) (m := 27) (g0 := 1) (x0 := x.g) (x1 := x.d) (x2 := x.a) (x3 := x.s) hw rfl (by decide) (by decide)
  exact decode_of hl ((raw1B hm).trans (by simp [decode1B, b0, b1, b2, b3, f0])) hf
theorem RoundTrip.fmulVs (x : VS) : RoundTrip.Statement (.fmulVs x) := by
  intro _ hf
  generalize hw : encode (.fmulVs x) = w
  obtain ⟨hl, hm, b0, b1, b2, b3, f0⟩ := layout8 (k := 0x36000002) (m := 27) (g0 := 2) (x0 := x.g) (x1 := x.d) (x2 := x.a) (x3 := x.s) hw rfl (by decide) (by decide)
  exact decode_of hl ((raw1B hm).trans (by simp [decode1B, b0, b1, b2, b3, f0])) hf
theorem RoundTrip.ffmaVs (x : VS) : RoundTrip.Statement (.ffmaVs x) := by
  intro _ hf
  generalize hw : encode (.ffmaVs x) = w
  obtain ⟨hl, hm, b0, b1, b2, b3, f0⟩ := layout8 (k := 0x36000003) (m := 27) (g0 := 3) (x0 := x.g) (x1 := x.d) (x2 := x.a) (x3 := x.s) hw rfl (by decide) (by decide)
  exact decode_of hl ((raw1B hm).trans (by simp [decode1B, b0, b1, b2, b3, f0])) hf
theorem RoundTrip.lpick (x : LM) : RoundTrip.Statement (.lpick x) := by
  intro _ hf
  generalize hw : encode (.lpick x) = w
  obtain ⟨hl, hm, b0, b1, b2, b3, b4, f0⟩ := layout9 (k := 0x38000000) (m := 28) (g0 := 0) (x0 := x.g) (x1 := x.d) (x2 := x.a) (x3 := x.pv) (x4 := x.sub) hw rfl (by decide) (by decide)
  exact decode_of hl ((raw1C hm).trans (by simp [decode1C, b0, b1, b2, b3, b4, f0])) hf
theorem RoundTrip.lrot (x : LM) : RoundTrip.Statement (.lrot x) := by
  intro _ hf
  generalize hw : encode (.lrot x) = w
  obtain ⟨hl, hm, b0, b1, b2, b3, b4, f0⟩ := layout9 (k := 0x38000004) (m := 28) (g0 := 1) (x0 := x.g) (x1 := x.d) (x2 := x.a) (x3 := x.pv) (x4 := x.sub) hw rfl (by decide) (by decide)
  exact decode_of hl ((raw1C hm).trans (by simp [decode1C, b0, b1, b2, b3, b4, f0])) hf
theorem RoundTrip.lslide (x : LM) : RoundTrip.Statement (.lslide x) := by
  intro _ hf
  generalize hw : encode (.lslide x) = w
  obtain ⟨hl, hm, b0, b1, b2, b3, b4, f0⟩ := layout9 (k := 0x38000008) (m := 28) (g0 := 2) (x0 := x.g) (x1 := x.d) (x2 := x.a) (x3 := x.pv) (x4 := x.sub) hw rfl (by decide) (by decide)
  exact decode_of hl ((raw1C hm).trans (by simp [decode1C, b0, b1, b2, b3, b4, f0])) hf
theorem RoundTrip.lflip (x : LM) : RoundTrip.Statement (.lflip x) := by
  intro _ hf
  generalize hw : encode (.lflip x) = w
  obtain ⟨hl, hm, b0, b1, b2, b3, b4, f0⟩ := layout9 (k := 0x3800000C) (m := 28) (g0 := 3) (x0 := x.g) (x1 := x.d) (x2 := x.a) (x3 := x.pv) (x4 := x.sub) hw rfl (by decide) (by decide)
  exact decode_of hl ((raw1C hm).trans (by simp [decode1C, b0, b1, b2, b3, b4, f0])) hf
theorem RoundTrip.lrev (x : LM) : RoundTrip.Statement (.lrev x) := by
  intro _ hf
  generalize hw : encode (.lrev x) = w
  obtain ⟨hl, hm, b0, b1, b2, b3, b4, f0⟩ := layout9 (k := 0x38000010) (m := 28) (g0 := 4) (x0 := x.g) (x1 := x.d) (x2 := x.a) (x3 := x.pv) (x4 := x.sub) hw rfl (by decide) (by decide)
  exact decode_of hl ((raw1C hm).trans (by simp [decode1C, b0, b1, b2, b3, b4, f0])) hf
theorem RoundTrip.lfoldIaddS32 (x : LF) : RoundTrip.Statement (.lfoldIaddS32 x) := by
  intro _ hf
  generalize hw : encode (.lfoldIaddS32 x) = w
  obtain ⟨hl, hm, b0, b1, b2, b3, f0⟩ := layout10 (k := 0x3A000000) (m := 29) (g0 := 0) (x0 := x.g) (x1 := x.d) (x2 := x.a) (x3 := x.pv) hw rfl (by decide) (by decide)
  exact decode_of hl ((raw1D hm).trans (by simp [decode1D, b0, b1, b2, b3, f0])) hf
theorem RoundTrip.lfoldIminS32 (x : LF) : RoundTrip.Statement (.lfoldIminS32 x) := by
  intro _ hf
  generalize hw : encode (.lfoldIminS32 x) = w
  obtain ⟨hl, hm, b0, b1, b2, b3, f0⟩ := layout10 (k := 0x3A000001) (m := 29) (g0 := 1) (x0 := x.g) (x1 := x.d) (x2 := x.a) (x3 := x.pv) hw rfl (by decide) (by decide)
  exact decode_of hl ((raw1D hm).trans (by simp [decode1D, b0, b1, b2, b3, f0])) hf
theorem RoundTrip.lfoldImaxS32 (x : LF) : RoundTrip.Statement (.lfoldImaxS32 x) := by
  intro _ hf
  generalize hw : encode (.lfoldImaxS32 x) = w
  obtain ⟨hl, hm, b0, b1, b2, b3, f0⟩ := layout10 (k := 0x3A000002) (m := 29) (g0 := 2) (x0 := x.g) (x1 := x.d) (x2 := x.a) (x3 := x.pv) hw rfl (by decide) (by decide)
  exact decode_of hl ((raw1D hm).trans (by simp [decode1D, b0, b1, b2, b3, f0])) hf
theorem RoundTrip.lfoldFaddF32 (x : LF) : RoundTrip.Statement (.lfoldFaddF32 x) := by
  intro _ hf
  generalize hw : encode (.lfoldFaddF32 x) = w
  obtain ⟨hl, hm, b0, b1, b2, b3, f0⟩ := layout10 (k := 0x3A000003) (m := 29) (g0 := 3) (x0 := x.g) (x1 := x.d) (x2 := x.a) (x3 := x.pv) hw rfl (by decide) (by decide)
  exact decode_of hl ((raw1D hm).trans (by simp [decode1D, b0, b1, b2, b3, f0])) hf
theorem RoundTrip.lfoldIminN32 (x : LF) : RoundTrip.Statement (.lfoldIminN32 x) := by
  intro _ hf
  generalize hw : encode (.lfoldIminN32 x) = w
  obtain ⟨hl, hm, b0, b1, b2, b3, f0⟩ := layout10 (k := 0x3A000004) (m := 29) (g0 := 4) (x0 := x.g) (x1 := x.d) (x2 := x.a) (x3 := x.pv) hw rfl (by decide) (by decide)
  exact decode_of hl ((raw1D hm).trans (by simp [decode1D, b0, b1, b2, b3, f0])) hf
theorem RoundTrip.lfoldImaxN32 (x : LF) : RoundTrip.Statement (.lfoldImaxN32 x) := by
  intro _ hf
  generalize hw : encode (.lfoldImaxN32 x) = w
  obtain ⟨hl, hm, b0, b1, b2, b3, f0⟩ := layout10 (k := 0x3A000005) (m := 29) (g0 := 5) (x0 := x.g) (x1 := x.d) (x2 := x.a) (x3 := x.pv) hw rfl (by decide) (by decide)
  exact decode_of hl ((raw1D hm).trans (by simp [decode1D, b0, b1, b2, b3, f0])) hf
theorem RoundTrip.lfoldFminF32 (x : LF) : RoundTrip.Statement (.lfoldFminF32 x) := by
  intro _ hf
  generalize hw : encode (.lfoldFminF32 x) = w
  obtain ⟨hl, hm, b0, b1, b2, b3, f0⟩ := layout10 (k := 0x3A000006) (m := 29) (g0 := 6) (x0 := x.g) (x1 := x.d) (x2 := x.a) (x3 := x.pv) hw rfl (by decide) (by decide)
  exact decode_of hl ((raw1D hm).trans (by simp [decode1D, b0, b1, b2, b3, f0])) hf
theorem RoundTrip.lfoldFmaxF32 (x : LF) : RoundTrip.Statement (.lfoldFmaxF32 x) := by
  intro _ hf
  generalize hw : encode (.lfoldFmaxF32 x) = w
  obtain ⟨hl, hm, b0, b1, b2, b3, f0⟩ := layout10 (k := 0x3A000007) (m := 29) (g0 := 7) (x0 := x.g) (x1 := x.d) (x2 := x.a) (x3 := x.pv) hw rfl (by decide) (by decide)
  exact decode_of hl ((raw1D hm).trans (by simp [decode1D, b0, b1, b2, b3, f0])) hf
theorem RoundTrip.lfoldAndB32 (x : LF) : RoundTrip.Statement (.lfoldAndB32 x) := by
  intro _ hf
  generalize hw : encode (.lfoldAndB32 x) = w
  obtain ⟨hl, hm, b0, b1, b2, b3, f0⟩ := layout10 (k := 0x3A000008) (m := 29) (g0 := 8) (x0 := x.g) (x1 := x.d) (x2 := x.a) (x3 := x.pv) hw rfl (by decide) (by decide)
  exact decode_of hl ((raw1D hm).trans (by simp [decode1D, b0, b1, b2, b3, f0])) hf
theorem RoundTrip.lfoldOrB32 (x : LF) : RoundTrip.Statement (.lfoldOrB32 x) := by
  intro _ hf
  generalize hw : encode (.lfoldOrB32 x) = w
  obtain ⟨hl, hm, b0, b1, b2, b3, f0⟩ := layout10 (k := 0x3A000009) (m := 29) (g0 := 9) (x0 := x.g) (x1 := x.d) (x2 := x.a) (x3 := x.pv) hw rfl (by decide) (by decide)
  exact decode_of hl ((raw1D hm).trans (by simp [decode1D, b0, b1, b2, b3, f0])) hf
theorem RoundTrip.lfoldXorB32 (x : LF) : RoundTrip.Statement (.lfoldXorB32 x) := by
  intro _ hf
  generalize hw : encode (.lfoldXorB32 x) = w
  obtain ⟨hl, hm, b0, b1, b2, b3, f0⟩ := layout10 (k := 0x3A00000A) (m := 29) (g0 := 10) (x0 := x.g) (x1 := x.d) (x2 := x.a) (x3 := x.pv) hw rfl (by decide) (by decide)
  exact decode_of hl ((raw1D hm).trans (by simp [decode1D, b0, b1, b2, b3, f0])) hf
theorem RoundTrip.lpreIaddS32 (x : LF) : RoundTrip.Statement (.lpreIaddS32 x) := by
  intro _ hf
  generalize hw : encode (.lpreIaddS32 x) = w
  obtain ⟨hl, hm, b0, b1, b2, b3, f0⟩ := layout10 (k := 0x3A00000C) (m := 29) (g0 := 12) (x0 := x.g) (x1 := x.d) (x2 := x.a) (x3 := x.pv) hw rfl (by decide) (by decide)
  exact decode_of hl ((raw1D hm).trans (by simp [decode1D, b0, b1, b2, b3, f0])) hf
theorem RoundTrip.lpreIminS32 (x : LF) : RoundTrip.Statement (.lpreIminS32 x) := by
  intro _ hf
  generalize hw : encode (.lpreIminS32 x) = w
  obtain ⟨hl, hm, b0, b1, b2, b3, f0⟩ := layout10 (k := 0x3A00000D) (m := 29) (g0 := 13) (x0 := x.g) (x1 := x.d) (x2 := x.a) (x3 := x.pv) hw rfl (by decide) (by decide)
  exact decode_of hl ((raw1D hm).trans (by simp [decode1D, b0, b1, b2, b3, f0])) hf
theorem RoundTrip.lpreImaxS32 (x : LF) : RoundTrip.Statement (.lpreImaxS32 x) := by
  intro _ hf
  generalize hw : encode (.lpreImaxS32 x) = w
  obtain ⟨hl, hm, b0, b1, b2, b3, f0⟩ := layout10 (k := 0x3A00000E) (m := 29) (g0 := 14) (x0 := x.g) (x1 := x.d) (x2 := x.a) (x3 := x.pv) hw rfl (by decide) (by decide)
  exact decode_of hl ((raw1D hm).trans (by simp [decode1D, b0, b1, b2, b3, f0])) hf
theorem RoundTrip.lpreFaddF32 (x : LF) : RoundTrip.Statement (.lpreFaddF32 x) := by
  intro _ hf
  generalize hw : encode (.lpreFaddF32 x) = w
  obtain ⟨hl, hm, b0, b1, b2, b3, f0⟩ := layout10 (k := 0x3A00000F) (m := 29) (g0 := 15) (x0 := x.g) (x1 := x.d) (x2 := x.a) (x3 := x.pv) hw rfl (by decide) (by decide)
  exact decode_of hl ((raw1D hm).trans (by simp [decode1D, b0, b1, b2, b3, f0])) hf
theorem RoundTrip.lprexIaddS32 (x : LF) : RoundTrip.Statement (.lprexIaddS32 x) := by
  intro _ hf
  generalize hw : encode (.lprexIaddS32 x) = w
  obtain ⟨hl, hm, b0, b1, b2, b3, f0⟩ := layout10 (k := 0x3A000010) (m := 29) (g0 := 16) (x0 := x.g) (x1 := x.d) (x2 := x.a) (x3 := x.pv) hw rfl (by decide) (by decide)
  exact decode_of hl ((raw1D hm).trans (by simp [decode1D, b0, b1, b2, b3, f0])) hf
theorem RoundTrip.lprexIminS32 (x : LF) : RoundTrip.Statement (.lprexIminS32 x) := by
  intro _ hf
  generalize hw : encode (.lprexIminS32 x) = w
  obtain ⟨hl, hm, b0, b1, b2, b3, f0⟩ := layout10 (k := 0x3A000011) (m := 29) (g0 := 17) (x0 := x.g) (x1 := x.d) (x2 := x.a) (x3 := x.pv) hw rfl (by decide) (by decide)
  exact decode_of hl ((raw1D hm).trans (by simp [decode1D, b0, b1, b2, b3, f0])) hf
theorem RoundTrip.lprexImaxS32 (x : LF) : RoundTrip.Statement (.lprexImaxS32 x) := by
  intro _ hf
  generalize hw : encode (.lprexImaxS32 x) = w
  obtain ⟨hl, hm, b0, b1, b2, b3, f0⟩ := layout10 (k := 0x3A000012) (m := 29) (g0 := 18) (x0 := x.g) (x1 := x.d) (x2 := x.a) (x3 := x.pv) hw rfl (by decide) (by decide)
  exact decode_of hl ((raw1D hm).trans (by simp [decode1D, b0, b1, b2, b3, f0])) hf
theorem RoundTrip.lprexFaddF32 (x : LF) : RoundTrip.Statement (.lprexFaddF32 x) := by
  intro _ hf
  generalize hw : encode (.lprexFaddF32 x) = w
  obtain ⟨hl, hm, b0, b1, b2, b3, f0⟩ := layout10 (k := 0x3A000013) (m := 29) (g0 := 19) (x0 := x.g) (x1 := x.d) (x2 := x.a) (x3 := x.pv) hw rfl (by decide) (by decide)
  exact decode_of hl ((raw1D hm).trans (by simp [decode1D, b0, b1, b2, b3, f0])) hf
theorem RoundTrip.pmask (x : LC) : RoundTrip.Statement (.pmask x) := by
  intro _ hf
  generalize hw : encode (.pmask x) = w
  obtain ⟨hl, hm, b0, b1, b2, b3, f0, f1⟩ := layout11 (k := 0x3A000014) (m := 29) (g0 := 0) (g1 := 20) (x0 := x.g) (x1 := x.d) (x2 := x.pa) (x3 := x.pv) hw rfl (by decide) (by decide) (by decide)
  exact decode_of hl ((raw1D hm).trans (by simp [decode1D, b0, b1, b2, b3, f0, f1])) hf
theorem RoundTrip.pcount (x : LC) : RoundTrip.Statement (.pcount x) := by
  intro _ hf
  generalize hw : encode (.pcount x) = w
  obtain ⟨hl, hm, b0, b1, b2, b3, f0, f1⟩ := layout11 (k := 0x3A000015) (m := 29) (g0 := 0) (g1 := 21) (x0 := x.g) (x1 := x.d) (x2 := x.pa) (x3 := x.pv) hw rfl (by decide) (by decide) (by decide)
  exact decode_of hl ((raw1D hm).trans (by simp [decode1D, b0, b1, b2, b3, f0, f1])) hf
theorem RoundTrip.pfirst (x : LC) : RoundTrip.Statement (.pfirst x) := by
  intro _ hf
  generalize hw : encode (.pfirst x) = w
  obtain ⟨hl, hm, b0, b1, b2, b3, f0, f1⟩ := layout11 (k := 0x3A000016) (m := 29) (g0 := 0) (g1 := 22) (x0 := x.g) (x1 := x.d) (x2 := x.pa) (x3 := x.pv) hw rfl (by decide) (by decide) (by decide)
  exact decode_of hl ((raw1D hm).trans (by simp [decode1D, b0, b1, b2, b3, f0, f1])) hf
theorem RoundTrip.pparity (x : LC) : RoundTrip.Statement (.pparity x) := by
  intro _ hf
  generalize hw : encode (.pparity x) = w
  obtain ⟨hl, hm, b0, b1, b2, b3, f0, f1⟩ := layout11 (k := 0x3A000017) (m := 29) (g0 := 0) (g1 := 23) (x0 := x.g) (x1 := x.d) (x2 := x.pa) (x3 := x.pv) hw rfl (by decide) (by decide) (by decide)
  exact decode_of hl ((raw1D hm).trans (by simp [decode1D, b0, b1, b2, b3, f0, f1])) hf
theorem RoundTrip.lpeersB32 (x : LF) : RoundTrip.Statement (.lpeersB32 x) := by
  intro _ hf
  generalize hw : encode (.lpeersB32 x) = w
  obtain ⟨hl, hm, b0, b1, b2, b3, f0⟩ := layout10 (k := 0x3A000018) (m := 29) (g0 := 24) (x0 := x.g) (x1 := x.d) (x2 := x.a) (x3 := x.pv) hw rfl (by decide) (by decide)
  exact decode_of hl ((raw1D hm).trans (by simp [decode1D, b0, b1, b2, b3, f0])) hf
theorem RoundTrip.lpeersB64 (x : LF) : RoundTrip.Statement (.lpeersB64 x) := by
  intro _ hf
  generalize hw : encode (.lpeersB64 x) = w
  obtain ⟨hl, hm, b0, b1, b2, b3, f0⟩ := layout10 (k := 0x3A000019) (m := 29) (g0 := 25) (x0 := x.g) (x1 := x.d) (x2 := x.a) (x3 := x.pv) hw rfl (by decide) (by decide)
  exact decode_of hl ((raw1D hm).trans (by simp [decode1D, b0, b1, b2, b3, f0])) hf
theorem RoundTrip.lrankB32 (x : LF) : RoundTrip.Statement (.lrankB32 x) := by
  intro _ hf
  generalize hw : encode (.lrankB32 x) = w
  obtain ⟨hl, hm, b0, b1, b2, b3, f0⟩ := layout10 (k := 0x3A00001A) (m := 29) (g0 := 26) (x0 := x.g) (x1 := x.d) (x2 := x.a) (x3 := x.pv) hw rfl (by decide) (by decide)
  exact decode_of hl ((raw1D hm).trans (by simp [decode1D, b0, b1, b2, b3, f0])) hf
theorem RoundTrip.lrankB64 (x : LF) : RoundTrip.Statement (.lrankB64 x) := by
  intro _ hf
  generalize hw : encode (.lrankB64 x) = w
  obtain ⟨hl, hm, b0, b1, b2, b3, f0⟩ := layout10 (k := 0x3A00001B) (m := 29) (g0 := 27) (x0 := x.g) (x1 := x.d) (x2 := x.a) (x3 := x.pv) hw rfl (by decide) (by decide)
  exact decode_of hl ((raw1D hm).trans (by simp [decode1D, b0, b1, b2, b3, f0])) hf
theorem RoundTrip.lsameB32 (x : LF) : RoundTrip.Statement (.lsameB32 x) := by
  intro _ hf
  generalize hw : encode (.lsameB32 x) = w
  obtain ⟨hl, hm, b0, b1, b2, b3, f0⟩ := layout10 (k := 0x3A00001C) (m := 29) (g0 := 28) (x0 := x.g) (x1 := x.d) (x2 := x.a) (x3 := x.pv) hw rfl (by decide) (by decide)
  exact decode_of hl ((raw1D hm).trans (by simp [decode1D, b0, b1, b2, b3, f0])) hf
theorem RoundTrip.lsameB64 (x : LF) : RoundTrip.Statement (.lsameB64 x) := by
  intro _ hf
  generalize hw : encode (.lsameB64 x) = w
  obtain ⟨hl, hm, b0, b1, b2, b3, f0⟩ := layout10 (k := 0x3A00001D) (m := 29) (g0 := 29) (x0 := x.g) (x1 := x.d) (x2 := x.a) (x3 := x.pv) hw rfl (by decide) (by decide)
  exact decode_of hl ((raw1D hm).trans (by simp [decode1D, b0, b1, b2, b3, f0])) hf
theorem RoundTrip.movsRead (g : BitVec 3) (d : BitVec 7) (k : BitVec 1) (s : BitVec 14) : RoundTrip.Statement (.movsRead g d k s) := by
  intro _ hf
  generalize hw : encode (.movsRead g d k s) = w
  obtain ⟨hl, hm, b0, b1, b2, b3⟩ := layout12 (k := 0x3C000000) (m := 30) (x0 := g) (x1 := d) (x2 := k) (x3 := s) hw rfl (by decide)
  exact decode_of hl ((raw1E hm).trans (by simp [decode1E, b0, b1, b2, b3])) hf
theorem RoundTrip.movsWrite (g : BitVec 3) (d : BitVec 7) (k : BitVec 1) (s : BitVec 12) : RoundTrip.Statement (.movsWrite g d k s) := by
  intro _ hf
  generalize hw : encode (.movsWrite g d k s) = w
  obtain ⟨hl, hm, b0, b1, b2, b3, f0⟩ := layout13 (k := 0x3E000000) (m := 31) (g0 := 0) (x0 := g) (x1 := d) (x2 := k) (x3 := s) hw rfl (by decide) (by decide)
  exact decode_of hl ((raw1F hm).trans (by simp [decode1F, b0, b1, b2, b3, f0])) hf
theorem RoundTrip.bcastB32 (g : BitVec 3) (d : BitVec 7) (k : BitVec 6) : RoundTrip.Statement (.bcastB32 g d k) := by
  intro _ hf
  generalize hw : encode (.bcastB32 g d k) = w
  obtain ⟨hl, hm, b0, b1, b2, f0⟩ := layout14 (k := 0x3E001000) (m := 31) (g0 := 64) (x0 := g) (x1 := d) (x2 := k) hw rfl (by decide) (by decide)
  have n0 : fld w 12 2 = 1 := by unfold fld at *; omega
  exact decode_of hl ((raw1F hm).trans (by simp [decode1F, b0, b1, b2, f0, n0])) hf
theorem RoundTrip.rdlaneB32 (g : BitVec 3) (d : BitVec 7) (k : BitVec 6) (n : BitVec 5) : RoundTrip.Statement (.rdlaneB32 g d k n) := by
  intro _ hf
  generalize hw : encode (.rdlaneB32 g d k n) = w
  obtain ⟨hl, hm, b0, b1, b2, b3, f0⟩ := layout15 (k := 0x3E002000) (m := 31) (g0 := 4) (x0 := g) (x1 := d) (x2 := k) (x3 := n) hw rfl (by decide) (by decide)
  have n0 : fld w 12 2 = 2 := by unfold fld at *; omega
  have n1 : ¬ fld w 6 9 = 64 := by unfold fld at *; omega
  exact decode_of hl ((raw1F hm).trans (by simp [decode1F, b0, b1, b2, b3, f0, n0, n1])) hf
theorem RoundTrip.rdlaneFirstB32 (g : BitVec 3) (d : BitVec 7) (k : BitVec 6) : RoundTrip.Statement (.rdlaneFirstB32 g d k) := by
  intro _ hf
  generalize hw : encode (.rdlaneFirstB32 g d k) = w
  obtain ⟨hl, hm, b0, b1, b2, f0, f1⟩ := layout16 (k := 0x3E002800) (m := 31) (g0 := 5) (g1 := 0) (x0 := g) (x1 := d) (x2 := k) hw rfl (by decide) (by decide) (by decide)
  have n0 : fld w 12 2 = 2 := by unfold fld at *; omega
  have n1 : ¬ fld w 6 9 = 64 := by unfold fld at *; omega
  exact decode_of hl ((raw1F hm).trans (by simp [decode1F, b0, b1, b2, f0, f1, n0, n1])) hf
theorem RoundTrip.sIadd (x : S3) : RoundTrip.Statement (.sIadd x) := by
  intro _ hf
  generalize hw : encode (.sIadd x) = w
  obtain ⟨hl, hm, b0, b1, b2, f0, f1⟩ := layout17 (k := 0x40000000) (m := 32) (g0 := 0) (g1 := 0) (x0 := x.d) (x1 := x.a) (x2 := x.b) hw rfl (by decide) (by decide) (by decide)
  exact decode_of hl ((raw20 hm).trans (by simp [decode20, b0, b1, b2, f0, f1])) hf
theorem RoundTrip.sIsub (x : S3) : RoundTrip.Statement (.sIsub x) := by
  intro _ hf
  generalize hw : encode (.sIsub x) = w
  obtain ⟨hl, hm, b0, b1, b2, f0, f1⟩ := layout17 (k := 0x40000001) (m := 32) (g0 := 0) (g1 := 1) (x0 := x.d) (x1 := x.a) (x2 := x.b) hw rfl (by decide) (by decide) (by decide)
  exact decode_of hl ((raw20 hm).trans (by simp [decode20, b0, b1, b2, f0, f1])) hf
theorem RoundTrip.sImulLo (x : S3) : RoundTrip.Statement (.sImulLo x) := by
  intro _ hf
  generalize hw : encode (.sImulLo x) = w
  obtain ⟨hl, hm, b0, b1, b2, f0, f1⟩ := layout17 (k := 0x40000002) (m := 32) (g0 := 0) (g1 := 2) (x0 := x.d) (x1 := x.a) (x2 := x.b) hw rfl (by decide) (by decide) (by decide)
  exact decode_of hl ((raw20 hm).trans (by simp [decode20, b0, b1, b2, f0, f1])) hf
theorem RoundTrip.sImulHiS (x : S3) : RoundTrip.Statement (.sImulHiS x) := by
  intro _ hf
  generalize hw : encode (.sImulHiS x) = w
  obtain ⟨hl, hm, b0, b1, b2, f0, f1⟩ := layout17 (k := 0x40000003) (m := 32) (g0 := 0) (g1 := 3) (x0 := x.d) (x1 := x.a) (x2 := x.b) hw rfl (by decide) (by decide) (by decide)
  exact decode_of hl ((raw20 hm).trans (by simp [decode20, b0, b1, b2, f0, f1])) hf
theorem RoundTrip.sImulHiN (x : S3) : RoundTrip.Statement (.sImulHiN x) := by
  intro _ hf
  generalize hw : encode (.sImulHiN x) = w
  obtain ⟨hl, hm, b0, b1, b2, f0, f1⟩ := layout17 (k := 0x40000004) (m := 32) (g0 := 0) (g1 := 4) (x0 := x.d) (x1 := x.a) (x2 := x.b) hw rfl (by decide) (by decide) (by decide)
  exact decode_of hl ((raw20 hm).trans (by simp [decode20, b0, b1, b2, f0, f1])) hf
theorem RoundTrip.sIminS (x : S3) : RoundTrip.Statement (.sIminS x) := by
  intro _ hf
  generalize hw : encode (.sIminS x) = w
  obtain ⟨hl, hm, b0, b1, b2, f0, f1⟩ := layout17 (k := 0x40000005) (m := 32) (g0 := 0) (g1 := 5) (x0 := x.d) (x1 := x.a) (x2 := x.b) hw rfl (by decide) (by decide) (by decide)
  exact decode_of hl ((raw20 hm).trans (by simp [decode20, b0, b1, b2, f0, f1])) hf
theorem RoundTrip.sImaxS (x : S3) : RoundTrip.Statement (.sImaxS x) := by
  intro _ hf
  generalize hw : encode (.sImaxS x) = w
  obtain ⟨hl, hm, b0, b1, b2, f0, f1⟩ := layout17 (k := 0x40000006) (m := 32) (g0 := 0) (g1 := 6) (x0 := x.d) (x1 := x.a) (x2 := x.b) hw rfl (by decide) (by decide) (by decide)
  exact decode_of hl ((raw20 hm).trans (by simp [decode20, b0, b1, b2, f0, f1])) hf
theorem RoundTrip.sIminN (x : S3) : RoundTrip.Statement (.sIminN x) := by
  intro _ hf
  generalize hw : encode (.sIminN x) = w
  obtain ⟨hl, hm, b0, b1, b2, f0, f1⟩ := layout17 (k := 0x40000007) (m := 32) (g0 := 0) (g1 := 7) (x0 := x.d) (x1 := x.a) (x2 := x.b) hw rfl (by decide) (by decide) (by decide)
  exact decode_of hl ((raw20 hm).trans (by simp [decode20, b0, b1, b2, f0, f1])) hf
theorem RoundTrip.sImaxN (x : S3) : RoundTrip.Statement (.sImaxN x) := by
  intro _ hf
  generalize hw : encode (.sImaxN x) = w
  obtain ⟨hl, hm, b0, b1, b2, f0, f1⟩ := layout17 (k := 0x40000008) (m := 32) (g0 := 0) (g1 := 8) (x0 := x.d) (x1 := x.a) (x2 := x.b) hw rfl (by decide) (by decide) (by decide)
  exact decode_of hl ((raw20 hm).trans (by simp [decode20, b0, b1, b2, f0, f1])) hf
theorem RoundTrip.sAnd (x : S3) : RoundTrip.Statement (.sAnd x) := by
  intro _ hf
  generalize hw : encode (.sAnd x) = w
  obtain ⟨hl, hm, b0, b1, b2, f0, f1⟩ := layout17 (k := 0x40000009) (m := 32) (g0 := 0) (g1 := 9) (x0 := x.d) (x1 := x.a) (x2 := x.b) hw rfl (by decide) (by decide) (by decide)
  exact decode_of hl ((raw20 hm).trans (by simp [decode20, b0, b1, b2, f0, f1])) hf
theorem RoundTrip.sOr (x : S3) : RoundTrip.Statement (.sOr x) := by
  intro _ hf
  generalize hw : encode (.sOr x) = w
  obtain ⟨hl, hm, b0, b1, b2, f0, f1⟩ := layout17 (k := 0x4000000A) (m := 32) (g0 := 0) (g1 := 10) (x0 := x.d) (x1 := x.a) (x2 := x.b) hw rfl (by decide) (by decide) (by decide)
  exact decode_of hl ((raw20 hm).trans (by simp [decode20, b0, b1, b2, f0, f1])) hf
theorem RoundTrip.sXor (x : S3) : RoundTrip.Statement (.sXor x) := by
  intro _ hf
  generalize hw : encode (.sXor x) = w
  obtain ⟨hl, hm, b0, b1, b2, f0, f1⟩ := layout17 (k := 0x4000000B) (m := 32) (g0 := 0) (g1 := 11) (x0 := x.d) (x1 := x.a) (x2 := x.b) hw rfl (by decide) (by decide) (by decide)
  exact decode_of hl ((raw20 hm).trans (by simp [decode20, b0, b1, b2, f0, f1])) hf
theorem RoundTrip.sAndn (x : S3) : RoundTrip.Statement (.sAndn x) := by
  intro _ hf
  generalize hw : encode (.sAndn x) = w
  obtain ⟨hl, hm, b0, b1, b2, f0, f1⟩ := layout17 (k := 0x4000000C) (m := 32) (g0 := 0) (g1 := 12) (x0 := x.d) (x1 := x.a) (x2 := x.b) hw rfl (by decide) (by decide) (by decide)
  exact decode_of hl ((raw20 hm).trans (by simp [decode20, b0, b1, b2, f0, f1])) hf
theorem RoundTrip.sShl (x : S3) : RoundTrip.Statement (.sShl x) := by
  intro _ hf
  generalize hw : encode (.sShl x) = w
  obtain ⟨hl, hm, b0, b1, b2, f0, f1⟩ := layout17 (k := 0x4000000D) (m := 32) (g0 := 0) (g1 := 13) (x0 := x.d) (x1 := x.a) (x2 := x.b) hw rfl (by decide) (by decide) (by decide)
  exact decode_of hl ((raw20 hm).trans (by simp [decode20, b0, b1, b2, f0, f1])) hf
theorem RoundTrip.sShr (x : S3) : RoundTrip.Statement (.sShr x) := by
  intro _ hf
  generalize hw : encode (.sShr x) = w
  obtain ⟨hl, hm, b0, b1, b2, f0, f1⟩ := layout17 (k := 0x4000000E) (m := 32) (g0 := 0) (g1 := 14) (x0 := x.d) (x1 := x.a) (x2 := x.b) hw rfl (by decide) (by decide) (by decide)
  exact decode_of hl ((raw20 hm).trans (by simp [decode20, b0, b1, b2, f0, f1])) hf
theorem RoundTrip.sSar (x : S3) : RoundTrip.Statement (.sSar x) := by
  intro _ hf
  generalize hw : encode (.sSar x) = w
  obtain ⟨hl, hm, b0, b1, b2, f0, f1⟩ := layout17 (k := 0x4000000F) (m := 32) (g0 := 0) (g1 := 15) (x0 := x.d) (x1 := x.a) (x2 := x.b) hw rfl (by decide) (by decide) (by decide)
  exact decode_of hl ((raw20 hm).trans (by simp [decode20, b0, b1, b2, f0, f1])) hf
theorem RoundTrip.sRot (x : S3) : RoundTrip.Statement (.sRot x) := by
  intro _ hf
  generalize hw : encode (.sRot x) = w
  obtain ⟨hl, hm, b0, b1, b2, f0, f1⟩ := layout17 (k := 0x40400000) (m := 32) (g0 := 1) (g1 := 0) (x0 := x.d) (x1 := x.a) (x2 := x.b) hw rfl (by decide) (by decide) (by decide)
  exact decode_of hl ((raw20 hm).trans (by simp [decode20, b0, b1, b2, f0, f1])) hf
theorem RoundTrip.sPopc (x : S2) : RoundTrip.Statement (.sPopc x) := by
  intro _ hf
  generalize hw : encode (.sPopc x) = w
  obtain ⟨hl, hm, b0, b1, f0, f1⟩ := layout18 (k := 0x40400001) (m := 32) (g0 := 1) (g1 := 1) (x0 := x.d) (x1 := x.a) hw rfl (by decide) (by decide) (by decide)
  have n0 : fld w 0 4 = 1 := by unfold fld at *; omega
  exact decode_of hl ((raw20 hm).trans (by simp [decode20, b0, b1, f0, f1, n0])) hf
theorem RoundTrip.sClz (x : S2) : RoundTrip.Statement (.sClz x) := by
  intro _ hf
  generalize hw : encode (.sClz x) = w
  obtain ⟨hl, hm, b0, b1, f0, f1⟩ := layout18 (k := 0x40400002) (m := 32) (g0 := 1) (g1 := 2) (x0 := x.d) (x1 := x.a) hw rfl (by decide) (by decide) (by decide)
  have n0 : fld w 0 4 = 2 := by unfold fld at *; omega
  exact decode_of hl ((raw20 hm).trans (by simp [decode20, b0, b1, f0, f1, n0])) hf
theorem RoundTrip.sCtz (x : S2) : RoundTrip.Statement (.sCtz x) := by
  intro _ hf
  generalize hw : encode (.sCtz x) = w
  obtain ⟨hl, hm, b0, b1, f0, f1⟩ := layout18 (k := 0x40400003) (m := 32) (g0 := 1) (g1 := 3) (x0 := x.d) (x1 := x.a) hw rfl (by decide) (by decide) (by decide)
  have n0 : fld w 0 4 = 3 := by unfold fld at *; omega
  exact decode_of hl ((raw20 hm).trans (by simp [decode20, b0, b1, f0, f1, n0])) hf
theorem RoundTrip.sBrev (x : S2) : RoundTrip.Statement (.sBrev x) := by
  intro _ hf
  generalize hw : encode (.sBrev x) = w
  obtain ⟨hl, hm, b0, b1, f0, f1⟩ := layout18 (k := 0x40400004) (m := 32) (g0 := 1) (g1 := 4) (x0 := x.d) (x1 := x.a) hw rfl (by decide) (by decide) (by decide)
  have n0 : fld w 0 4 = 4 := by unfold fld at *; omega
  exact decode_of hl ((raw20 hm).trans (by simp [decode20, b0, b1, f0, f1, n0])) hf
theorem RoundTrip.sNot (x : S2) : RoundTrip.Statement (.sNot x) := by
  intro _ hf
  generalize hw : encode (.sNot x) = w
  obtain ⟨hl, hm, b0, b1, f0, f1⟩ := layout18 (k := 0x40400005) (m := 32) (g0 := 1) (g1 := 5) (x0 := x.d) (x1 := x.a) hw rfl (by decide) (by decide) (by decide)
  have n0 : fld w 0 4 = 5 := by unfold fld at *; omega
  exact decode_of hl ((raw20 hm).trans (by simp [decode20, b0, b1, f0, f1, n0])) hf
theorem RoundTrip.sIaddS64 (x : S3) : RoundTrip.Statement (.sIaddS64 x) := by
  intro _ hf
  generalize hw : encode (.sIaddS64 x) = w
  obtain ⟨hl, hm, b0, b1, b2, f0, f1⟩ := layout17 (k := 0x40400008) (m := 32) (g0 := 1) (g1 := 8) (x0 := x.d) (x1 := x.a) (x2 := x.b) hw rfl (by decide) (by decide) (by decide)
  have n0 : ¬ fld w 0 10 = 1 := by unfold fld at *; omega
  have n1 : ¬ fld w 0 10 = 2 := by unfold fld at *; omega
  have n2 : ¬ fld w 0 10 = 3 := by unfold fld at *; omega
  have n3 : ¬ fld w 0 10 = 4 := by unfold fld at *; omega
  have n4 : ¬ fld w 0 10 = 5 := by unfold fld at *; omega
  exact decode_of hl ((raw20 hm).trans (by simp [decode20, b0, b1, b2, f0, f1, n0, n1, n2, n3, n4])) hf
theorem RoundTrip.sIsubS64 (x : S3) : RoundTrip.Statement (.sIsubS64 x) := by
  intro _ hf
  generalize hw : encode (.sIsubS64 x) = w
  obtain ⟨hl, hm, b0, b1, b2, f0, f1⟩ := layout17 (k := 0x40400009) (m := 32) (g0 := 1) (g1 := 9) (x0 := x.d) (x1 := x.a) (x2 := x.b) hw rfl (by decide) (by decide) (by decide)
  have n0 : ¬ fld w 0 10 = 1 := by unfold fld at *; omega
  have n1 : ¬ fld w 0 10 = 2 := by unfold fld at *; omega
  have n2 : ¬ fld w 0 10 = 3 := by unfold fld at *; omega
  have n3 : ¬ fld w 0 10 = 4 := by unfold fld at *; omega
  have n4 : ¬ fld w 0 10 = 5 := by unfold fld at *; omega
  exact decode_of hl ((raw20 hm).trans (by simp [decode20, b0, b1, b2, f0, f1, n0, n1, n2, n3, n4])) hf
theorem RoundTrip.sFadd (x : S3) : RoundTrip.Statement (.sFadd x) := by
  intro _ hf
  generalize hw : encode (.sFadd x) = w
  obtain ⟨hl, hm, b0, b1, b2, f0, f1⟩ := layout17 (k := 0x40800000) (m := 32) (g0 := 2) (g1 := 0) (x0 := x.d) (x1 := x.a) (x2 := x.b) hw rfl (by decide) (by decide) (by decide)
  exact decode_of hl ((raw20 hm).trans (by simp [decode20, b0, b1, b2, f0, f1])) hf
theorem RoundTrip.sFsub (x : S3) : RoundTrip.Statement (.sFsub x) := by
  intro _ hf
  generalize hw : encode (.sFsub x) = w
  obtain ⟨hl, hm, b0, b1, b2, f0, f1⟩ := layout17 (k := 0x40800001) (m := 32) (g0 := 2) (g1 := 1) (x0 := x.d) (x1 := x.a) (x2 := x.b) hw rfl (by decide) (by decide) (by decide)
  exact decode_of hl ((raw20 hm).trans (by simp [decode20, b0, b1, b2, f0, f1])) hf
theorem RoundTrip.sFmul (x : S3) : RoundTrip.Statement (.sFmul x) := by
  intro _ hf
  generalize hw : encode (.sFmul x) = w
  obtain ⟨hl, hm, b0, b1, b2, f0, f1⟩ := layout17 (k := 0x40800002) (m := 32) (g0 := 2) (g1 := 2) (x0 := x.d) (x1 := x.a) (x2 := x.b) hw rfl (by decide) (by decide) (by decide)
  exact decode_of hl ((raw20 hm).trans (by simp [decode20, b0, b1, b2, f0, f1])) hf
theorem RoundTrip.sFfma (x : S3) : RoundTrip.Statement (.sFfma x) := by
  intro _ hf
  generalize hw : encode (.sFfma x) = w
  obtain ⟨hl, hm, b0, b1, b2, f0, f1⟩ := layout17 (k := 0x40800003) (m := 32) (g0 := 2) (g1 := 3) (x0 := x.d) (x1 := x.a) (x2 := x.b) hw rfl (by decide) (by decide) (by decide)
  exact decode_of hl ((raw20 hm).trans (by simp [decode20, b0, b1, b2, f0, f1])) hf
theorem RoundTrip.sFmin (x : S3) : RoundTrip.Statement (.sFmin x) := by
  intro _ hf
  generalize hw : encode (.sFmin x) = w
  obtain ⟨hl, hm, b0, b1, b2, f0, f1⟩ := layout17 (k := 0x40800004) (m := 32) (g0 := 2) (g1 := 4) (x0 := x.d) (x1 := x.a) (x2 := x.b) hw rfl (by decide) (by decide) (by decide)
  exact decode_of hl ((raw20 hm).trans (by simp [decode20, b0, b1, b2, f0, f1])) hf
theorem RoundTrip.sFmax (x : S3) : RoundTrip.Statement (.sFmax x) := by
  intro _ hf
  generalize hw : encode (.sFmax x) = w
  obtain ⟨hl, hm, b0, b1, b2, f0, f1⟩ := layout17 (k := 0x40800005) (m := 32) (g0 := 2) (g1 := 5) (x0 := x.d) (x1 := x.a) (x2 := x.b) hw rfl (by decide) (by decide) (by decide)
  exact decode_of hl ((raw20 hm).trans (by simp [decode20, b0, b1, b2, f0, f1])) hf
theorem RoundTrip.sCvtF32S32 (x : S2) : RoundTrip.Statement (.sCvtF32S32 x) := by
  intro _ hf
  generalize hw : encode (.sCvtF32S32 x) = w
  obtain ⟨hl, hm, b0, b1, f0, f1⟩ := layout18 (k := 0x40800008) (m := 32) (g0 := 2) (g1 := 8) (x0 := x.d) (x1 := x.a) hw rfl (by decide) (by decide) (by decide)
  have n0 : fld w 0 4 = 8 := by unfold fld at *; omega
  exact decode_of hl ((raw20 hm).trans (by simp [decode20, b0, b1, f0, f1, n0])) hf
theorem RoundTrip.sCvtF32N32 (x : S2) : RoundTrip.Statement (.sCvtF32N32 x) := by
  intro _ hf
  generalize hw : encode (.sCvtF32N32 x) = w
  obtain ⟨hl, hm, b0, b1, f0, f1⟩ := layout18 (k := 0x40800009) (m := 32) (g0 := 2) (g1 := 9) (x0 := x.d) (x1 := x.a) hw rfl (by decide) (by decide) (by decide)
  have n0 : fld w 0 4 = 9 := by unfold fld at *; omega
  exact decode_of hl ((raw20 hm).trans (by simp [decode20, b0, b1, f0, f1, n0])) hf
theorem RoundTrip.sCvtS32F32 (x : S2) : RoundTrip.Statement (.sCvtS32F32 x) := by
  intro _ hf
  generalize hw : encode (.sCvtS32F32 x) = w
  obtain ⟨hl, hm, b0, b1, f0, f1⟩ := layout18 (k := 0x4080000A) (m := 32) (g0 := 2) (g1 := 10) (x0 := x.d) (x1 := x.a) hw rfl (by decide) (by decide) (by decide)
  have n0 : fld w 0 4 = 10 := by unfold fld at *; omega
  exact decode_of hl ((raw20 hm).trans (by simp [decode20, b0, b1, f0, f1, n0])) hf
theorem RoundTrip.sCvtN32F32 (x : S2) : RoundTrip.Statement (.sCvtN32F32 x) := by
  intro _ hf
  generalize hw : encode (.sCvtN32F32 x) = w
  obtain ⟨hl, hm, b0, b1, f0, f1⟩ := layout18 (k := 0x4080000B) (m := 32) (g0 := 2) (g1 := 11) (x0 := x.d) (x1 := x.a) hw rfl (by decide) (by decide) (by decide)
  have n0 : fld w 0 4 = 11 := by unfold fld at *; omega
  exact decode_of hl ((raw20 hm).trans (by simp [decode20, b0, b1, f0, f1, n0])) hf
theorem RoundTrip.sIcmpS32 (x : SC) : RoundTrip.Statement (.sIcmpS32 x) := by
  intro _ hf
  generalize hw : encode (.sIcmpS32 x) = w
  obtain ⟨hl, hm, b0, b1, b2, b3, f0, f1⟩ := layout19 (k := 0x46000000) (m := 35) (g0 := 0) (g1 := 0) (x0 := x.d) (x1 := x.a) (x2 := x.b) (x3 := x.cc) hw rfl (by decide) (by decide) (by decide)
  exact decode_of hl ((raw23 hm).trans (by simp [decode23, b0, b1, b2, b3, f0, f1])) hf
theorem RoundTrip.sIcmpN32 (x : SC) : RoundTrip.Statement (.sIcmpN32 x) := by
  intro _ hf
  generalize hw : encode (.sIcmpN32 x) = w
  obtain ⟨hl, hm, b0, b1, b2, b3, f0, f1⟩ := layout19 (k := 0x46000008) (m := 35) (g0 := 0) (g1 := 1) (x0 := x.d) (x1 := x.a) (x2 := x.b) (x3 := x.cc) hw rfl (by decide) (by decide) (by decide)
  exact decode_of hl ((raw23 hm).trans (by simp [decode23, b0, b1, b2, b3, f0, f1])) hf
theorem RoundTrip.sFcmpF32 (x : SC) : RoundTrip.Statement (.sFcmpF32 x) := by
  intro _ hf
  generalize hw : encode (.sFcmpF32 x) = w
  obtain ⟨hl, hm, b0, b1, b2, b3, f0, f1⟩ := layout19 (k := 0x46400000) (m := 35) (g0 := 1) (g1 := 0) (x0 := x.d) (x1 := x.a) (x2 := x.b) (x3 := x.cc) hw rfl (by decide) (by decide) (by decide)
  exact decode_of hl ((raw23 hm).trans (by simp [decode23, b0, b1, b2, b3, f0, f1])) hf
theorem RoundTrip.csel (x : S3) : RoundTrip.Statement (.csel x) := by
  intro _ hf
  generalize hw : encode (.csel x) = w
  obtain ⟨hl, hm, b0, b1, b2, f0, f1⟩ := layout17 (k := 0x46800000) (m := 35) (g0 := 2) (g1 := 0) (x0 := x.d) (x1 := x.a) (x2 := x.b) hw rfl (by decide) (by decide) (by decide)
  exact decode_of hl ((raw23 hm).trans (by simp [decode23, b0, b1, b2, f0, f1])) hf
theorem RoundTrip.sIaddi (x : SI) : RoundTrip.Statement (.sIaddi x) := by
  intro _ hf
  generalize hw : encode (.sIaddi x) = w
  obtain ⟨hl, hm, b0, b1, b2, f0⟩ := layout20 (k := 0x42000000) (m := 33) (g0 := 0) (x0 := x.d) (x1 := x.a) (x2 := x.imm) hw rfl (by decide) (by decide)
  exact decode_of hl ((raw21 hm).trans (by simp [decode21, b0, b1, b2, f0])) hf
theorem RoundTrip.sAndi (x : SI) : RoundTrip.Statement (.sAndi x) := by
  intro _ hf
  generalize hw : encode (.sAndi x) = w
  obtain ⟨hl, hm, b0, b1, b2, f0⟩ := layout20 (k := 0x42400000) (m := 33) (g0 := 1) (x0 := x.d) (x1 := x.a) (x2 := x.imm) hw rfl (by decide) (by decide)
  exact decode_of hl ((raw21 hm).trans (by simp [decode21, b0, b1, b2, f0])) hf
theorem RoundTrip.sOri (x : SI) : RoundTrip.Statement (.sOri x) := by
  intro _ hf
  generalize hw : encode (.sOri x) = w
  obtain ⟨hl, hm, b0, b1, b2, f0⟩ := layout20 (k := 0x42800000) (m := 33) (g0 := 2) (x0 := x.d) (x1 := x.a) (x2 := x.imm) hw rfl (by decide) (by decide)
  exact decode_of hl ((raw21 hm).trans (by simp [decode21, b0, b1, b2, f0])) hf
theorem RoundTrip.sXori (x : SI) : RoundTrip.Statement (.sXori x) := by
  intro _ hf
  generalize hw : encode (.sXori x) = w
  obtain ⟨hl, hm, b0, b1, b2, f0⟩ := layout20 (k := 0x42C00000) (m := 33) (g0 := 3) (x0 := x.d) (x1 := x.a) (x2 := x.imm) hw rfl (by decide) (by decide)
  exact decode_of hl ((raw21 hm).trans (by simp [decode21, b0, b1, b2, f0])) hf
theorem RoundTrip.sShli (x : SN) : RoundTrip.Statement (.sShli x) := by
  intro _ hf
  generalize hw : encode (.sShli x) = w
  obtain ⟨hl, hm, b0, b1, b2, f0, f1⟩ := layout21 (k := 0x43000000) (m := 33) (g0 := 4) (g1 := 0) (x0 := x.d) (x1 := x.a) (x2 := x.n) hw rfl (by decide) (by decide) (by decide)
  exact decode_of hl ((raw21 hm).trans (by simp [decode21, b0, b1, b2, f0, f1])) hf
theorem RoundTrip.sShri (x : SN) : RoundTrip.Statement (.sShri x) := by
  intro _ hf
  generalize hw : encode (.sShri x) = w
  obtain ⟨hl, hm, b0, b1, b2, f0, f1⟩ := layout21 (k := 0x43400000) (m := 33) (g0 := 5) (g1 := 0) (x0 := x.d) (x1 := x.a) (x2 := x.n) hw rfl (by decide) (by decide) (by decide)
  exact decode_of hl ((raw21 hm).trans (by simp [decode21, b0, b1, b2, f0, f1])) hf
theorem RoundTrip.sSari (x : SN) : RoundTrip.Statement (.sSari x) := by
  intro _ hf
  generalize hw : encode (.sSari x) = w
  obtain ⟨hl, hm, b0, b1, b2, f0, f1⟩ := layout21 (k := 0x43800000) (m := 33) (g0 := 6) (g1 := 0) (x0 := x.d) (x1 := x.a) (x2 := x.n) hw rfl (by decide) (by decide) (by decide)
  exact decode_of hl ((raw21 hm).trans (by simp [decode21, b0, b1, b2, f0, f1])) hf
theorem RoundTrip.sMovi (d : BitVec 6) (i : BitVec 10) : RoundTrip.Statement (.sMovi d i) := by
  intro _ hf
  generalize hw : encode (.sMovi d i) = w
  obtain ⟨hl, hm, b0, b1, f0, f1⟩ := layout22 (k := 0x43C00000) (m := 33) (g0 := 7) (g1 := 0) (x0 := d) (x1 := i) hw rfl (by decide) (by decide) (by decide)
  exact decode_of hl ((raw21 hm).trans (by simp [decode21, b0, b1, f0, f1])) hf
theorem RoundTrip.movwZ (x : SW) : RoundTrip.Statement (.movwZ x) := by
  intro _ hf
  generalize hw : encode (.movwZ x) = w
  obtain ⟨hl, hm, b0, b1, f0⟩ := layout23 (k := 0x44000000) (m := 34) (g0 := 0) (x0 := x.d) (x1 := x.imm) hw rfl (by decide) (by decide)
  exact decode_of hl ((raw22 hm).trans (by simp [decode22, b0, b1, f0])) hf
theorem RoundTrip.movwS (x : SW) : RoundTrip.Statement (.movwS x) := by
  intro _ hf
  generalize hw : encode (.movwS x) = w
  obtain ⟨hl, hm, b0, b1, f0⟩ := layout23 (k := 0x44400000) (m := 34) (g0 := 1) (x0 := x.d) (x1 := x.imm) hw rfl (by decide) (by decide)
  exact decode_of hl ((raw22 hm).trans (by simp [decode22, b0, b1, f0])) hf
theorem RoundTrip.movwHi (x : SW) : RoundTrip.Statement (.movwHi x) := by
  intro _ hf
  generalize hw : encode (.movwHi x) = w
  obtain ⟨hl, hm, b0, b1, f0⟩ := layout23 (k := 0x44800000) (m := 34) (g0 := 2) (x0 := x.d) (x1 := x.imm) hw rfl (by decide) (by decide)
  exact decode_of hl ((raw22 hm).trans (by simp [decode22, b0, b1, f0])) hf
theorem RoundTrip.movwLo (x : SW) : RoundTrip.Statement (.movwLo x) := by
  intro _ hf
  generalize hw : encode (.movwLo x) = w
  obtain ⟨hl, hm, b0, b1, f0⟩ := layout23 (k := 0x44C00000) (m := 34) (g0 := 3) (x0 := x.d) (x1 := x.imm) hw rfl (by decide) (by decide)
  exact decode_of hl ((raw22 hm).trans (by simp [decode22, b0, b1, f0])) hf
theorem RoundTrip.brAny (x : BR) : RoundTrip.Statement (.brAny x) := by
  intro _ hf
  generalize hw : encode (.brAny x) = w
  obtain ⟨hl, hm, b0, b1, f0⟩ := layout24 (k := 0x50000000) (m := 40) (g0 := 0) (x0 := x.p) (x1 := x.o) hw rfl (by decide) (by decide)
  exact decode_of hl ((raw28 hm).trans (by simp [decode28, b0, b1, f0])) hf
theorem RoundTrip.brAll (x : BR) : RoundTrip.Statement (.brAll x) := by
  intro _ hf
  generalize hw : encode (.brAll x) = w
  obtain ⟨hl, hm, b0, b1, f0⟩ := layout24 (k := 0x50100000) (m := 40) (g0 := 1) (x0 := x.p) (x1 := x.o) hw rfl (by decide) (by decide)
  exact decode_of hl ((raw28 hm).trans (by simp [decode28, b0, b1, f0])) hf
theorem RoundTrip.brNone (x : BR) : RoundTrip.Statement (.brNone x) := by
  intro _ hf
  generalize hw : encode (.brNone x) = w
  obtain ⟨hl, hm, b0, b1, f0⟩ := layout24 (k := 0x50200000) (m := 40) (g0 := 2) (x0 := x.p) (x1 := x.o) hw rfl (by decide) (by decide)
  exact decode_of hl ((raw28 hm).trans (by simp [decode28, b0, b1, f0])) hf
theorem RoundTrip.brUni (x : BR) : RoundTrip.Statement (.brUni x) := by
  intro _ hf
  generalize hw : encode (.brUni x) = w
  obtain ⟨hl, hm, b0, b1, f0⟩ := layout24 (k := 0x50300000) (m := 40) (g0 := 3) (x0 := x.p) (x1 := x.o) hw rfl (by decide) (by decide)
  exact decode_of hl ((raw28 hm).trans (by simp [decode28, b0, b1, f0])) hf
theorem RoundTrip.brs (c : BitVec 3) (s : BitVec 6) (o : BitVec 16) : RoundTrip.Statement (.brs c s o) := by
  intro _ hf
  generalize hw : encode (.brs c s o) = w
  obtain ⟨hl, hm, b0, b1, b2⟩ := layout25 (k := 0x52000000) (m := 41) (x0 := c) (x1 := s) (x2 := o) hw rfl (by decide)
  have hc := fld_of_bf b0
  have h5 : c.toNat ≤ 5 := of_decide_eq_true hf
  have n0 : ¬ fld w 16 9 = 448 := by unfold fld at *; omega
  exact decode_of hl ((raw29 hm).trans (by simp [decode29, b0, b1, b2, n0])) hf
theorem RoundTrip.jmp (o : BitVec 16) : RoundTrip.Statement (.jmp o) := by
  intro _ hf
  generalize hw : encode (.jmp o) = w
  obtain ⟨hl, hm, b0, f0⟩ := layout26 (k := 0x53C00000) (m := 41) (g0 := 448) (x0 := o) hw rfl (by decide) (by decide)
  exact decode_of hl ((raw29 hm).trans (by simp [decode29, b0, f0])) hf
theorem RoundTrip.brx (a : BitVec 7) : RoundTrip.Statement (.brx a) := by
  intro _ hf
  generalize hw : encode (.brx a) = w
  obtain ⟨hl, hm, b0, f0, f1⟩ := layout27 (k := 0x54000000) (m := 42) (g0 := 0) (g1 := 0) (x0 := a) hw rfl (by decide) (by decide) (by decide)
  exact decode_of hl ((raw2A hm).trans (by simp [decode2A, b0, f0, f1])) hf
theorem RoundTrip.call (a : BitVec 6) (l : BitVec 6) : RoundTrip.Statement (.call a l) := by
  intro _ hf
  generalize hw : encode (.call a l) = w
  obtain ⟨hl, hm, b0, b1, f0, f1⟩ := layout28 (k := 0x54400000) (m := 42) (g0 := 2) (g1 := 0) (x0 := a) (x1 := l) hw rfl (by decide) (by decide) (by decide)
  have n0 : fld w 22 3 = 1 := by unfold fld at *; omega
  exact decode_of hl ((raw2A hm).trans (by simp [decode2A, b0, b1, f0, f1, n0])) hf
theorem RoundTrip.ret (l : BitVec 6) : RoundTrip.Statement (.ret l) := by
  intro _ hf
  generalize hw : encode (.ret l) = w
  obtain ⟨hl, hm, b0, f0, f1⟩ := layout29 (k := 0x54800000) (m := 42) (g0 := 256) (g1 := 0) (x0 := l) hw rfl (by decide) (by decide) (by decide)
  have n0 : fld w 22 3 = 2 := by unfold fld at *; omega
  have n1 : fld w 21 4 = 4 := by unfold fld at *; omega
  exact decode_of hl ((raw2A hm).trans (by simp [decode2A, b0, f0, f1, n0, n1])) hf
theorem RoundTrip.join : RoundTrip.Statement (.join) := by
  intro _ hf
  generalize hw : encode (.join) = w
  obtain ⟨hl, hm, f0⟩ := layout30 (k := 0x56000000) (m := 43) (g0 := 0) hw rfl (by decide) (by decide)
  exact decode_of hl ((raw2B hm).trans (by simp [decode2B, f0])) hf
theorem RoundTrip.waitj (p : BitVec 3) (n : BitVec 19) : RoundTrip.Statement (.waitj p n) := by
  intro _ hf
  generalize hw : encode (.waitj p n) = w
  obtain ⟨hl, hm, b0, b1, f0⟩ := layout31 (k := 0x56400000) (m := 43) (g0 := 1) (x0 := p) (x1 := n) hw rfl (by decide) (by decide)
  have n0 : ¬ fld w 0 25 = 0 := by unfold fld at *; omega
  exact decode_of hl ((raw2B hm).trans (by simp [decode2B, b0, b1, f0, n0])) hf
theorem RoundTrip.push (o : BitVec 20) : RoundTrip.Statement (.push o) := by
  intro _ hf
  generalize hw : encode (.push o) = w
  obtain ⟨hl, hm, b0, f0⟩ := layout32 (k := 0x56800000) (m := 43) (g0 := 8) (x0 := o) hw rfl (by decide) (by decide)
  have n0 : ¬ fld w 0 25 = 0 := by unfold fld at *; omega
  have n1 : fld w 22 3 = 2 := by unfold fld at *; omega
  exact decode_of hl ((raw2B hm).trans (by simp [decode2B, b0, f0, n0, n1])) hf
theorem RoundTrip.pop : RoundTrip.Statement (.pop) := by
  intro _ hf
  generalize hw : encode (.pop) = w
  obtain ⟨hl, hm, f0⟩ := layout30 (k := 0x56C00000) (m := 43) (g0 := 12582912) hw rfl (by decide) (by decide)
  have n0 : fld w 22 3 = 3 := by unfold fld at *; omega
  have n1 : fld w 20 5 = 12 := by unfold fld at *; omega
  exact decode_of hl ((raw2B hm).trans (by simp [decode2B, f0, n0, n1])) hf
theorem RoundTrip.yield (n : BitVec 10) : RoundTrip.Statement (.yield n) := by
  intro _ hf
  generalize hw : encode (.yield n) = w
  obtain ⟨hl, hm, b0, f0⟩ := layout33 (k := 0x57000000) (m := 43) (g0 := 16384) (x0 := n) hw rfl (by decide) (by decide)
  have n0 : ¬ fld w 0 25 = 0 := by unfold fld at *; omega
  have n1 : fld w 22 3 = 4 := by unfold fld at *; omega
  have n2 : fld w 20 5 = 16 := by unfold fld at *; omega
  have n3 : ¬ fld w 0 25 = 12582912 := by unfold fld at *; omega
  exact decode_of hl ((raw2B hm).trans (by simp [decode2B, b0, f0, n0, n1, n2, n3])) hf
theorem RoundTrip.exit : RoundTrip.Statement (.exit) := by
  intro _ hf
  generalize hw : encode (.exit) = w
  obtain ⟨hl, hm, f0⟩ := layout30 (k := 0x57400000) (m := 43) (g0 := 20971520) hw rfl (by decide) (by decide)
  have n0 : fld w 22 3 = 5 := by unfold fld at *; omega
  have n1 : fld w 20 5 = 20 := by unfold fld at *; omega
  have n2 : fld w 10 15 = 20480 := by unfold fld at *; omega
  exact decode_of hl ((raw2B hm).trans (by simp [decode2B, f0, n0, n1, n2])) hf
theorem RoundTrip.barc : RoundTrip.Statement (.barc) := by
  intro _ hf
  generalize hw : encode (.barc) = w
  obtain ⟨hl, hm, f0⟩ := layout30 (k := 0x58000000) (m := 44) (g0 := 0) hw rfl (by decide) (by decide)
  exact decode_of hl ((raw2C hm).trans (by simp [decode2C, f0])) hf
theorem RoundTrip.barpArrive (a : BitVec 6) (q : BitVec 6) : RoundTrip.Statement (.barpArrive a q) := by
  intro _ hf
  generalize hw : encode (.barpArrive a q) = w
  obtain ⟨hl, hm, b0, b1, f0, f1⟩ := layout18 (k := 0x58400000) (m := 44) (g0 := 1) (g1 := 0) (x0 := a) (x1 := q) hw rfl (by decide) (by decide) (by decide)
  have n0 : ¬ fld w 0 25 = 0 := by unfold fld at *; omega
  exact decode_of hl ((raw2C hm).trans (by simp [decode2C, b0, b1, f0, f1, n0])) hf
theorem RoundTrip.barpSync (a : BitVec 6) (q : BitVec 6) : RoundTrip.Statement (.barpSync a q) := by
  intro _ hf
  generalize hw : encode (.barpSync a q) = w
  obtain ⟨hl, hm, b0, b1, f0, f1⟩ := layout18 (k := 0x58400100) (m := 44) (g0 := 1) (g1 := 256) (x0 := a) (x1 := q) hw rfl (by decide) (by decide) (by decide)
  have n0 : ¬ fld w 0 25 = 0 := by unfold fld at *; omega
  exact decode_of hl ((raw2C hm).trans (by simp [decode2C, b0, b1, f0, f1, n0])) hf
theorem RoundTrip.barpWait (a : BitVec 6) (q : BitVec 6) : RoundTrip.Statement (.barpWait a q) := by
  intro _ hf
  generalize hw : encode (.barpWait a q) = w
  obtain ⟨hl, hm, b0, b1, f0, f1⟩ := layout18 (k := 0x58400200) (m := 44) (g0 := 1) (g1 := 512) (x0 := a) (x1 := q) hw rfl (by decide) (by decide) (by decide)
  have n0 : ¬ fld w 0 25 = 0 := by unfold fld at *; omega
  exact decode_of hl ((raw2C hm).trans (by simp [decode2C, b0, b1, f0, f1, n0])) hf
theorem RoundTrip.spawn (e : BitVec 6) (a : BitVec 6) : RoundTrip.Statement (.spawn e a) := by
  intro _ hf
  generalize hw : encode (.spawn e a) = w
  obtain ⟨hl, hm, b0, b1, f0, f1⟩ := layout18 (k := 0x5A000000) (m := 45) (g0 := 0) (g1 := 0) (x0 := e) (x1 := a) hw rfl (by decide) (by decide) (by decide)
  exact decode_of hl ((raw2D hm).trans (by simp [decode2D, b0, b1, f0, f1])) hf
theorem RoundTrip.spawnU (e : BitVec 6) (a : BitVec 6) : RoundTrip.Statement (.spawnU e a) := by
  intro _ hf
  generalize hw : encode (.spawnU e a) = w
  obtain ⟨hl, hm, b0, b1, f0, f1⟩ := layout18 (k := 0x5A000010) (m := 45) (g0 := 0) (g1 := 16) (x0 := e) (x1 := a) hw rfl (by decide) (by decide) (by decide)
  exact decode_of hl ((raw2D hm).trans (by simp [decode2D, b0, b1, f0, f1])) hf
theorem RoundTrip.launch (a : BitVec 6) (c : BitVec 6) : RoundTrip.Statement (.launch a c) := by
  intro _ hf
  generalize hw : encode (.launch a c) = w
  obtain ⟨hl, hm, b0, b1, f0, f1⟩ := layout18 (k := 0x5A000020) (m := 45) (g0 := 0) (g1 := 32) (x0 := a) (x1 := c) hw rfl (by decide) (by decide) (by decide)
  exact decode_of hl ((raw2D hm).trans (by simp [decode2D, b0, b1, f0, f1])) hf
theorem RoundTrip.xpand (k : BitVec 3) (s : BitVec 6) (o : BitVec 6) : RoundTrip.Statement (.xpand k s o) := by
  intro _ hf
  generalize hw : encode (.xpand k s o) = w
  obtain ⟨hl, hm, b0, b1, b2, f0⟩ := layout34 (k := 0x5C000000) (m := 46) (g0 := 0) (x0 := k) (x1 := s) (x2 := o) hw rfl (by decide) (by decide)
  exact decode_of hl ((raw2E hm).trans (by simp [decode2E, b0, b1, b2, f0])) hf
theorem RoundTrip.xnext (p : BitVec 3) : RoundTrip.Statement (.xnext p) := by
  intro _ hf
  generalize hw : encode (.xnext p) = w
  obtain ⟨hl, hm, b0, f0⟩ := layout35 (k := 0x5C000010) (m := 46) (g0 := 16) (x0 := p) hw rfl (by decide) (by decide)
  have n0 : fld w 0 10 = 16 := by unfold fld at *; omega
  exact decode_of hl ((raw2E hm).trans (by simp [decode2E, b0, f0, n0])) hf
theorem RoundTrip.sred (a : BitVec 6) : RoundTrip.Statement (.sred a) := by
  intro _ hf
  generalize hw : encode (.sred a) = w
  obtain ⟨hl, hm, b0, f0, f1⟩ := layout36 (k := 0x5C000020) (m := 46) (g0 := 0) (g1 := 32) (x0 := a) hw rfl (by decide) (by decide) (by decide)
  have n0 : fld w 0 10 = 32 := by unfold fld at *; omega
  have n1 : ¬ fld w 0 22 = 16 := by unfold fld at *; omega
  exact decode_of hl ((raw2E hm).trans (by simp [decode2E, b0, f0, f1, n0, n1])) hf
theorem RoundTrip.sredGet (d : BitVec 6) (l : BitVec 4) : RoundTrip.Statement (.sredGet d l) := by
  intro _ hf
  generalize hw : encode (.sredGet d l) = w
  obtain ⟨hl, hm, b0, b1, f0, f1⟩ := layout37 (k := 0x5C000030) (m := 46) (g0 := 0) (g1 := 3) (x0 := d) (x1 := l) hw rfl (by decide) (by decide) (by decide)
  have n0 : ¬ fld w 0 10 = 0 := by unfold fld at *; omega
  have n1 : ¬ fld w 0 22 = 16 := by unfold fld at *; omega
  have n2 : ¬ fld w 0 16 = 32 := by unfold fld at *; omega
  exact decode_of hl ((raw2E hm).trans (by simp [decode2E, b0, b1, f0, f1, n0, n1, n2])) hf
theorem RoundTrip.recurse (o : BitVec 6) : RoundTrip.Statement (.recurse o) := by
  intro _ hf
  generalize hw : encode (.recurse o) = w
  obtain ⟨hl, hm, b0, f0, f1⟩ := layout36 (k := 0x5E000000) (m := 47) (g0 := 0) (g1 := 0) (x0 := o) hw rfl (by decide) (by decide) (by decide)
  exact decode_of hl ((raw2F hm).trans (by simp [decode2F, b0, f0, f1])) hf
theorem RoundTrip.wkids (c : BitVec 6) (d : BitVec 6) (l : BitVec 4) : RoundTrip.Statement (.wkids c d l) := by
  intro _ hf
  generalize hw : encode (.wkids c d l) = w
  obtain ⟨hl, hm, b0, b1, b2, f0, f1⟩ := layout38 (k := 0x5E000010) (m := 47) (g0 := 0) (g1 := 1) (x0 := c) (x1 := d) (x2 := l) hw rfl (by decide) (by decide) (by decide)
  have n0 : ¬ fld w 0 16 = 0 := by unfold fld at *; omega
  exact decode_of hl ((raw2F hm).trans (by simp [decode2F, b0, b1, b2, f0, f1, n0])) hf
theorem RoundTrip.wret : RoundTrip.Statement (.wret) := by
  intro _ hf
  generalize hw : encode (.wret) = w
  obtain ⟨hl, hm, f0⟩ := layout30 (k := 0x5E000020) (m := 47) (g0 := 32) hw rfl (by decide) (by decide)
  have n0 : fld w 0 16 = 32 := by unfold fld at *; omega
  have n1 : fld w 4 6 = 2 := by unfold fld at *; omega
  exact decode_of hl ((raw2F hm).trans (by simp [decode2F, f0, n0, n1])) hf
theorem RoundTrip.ldg (x : ML) : RoundTrip.Statement (.ldg x) := by
  intro _ hf
  generalize hw : encode (.ldg x) = w
  obtain ⟨hl, hm, b0, b1, b2, b3, b4, b5⟩ := layout39 (k := 0x60000000) (m := 48) (x0 := x.g) (x1 := x.d) (x2 := x.o) (x3 := x.sz) (x4 := x.bp) (x5 := x.l) hw rfl (by decide)
  exact decode_of hl ((raw30 hm).trans (by simp [decode30, b0, b1, b2, b3, b4, b5])) hf
theorem RoundTrip.stg (x : MS) : RoundTrip.Statement (.stg x) := by
  intro _ hf
  generalize hw : encode (.stg x) = w
  obtain ⟨hl, hm, b0, b1, b2, b3, b4, f0⟩ := layout40 (k := 0x62000000) (m := 49) (g0 := 0) (x0 := x.g) (x1 := x.d) (x2 := x.o) (x3 := x.sz) (x4 := x.bp) hw rfl (by decide) (by decide)
  exact decode_of hl ((raw31 hm).trans (by simp [decode31, b0, b1, b2, b3, b4, f0])) hf
theorem RoundTrip.lds (x : ML) : RoundTrip.Statement (.lds x) := by
  intro _ hf
  generalize hw : encode (.lds x) = w
  obtain ⟨hl, hm, b0, b1, b2, b3, b4, b5⟩ := layout39 (k := 0x64000000) (m := 50) (x0 := x.g) (x1 := x.d) (x2 := x.o) (x3 := x.sz) (x4 := x.bp) (x5 := x.l) hw rfl (by decide)
  exact decode_of hl ((raw32 hm).trans (by simp [decode32, b0, b1, b2, b3, b4, b5])) hf
theorem RoundTrip.sts (x : MS) : RoundTrip.Statement (.sts x) := by
  intro _ hf
  generalize hw : encode (.sts x) = w
  obtain ⟨hl, hm, b0, b1, b2, b3, b4, f0⟩ := layout40 (k := 0x66000000) (m := 51) (g0 := 0) (x0 := x.g) (x1 := x.d) (x2 := x.o) (x3 := x.sz) (x4 := x.bp) hw rfl (by decide) (by decide)
  exact decode_of hl ((raw33 hm).trans (by simp [decode33, b0, b1, b2, b3, b4, f0])) hf
theorem RoundTrip.ldc (g : BitVec 3) (d : BitVec 7) (o : BitVec 7) (z : BitVec 2) (l : BitVec 4) : RoundTrip.Statement (.ldc g d o z l) := by
  intro _ hf
  generalize hw : encode (.ldc g d o z l) = w
  obtain ⟨hl, hm, b0, b1, b2, b3, b4, f0⟩ := layout41 (k := 0x68000000) (m := 52) (g0 := 0) (x0 := g) (x1 := d) (x2 := o) (x3 := z) (x4 := l) hw rfl (by decide) (by decide)
  have hc := fld_of_bf b3
  have hz : z.toNat ≠ 3 := by
    intro h
    have : z = 3 := BitVec.eq_of_toNat_eq h
    subst this
    exact absurd hf (by simp [Instr.wf])
  have n0 : ¬ fld w 6 2 = 3 := by unfold fld at *; omega
  exact decode_of hl ((raw34 hm).trans (by simp [decode34, b0, b1, b2, b3, b4, f0, n0])) hf
theorem RoundTrip.prefClu (g : BitVec 3) (o : BitVec 7) (b : BitVec 2) : RoundTrip.Statement (.prefClu g o b) := by
  intro _ hf
  generalize hw : encode (.prefClu g o b) = w
  obtain ⟨hl, hm, b0, b1, b2, f0, f1, f2⟩ := layout42 (k := 0x680000C0) (m := 52) (g0 := 0) (g1 := 3) (g2 := 0) (x0 := g) (x1 := o) (x2 := b) hw rfl (by decide) (by decide) (by decide) (by decide)
  exact decode_of hl ((raw34 hm).trans (by simp [decode34, b0, b1, b2, f0, f1, f2])) hf
theorem RoundTrip.prefHome (g : BitVec 3) (o : BitVec 7) (b : BitVec 2) : RoundTrip.Statement (.prefHome g o b) := by
  intro _ hf
  generalize hw : encode (.prefHome g o b) = w
  obtain ⟨hl, hm, b0, b1, b2, f0, f1, f2⟩ := layout42 (k := 0x680080C0) (m := 52) (g0 := 1) (g1 := 3) (g2 := 0) (x0 := g) (x1 := o) (x2 := b) hw rfl (by decide) (by decide) (by decide) (by decide)
  exact decode_of hl ((raw34 hm).trans (by simp [decode34, b0, b1, b2, f0, f1, f2])) hf
theorem RoundTrip.atomAddS32 (x : AL) : RoundTrip.Statement (.atomAddS32 x) := by
  intro _ hf
  generalize hw : encode (.atomAddS32 x) = w
  obtain ⟨hl, hm, b0, b1, b2, b3, f0⟩ := layout43 (k := 0x6A000000) (m := 53) (g0 := 0) (x0 := x.scope) (x1 := x.d) (x2 := x.a) (x3 := x.l) hw rfl (by decide) (by decide)
  exact decode_of hl ((raw35 hm).trans (by simp [decode35, b0, b1, b2, b3, f0])) hf
theorem RoundTrip.atomFaddF32 (x : AL) : RoundTrip.Statement (.atomFaddF32 x) := by
  intro _ hf
  generalize hw : encode (.atomFaddF32 x) = w
  obtain ⟨hl, hm, b0, b1, b2, b3, f0⟩ := layout43 (k := 0x6A000010) (m := 53) (g0 := 1) (x0 := x.scope) (x1 := x.d) (x2 := x.a) (x3 := x.l) hw rfl (by decide) (by decide)
  exact decode_of hl ((raw35 hm).trans (by simp [decode35, b0, b1, b2, b3, f0])) hf
theorem RoundTrip.atomMinS32 (x : AL) : RoundTrip.Statement (.atomMinS32 x) := by
  intro _ hf
  generalize hw : encode (.atomMinS32 x) = w
  obtain ⟨hl, hm, b0, b1, b2, b3, f0⟩ := layout43 (k := 0x6A000020) (m := 53) (g0 := 2) (x0 := x.scope) (x1 := x.d) (x2 := x.a) (x3 := x.l) hw rfl (by decide) (by decide)
  exact decode_of hl ((raw35 hm).trans (by simp [decode35, b0, b1, b2, b3, f0])) hf
theorem RoundTrip.atomMaxS32 (x : AL) : RoundTrip.Statement (.atomMaxS32 x) := by
  intro _ hf
  generalize hw : encode (.atomMaxS32 x) = w
  obtain ⟨hl, hm, b0, b1, b2, b3, f0⟩ := layout43 (k := 0x6A000030) (m := 53) (g0 := 3) (x0 := x.scope) (x1 := x.d) (x2 := x.a) (x3 := x.l) hw rfl (by decide) (by decide)
  exact decode_of hl ((raw35 hm).trans (by simp [decode35, b0, b1, b2, b3, f0])) hf
theorem RoundTrip.atomAndB32 (x : AL) : RoundTrip.Statement (.atomAndB32 x) := by
  intro _ hf
  generalize hw : encode (.atomAndB32 x) = w
  obtain ⟨hl, hm, b0, b1, b2, b3, f0⟩ := layout43 (k := 0x6A000040) (m := 53) (g0 := 4) (x0 := x.scope) (x1 := x.d) (x2 := x.a) (x3 := x.l) hw rfl (by decide) (by decide)
  exact decode_of hl ((raw35 hm).trans (by simp [decode35, b0, b1, b2, b3, f0])) hf
theorem RoundTrip.atomOrB32 (x : AL) : RoundTrip.Statement (.atomOrB32 x) := by
  intro _ hf
  generalize hw : encode (.atomOrB32 x) = w
  obtain ⟨hl, hm, b0, b1, b2, b3, f0⟩ := layout43 (k := 0x6A000050) (m := 53) (g0 := 5) (x0 := x.scope) (x1 := x.d) (x2 := x.a) (x3 := x.l) hw rfl (by decide) (by decide)
  exact decode_of hl ((raw35 hm).trans (by simp [decode35, b0, b1, b2, b3, f0])) hf
theorem RoundTrip.atomXchgB32 (x : AL) : RoundTrip.Statement (.atomXchgB32 x) := by
  intro _ hf
  generalize hw : encode (.atomXchgB32 x) = w
  obtain ⟨hl, hm, b0, b1, b2, b3, f0⟩ := layout43 (k := 0x6A000060) (m := 53) (g0 := 6) (x0 := x.scope) (x1 := x.d) (x2 := x.a) (x3 := x.l) hw rfl (by decide) (by decide)
  exact decode_of hl ((raw35 hm).trans (by simp [decode35, b0, b1, b2, b3, f0])) hf
theorem RoundTrip.atomCasB32 (x : AL) : RoundTrip.Statement (.atomCasB32 x) := by
  intro _ hf
  generalize hw : encode (.atomCasB32 x) = w
  obtain ⟨hl, hm, b0, b1, b2, b3, f0⟩ := layout43 (k := 0x6A000070) (m := 53) (g0 := 7) (x0 := x.scope) (x1 := x.d) (x2 := x.a) (x3 := x.l) hw rfl (by decide) (by decide)
  exact decode_of hl ((raw35 hm).trans (by simp [decode35, b0, b1, b2, b3, f0])) hf
theorem RoundTrip.atomAddN64 (x : AL) : RoundTrip.Statement (.atomAddN64 x) := by
  intro _ hf
  generalize hw : encode (.atomAddN64 x) = w
  obtain ⟨hl, hm, b0, b1, b2, b3, f0⟩ := layout43 (k := 0x6A000080) (m := 53) (g0 := 8) (x0 := x.scope) (x1 := x.d) (x2 := x.a) (x3 := x.l) hw rfl (by decide) (by decide)
  exact decode_of hl ((raw35 hm).trans (by simp [decode35, b0, b1, b2, b3, f0])) hf
theorem RoundTrip.redAddS32 (x : AS) : RoundTrip.Statement (.redAddS32 x) := by
  intro _ hf
  generalize hw : encode (.redAddS32 x) = w
  obtain ⟨hl, hm, b0, b1, b2, f0⟩ := layout7 (k := 0x6A000090) (m := 53) (g0 := 144) (x0 := x.scope) (x1 := x.d) (x2 := x.a) hw rfl (by decide) (by decide)
  have n0 : fld w 4 4 = 9 := by unfold fld at *; omega
  exact decode_of hl ((raw35 hm).trans (by simp [decode35, b0, b1, b2, f0, n0])) hf
theorem RoundTrip.redFaddF32 (x : AS) : RoundTrip.Statement (.redFaddF32 x) := by
  intro _ hf
  generalize hw : encode (.redFaddF32 x) = w
  obtain ⟨hl, hm, b0, b1, b2, f0⟩ := layout7 (k := 0x6A0000A0) (m := 53) (g0 := 160) (x0 := x.scope) (x1 := x.d) (x2 := x.a) hw rfl (by decide) (by decide)
  have n0 : fld w 4 4 = 10 := by unfold fld at *; omega
  exact decode_of hl ((raw35 hm).trans (by simp [decode35, b0, b1, b2, f0, n0])) hf
theorem RoundTrip.redAddN64 (x : AS) : RoundTrip.Statement (.redAddN64 x) := by
  intro _ hf
  generalize hw : encode (.redAddN64 x) = w
  obtain ⟨hl, hm, b0, b1, b2, f0⟩ := layout7 (k := 0x6A0000B0) (m := 53) (g0 := 176) (x0 := x.scope) (x1 := x.d) (x2 := x.a) hw rfl (by decide) (by decide)
  have n0 : fld w 4 4 = 11 := by unfold fld at *; omega
  exact decode_of hl ((raw35 hm).trans (by simp [decode35, b0, b1, b2, f0, n0])) hf
theorem RoundTrip.ldAcqB32 (x : AL) : RoundTrip.Statement (.ldAcqB32 x) := by
  intro _ hf
  generalize hw : encode (.ldAcqB32 x) = w
  obtain ⟨hl, hm, b0, b1, b2, b3, f0⟩ := layout43 (k := 0x6A0000C0) (m := 53) (g0 := 12) (x0 := x.scope) (x1 := x.d) (x2 := x.a) (x3 := x.l) hw rfl (by decide) (by decide)
  have n0 : ¬ fld w 0 8 = 144 := by unfold fld at *; omega
  have n1 : ¬ fld w 0 8 = 160 := by unfold fld at *; omega
  have n2 : ¬ fld w 0 8 = 176 := by unfold fld at *; omega
  exact decode_of hl ((raw35 hm).trans (by simp [decode35, b0, b1, b2, b3, f0, n0, n1, n2])) hf
theorem RoundTrip.stRelB32 (x : AS) : RoundTrip.Statement (.stRelB32 x) := by
  intro _ hf
  generalize hw : encode (.stRelB32 x) = w
  obtain ⟨hl, hm, b0, b1, b2, f0⟩ := layout7 (k := 0x6A0000D0) (m := 53) (g0 := 208) (x0 := x.scope) (x1 := x.d) (x2 := x.a) hw rfl (by decide) (by decide)
  have n0 : fld w 4 4 = 13 := by unfold fld at *; omega
  exact decode_of hl ((raw35 hm).trans (by simp [decode35, b0, b1, b2, f0, n0])) hf
theorem RoundTrip.scAddS32 (x : AL) : RoundTrip.Statement (.scAddS32 x) := by
  intro _ hf
  generalize hw : encode (.scAddS32 x) = w
  obtain ⟨hl, hm, b0, b1, b2, b3, f0⟩ := layout43 (k := 0x6A0000E0) (m := 53) (g0 := 14) (x0 := x.scope) (x1 := x.d) (x2 := x.a) (x3 := x.l) hw rfl (by decide) (by decide)
  have n0 : ¬ fld w 0 8 = 144 := by unfold fld at *; omega
  have n1 : ¬ fld w 0 8 = 160 := by unfold fld at *; omega
  have n2 : ¬ fld w 0 8 = 176 := by unfold fld at *; omega
  have n3 : ¬ fld w 0 8 = 208 := by unfold fld at *; omega
  exact decode_of hl ((raw35 hm).trans (by simp [decode35, b0, b1, b2, b3, f0, n0, n1, n2, n3])) hf
theorem RoundTrip.scCasB32 (x : AL) : RoundTrip.Statement (.scCasB32 x) := by
  intro _ hf
  generalize hw : encode (.scCasB32 x) = w
  obtain ⟨hl, hm, b0, b1, b2, b3, f0⟩ := layout43 (k := 0x6A0000F0) (m := 53) (g0 := 15) (x0 := x.scope) (x1 := x.d) (x2 := x.a) (x3 := x.l) hw rfl (by decide) (by decide)
  have n0 : ¬ fld w 0 8 = 144 := by unfold fld at *; omega
  have n1 : ¬ fld w 0 8 = 160 := by unfold fld at *; omega
  have n2 : ¬ fld w 0 8 = 176 := by unfold fld at *; omega
  have n3 : ¬ fld w 0 8 = 208 := by unfold fld at *; omega
  exact decode_of hl ((raw35 hm).trans (by simp [decode35, b0, b1, b2, b3, f0, n0, n1, n2, n3])) hf
theorem RoundTrip.atomAddS32Scr (x : ALs) : RoundTrip.Statement (.atomAddS32Scr x) := by
  intro _ hf
  generalize hw : encode (.atomAddS32Scr x) = w
  obtain ⟨hl, hm, b0, b1, b2, f0, f1⟩ := layout44 (k := 0x6C000000) (m := 54) (g0 := 0) (g1 := 0) (x0 := x.d) (x1 := x.a) (x2 := x.l) hw rfl (by decide) (by decide) (by decide)
  exact decode_of hl ((raw36 hm).trans (by simp [decode36, b0, b1, b2, f0, f1])) hf
theorem RoundTrip.atomFaddF32Scr (x : ALs) : RoundTrip.Statement (.atomFaddF32Scr x) := by
  intro _ hf
  generalize hw : encode (.atomFaddF32Scr x) = w
  obtain ⟨hl, hm, b0, b1, b2, f0, f1⟩ := layout44 (k := 0x6C000010) (m := 54) (g0 := 0) (g1 := 1) (x0 := x.d) (x1 := x.a) (x2 := x.l) hw rfl (by decide) (by decide) (by decide)
  exact decode_of hl ((raw36 hm).trans (by simp [decode36, b0, b1, b2, f0, f1])) hf
theorem RoundTrip.atomMinS32Scr (x : ALs) : RoundTrip.Statement (.atomMinS32Scr x) := by
  intro _ hf
  generalize hw : encode (.atomMinS32Scr x) = w
  obtain ⟨hl, hm, b0, b1, b2, f0, f1⟩ := layout44 (k := 0x6C000020) (m := 54) (g0 := 0) (g1 := 2) (x0 := x.d) (x1 := x.a) (x2 := x.l) hw rfl (by decide) (by decide) (by decide)
  exact decode_of hl ((raw36 hm).trans (by simp [decode36, b0, b1, b2, f0, f1])) hf
theorem RoundTrip.atomMaxS32Scr (x : ALs) : RoundTrip.Statement (.atomMaxS32Scr x) := by
  intro _ hf
  generalize hw : encode (.atomMaxS32Scr x) = w
  obtain ⟨hl, hm, b0, b1, b2, f0, f1⟩ := layout44 (k := 0x6C000030) (m := 54) (g0 := 0) (g1 := 3) (x0 := x.d) (x1 := x.a) (x2 := x.l) hw rfl (by decide) (by decide) (by decide)
  exact decode_of hl ((raw36 hm).trans (by simp [decode36, b0, b1, b2, f0, f1])) hf
theorem RoundTrip.atomAndB32Scr (x : ALs) : RoundTrip.Statement (.atomAndB32Scr x) := by
  intro _ hf
  generalize hw : encode (.atomAndB32Scr x) = w
  obtain ⟨hl, hm, b0, b1, b2, f0, f1⟩ := layout44 (k := 0x6C000040) (m := 54) (g0 := 0) (g1 := 4) (x0 := x.d) (x1 := x.a) (x2 := x.l) hw rfl (by decide) (by decide) (by decide)
  exact decode_of hl ((raw36 hm).trans (by simp [decode36, b0, b1, b2, f0, f1])) hf
theorem RoundTrip.atomOrB32Scr (x : ALs) : RoundTrip.Statement (.atomOrB32Scr x) := by
  intro _ hf
  generalize hw : encode (.atomOrB32Scr x) = w
  obtain ⟨hl, hm, b0, b1, b2, f0, f1⟩ := layout44 (k := 0x6C000050) (m := 54) (g0 := 0) (g1 := 5) (x0 := x.d) (x1 := x.a) (x2 := x.l) hw rfl (by decide) (by decide) (by decide)
  exact decode_of hl ((raw36 hm).trans (by simp [decode36, b0, b1, b2, f0, f1])) hf
theorem RoundTrip.atomXchgB32Scr (x : ALs) : RoundTrip.Statement (.atomXchgB32Scr x) := by
  intro _ hf
  generalize hw : encode (.atomXchgB32Scr x) = w
  obtain ⟨hl, hm, b0, b1, b2, f0, f1⟩ := layout44 (k := 0x6C000060) (m := 54) (g0 := 0) (g1 := 6) (x0 := x.d) (x1 := x.a) (x2 := x.l) hw rfl (by decide) (by decide) (by decide)
  exact decode_of hl ((raw36 hm).trans (by simp [decode36, b0, b1, b2, f0, f1])) hf
theorem RoundTrip.atomCasB32Scr (x : ALs) : RoundTrip.Statement (.atomCasB32Scr x) := by
  intro _ hf
  generalize hw : encode (.atomCasB32Scr x) = w
  obtain ⟨hl, hm, b0, b1, b2, f0, f1⟩ := layout44 (k := 0x6C000070) (m := 54) (g0 := 0) (g1 := 7) (x0 := x.d) (x1 := x.a) (x2 := x.l) hw rfl (by decide) (by decide) (by decide)
  exact decode_of hl ((raw36 hm).trans (by simp [decode36, b0, b1, b2, f0, f1])) hf
theorem RoundTrip.atomAddN64Scr (x : ALs) : RoundTrip.Statement (.atomAddN64Scr x) := by
  intro _ hf
  generalize hw : encode (.atomAddN64Scr x) = w
  obtain ⟨hl, hm, b0, b1, b2, f0, f1⟩ := layout44 (k := 0x6C000080) (m := 54) (g0 := 0) (g1 := 8) (x0 := x.d) (x1 := x.a) (x2 := x.l) hw rfl (by decide) (by decide) (by decide)
  exact decode_of hl ((raw36 hm).trans (by simp [decode36, b0, b1, b2, f0, f1])) hf
theorem RoundTrip.redAddS32Scr (x : ASs) : RoundTrip.Statement (.redAddS32Scr x) := by
  intro _ hf
  generalize hw : encode (.redAddS32Scr x) = w
  obtain ⟨hl, hm, b0, b1, f0, f1⟩ := layout45 (k := 0x6C000090) (m := 54) (g0 := 0) (g1 := 144) (x0 := x.d) (x1 := x.a) hw rfl (by decide) (by decide) (by decide)
  have n0 : fld w 4 4 = 9 := by unfold fld at *; omega
  exact decode_of hl ((raw36 hm).trans (by simp [decode36, b0, b1, f0, f1, n0])) hf
theorem RoundTrip.redFaddF32Scr (x : ASs) : RoundTrip.Statement (.redFaddF32Scr x) := by
  intro _ hf
  generalize hw : encode (.redFaddF32Scr x) = w
  obtain ⟨hl, hm, b0, b1, f0, f1⟩ := layout45 (k := 0x6C0000A0) (m := 54) (g0 := 0) (g1 := 160) (x0 := x.d) (x1 := x.a) hw rfl (by decide) (by decide) (by decide)
  have n0 : fld w 4 4 = 10 := by unfold fld at *; omega
  exact decode_of hl ((raw36 hm).trans (by simp [decode36, b0, b1, f0, f1, n0])) hf
theorem RoundTrip.redAddN64Scr (x : ASs) : RoundTrip.Statement (.redAddN64Scr x) := by
  intro _ hf
  generalize hw : encode (.redAddN64Scr x) = w
  obtain ⟨hl, hm, b0, b1, f0, f1⟩ := layout45 (k := 0x6C0000B0) (m := 54) (g0 := 0) (g1 := 176) (x0 := x.d) (x1 := x.a) hw rfl (by decide) (by decide) (by decide)
  have n0 : fld w 4 4 = 11 := by unfold fld at *; omega
  exact decode_of hl ((raw36 hm).trans (by simp [decode36, b0, b1, f0, f1, n0])) hf
theorem RoundTrip.ldAcqB32Scr (x : ALs) : RoundTrip.Statement (.ldAcqB32Scr x) := by
  intro _ hf
  generalize hw : encode (.ldAcqB32Scr x) = w
  obtain ⟨hl, hm, b0, b1, b2, f0, f1⟩ := layout44 (k := 0x6C0000C0) (m := 54) (g0 := 0) (g1 := 12) (x0 := x.d) (x1 := x.a) (x2 := x.l) hw rfl (by decide) (by decide) (by decide)
  have n0 : ¬ fld w 0 8 = 144 := by unfold fld at *; omega
  have n1 : ¬ fld w 0 8 = 160 := by unfold fld at *; omega
  have n2 : ¬ fld w 0 8 = 176 := by unfold fld at *; omega
  exact decode_of hl ((raw36 hm).trans (by simp [decode36, b0, b1, b2, f0, f1, n0, n1, n2])) hf
theorem RoundTrip.stRelB32Scr (x : ASs) : RoundTrip.Statement (.stRelB32Scr x) := by
  intro _ hf
  generalize hw : encode (.stRelB32Scr x) = w
  obtain ⟨hl, hm, b0, b1, f0, f1⟩ := layout45 (k := 0x6C0000D0) (m := 54) (g0 := 0) (g1 := 208) (x0 := x.d) (x1 := x.a) hw rfl (by decide) (by decide) (by decide)
  have n0 : fld w 4 4 = 13 := by unfold fld at *; omega
  exact decode_of hl ((raw36 hm).trans (by simp [decode36, b0, b1, f0, f1, n0])) hf
theorem RoundTrip.fence (s : BitVec 3) : RoundTrip.Statement (.fence s) := by
  intro _ hf
  generalize hw : encode (.fence s) = w
  obtain ⟨hl, hm, b0, f0⟩ := layout35 (k := 0x6E000000) (m := 55) (g0 := 0) (x0 := s) hw rfl (by decide) (by decide)
  exact decode_of hl ((raw37 hm).trans (by simp [decode37, b0, f0])) hf
theorem RoundTrip.xfence (s : BitVec 3) (a : BitVec 6) (b : BitVec 6) : RoundTrip.Statement (.xfence s a b) := by
  intro _ hf
  generalize hw : encode (.xfence s a b) = w
  obtain ⟨hl, hm, b0, b1, b2, f0⟩ := layout34 (k := 0x6E000010) (m := 55) (g0 := 16) (x0 := s) (x1 := a) (x2 := b) hw rfl (by decide) (by decide)
  have n0 : ¬ fld w 0 22 = 0 := by unfold fld at *; omega
  exact decode_of hl ((raw37 hm).trans (by simp [decode37, b0, b1, b2, f0, n0])) hf
theorem RoundTrip.watchB32 (c : BitVec 3) (a : BitVec 6) (b : BitVec 6) : RoundTrip.Statement (.watchB32 c a b) := by
  intro _ hf
  generalize hw : encode (.watchB32 c a b) = w
  obtain ⟨hl, hm, b0, b1, b2, f0⟩ := layout34 (k := 0x6E000020) (m := 55) (g0 := 32) (x0 := c) (x1 := a) (x2 := b) hw rfl (by decide) (by decide)
  have n0 : ¬ fld w 0 22 = 0 := by unfold fld at *; omega
  exact decode_of hl ((raw37 hm).trans (by simp [decode37, b0, b1, b2, f0, n0])) hf
theorem RoundTrip.watchB64 (c : BitVec 3) (a : BitVec 6) (b : BitVec 6) : RoundTrip.Statement (.watchB64 c a b) := by
  intro _ hf
  generalize hw : encode (.watchB64 c a b) = w
  obtain ⟨hl, hm, b0, b1, b2, f0⟩ := layout34 (k := 0x6E000030) (m := 55) (g0 := 48) (x0 := c) (x1 := a) (x2 := b) hw rfl (by decide) (by decide)
  have n0 : ¬ fld w 0 22 = 0 := by unfold fld at *; omega
  exact decode_of hl ((raw37 hm).trans (by simp [decode37, b0, b1, b2, f0, n0])) hf
theorem RoundTrip.watchCancel : RoundTrip.Statement (.watchCancel) := by
  intro _ hf
  generalize hw : encode (.watchCancel) = w
  obtain ⟨hl, hm, f0⟩ := layout30 (k := 0x6E000040) (m := 55) (g0 := 64) hw rfl (by decide) (by decide)
  have n0 : fld w 0 22 = 64 := by unfold fld at *; omega
  have n1 : fld w 0 10 = 64 := by unfold fld at *; omega
  exact decode_of hl ((raw37 hm).trans (by simp [decode37, f0, n0, n1])) hf
theorem RoundTrip.waitc (s : BitVec 3) (d : BitVec 6) (t : BitVec 6) : RoundTrip.Statement (.waitc s d t) := by
  intro _ hf
  generalize hw : encode (.waitc s d t) = w
  obtain ⟨hl, hm, b0, b1, b2, f0⟩ := layout34 (k := 0x6E000050) (m := 55) (g0 := 80) (x0 := s) (x1 := d) (x2 := t) hw rfl (by decide) (by decide)
  have n0 : ¬ fld w 0 22 = 0 := by unfold fld at *; omega
  have n1 : ¬ fld w 0 25 = 64 := by unfold fld at *; omega
  exact decode_of hl ((raw37 hm).trans (by simp [decode37, b0, b1, b2, f0, n0, n1])) hf
theorem RoundTrip.copy (b : BitVec 6) : RoundTrip.Statement (.copy b) := by
  intro _ hf
  generalize hw : encode (.copy b) = w
  obtain ⟨hl, hm, b0, f0, f1⟩ := layout36 (k := 0x70000000) (m := 56) (g0 := 0) (g1 := 0) (x0 := b) hw rfl (by decide) (by decide) (by decide)
  exact decode_of hl ((raw38 hm).trans (by simp [decode38, b0, f0, f1])) hf
theorem RoundTrip.copyZero (b : BitVec 6) : RoundTrip.Statement (.copyZero b) := by
  intro _ hf
  generalize hw : encode (.copyZero b) = w
  obtain ⟨hl, hm, b0, f0, f1⟩ := layout36 (k := 0x70000010) (m := 56) (g0 := 0) (g1 := 16) (x0 := b) hw rfl (by decide) (by decide) (by decide)
  exact decode_of hl ((raw38 hm).trans (by simp [decode38, b0, f0, f1])) hf
theorem RoundTrip.gather (b : BitVec 6) : RoundTrip.Statement (.gather b) := by
  intro _ hf
  generalize hw : encode (.gather b) = w
  obtain ⟨hl, hm, b0, f0, f1⟩ := layout36 (k := 0x72000000) (m := 57) (g0 := 0) (g1 := 0) (x0 := b) hw rfl (by decide) (by decide) (by decide)
  exact decode_of hl ((raw39 hm).trans (by simp [decode39, b0, f0, f1])) hf
theorem RoundTrip.scatter (b : BitVec 6) : RoundTrip.Statement (.scatter b) := by
  intro _ hf
  generalize hw : encode (.scatter b) = w
  obtain ⟨hl, hm, b0, f0, f1⟩ := layout36 (k := 0x72000010) (m := 57) (g0 := 0) (g1 := 16) (x0 := b) hw rfl (by decide) (by decide) (by decide)
  exact decode_of hl ((raw39 hm).trans (by simp [decode39, b0, f0, f1])) hf
theorem RoundTrip.scatterAdd (b : BitVec 6) : RoundTrip.Statement (.scatterAdd b) := by
  intro _ hf
  generalize hw : encode (.scatterAdd b) = w
  obtain ⟨hl, hm, b0, f0, f1⟩ := layout36 (k := 0x72000020) (m := 57) (g0 := 0) (g1 := 32) (x0 := b) hw rfl (by decide) (by decide) (by decide)
  exact decode_of hl ((raw39 hm).trans (by simp [decode39, b0, f0, f1])) hf
theorem RoundTrip.mloop (x : MX) : RoundTrip.Statement (.mloop x) := by
  intro _ hf
  generalize hw : encode (.mloop x) = w
  obtain ⟨hl, hm, b0, b1, b2, b3, f0⟩ := layout46 (k := 0x74000000) (m := 58) (g0 := 0) (x0 := x.ta) (x1 := x.tb) (x2 := x.acc) (x3 := x.k) hw rfl (by decide) (by decide)
  exact decode_of hl ((raw3A hm).trans (by simp [decode3A, b0, b1, b2, b3, f0])) hf
theorem RoundTrip.mloopSm (b : BitVec 6) (c : BitVec 5) (k : BitVec 5) : RoundTrip.Statement (.mloopSm b c k) := by
  intro _ hf
  generalize hw : encode (.mloopSm b c k) = w
  obtain ⟨hl, hm, b0, b1, b2, f0⟩ := layout47 (k := 0x74400000) (m := 58) (g0 := 64) (x0 := b) (x1 := c) (x2 := k) hw rfl (by decide) (by decide)
  have n0 : fld w 22 3 = 1 := by unfold fld at *; omega
  exact decode_of hl ((raw3A hm).trans (by simp [decode3A, b0, b1, b2, f0, n0])) hf
theorem RoundTrip.mloopPro (x : MX) : RoundTrip.Statement (.mloopPro x) := by
  intro _ hf
  generalize hw : encode (.mloopPro x) = w
  obtain ⟨hl, hm, b0, b1, b2, b3, f0⟩ := layout46 (k := 0x74800000) (m := 58) (g0 := 2) (x0 := x.ta) (x1 := x.tb) (x2 := x.acc) (x3 := x.k) hw rfl (by decide) (by decide)
  have n0 : ¬ fld w 16 9 = 64 := by unfold fld at *; omega
  exact decode_of hl ((raw3A hm).trans (by simp [decode3A, b0, b1, b2, b3, f0, n0])) hf
theorem RoundTrip.mloopGrp (x : MX) : RoundTrip.Statement (.mloopGrp x) := by
  intro _ hf
  generalize hw : encode (.mloopGrp x) = w
  obtain ⟨hl, hm, b0, b1, b2, b3, f0⟩ := layout46 (k := 0x74C00000) (m := 58) (g0 := 3) (x0 := x.ta) (x1 := x.tb) (x2 := x.acc) (x3 := x.k) hw rfl (by decide) (by decide)
  have n0 : ¬ fld w 16 9 = 64 := by unfold fld at *; omega
  exact decode_of hl ((raw3A hm).trans (by simp [decode3A, b0, b1, b2, b3, f0, n0])) hf
theorem RoundTrip.tidset (a : BitVec 6) (n : BitVec 6) : RoundTrip.Statement (.tidset a n) := by
  intro _ hf
  generalize hw : encode (.tidset a n) = w
  obtain ⟨hl, hm, b0, b1, f0, f1⟩ := layout18 (k := 0x76000000) (m := 59) (g0 := 0) (g1 := 0) (x0 := a) (x1 := n) hw rfl (by decide) (by decide) (by decide)
  exact decode_of hl ((raw3B hm).trans (by simp [decode3B, b0, b1, f0, f1])) hf
theorem RoundTrip.tidget (j : BitVec 3) (d : BitVec 6) (n : BitVec 6) : RoundTrip.Statement (.tidget j d n) := by
  intro _ hf
  generalize hw : encode (.tidget j d n) = w
  obtain ⟨hl, hm, b0, b1, b2, f0⟩ := layout34 (k := 0x76000010) (m := 59) (g0 := 16) (x0 := j) (x1 := d) (x2 := n) hw rfl (by decide) (by decide)
  exact decode_of hl ((raw3B hm).trans (by simp [decode3B, b0, b1, b2, f0])) hf
theorem RoundTrip.aalloc (n : BitVec 6) (c : BitVec 6) : RoundTrip.Statement (.aalloc n c) := by
  intro _ hf
  generalize hw : encode (.aalloc n c) = w
  obtain ⟨hl, hm, b0, b1, f0, f1⟩ := layout18 (k := 0x76000020) (m := 59) (g0 := 0) (g1 := 32) (x0 := n) (x1 := c) hw rfl (by decide) (by decide) (by decide)
  exact decode_of hl ((raw3B hm).trans (by simp [decode3B, b0, b1, f0, f1])) hf
theorem RoundTrip.afree (n : BitVec 6) (c : BitVec 6) : RoundTrip.Statement (.afree n c) := by
  intro _ hf
  generalize hw : encode (.afree n c) = w
  obtain ⟨hl, hm, b0, b1, f0, f1⟩ := layout18 (k := 0x76000030) (m := 59) (g0 := 0) (g1 := 48) (x0 := n) (x1 := c) hw rfl (by decide) (by decide) (by decide)
  exact decode_of hl ((raw3B hm).trans (by simp [decode3B, b0, b1, f0, f1])) hf
theorem RoundTrip.agetAcc (x : AG) : RoundTrip.Statement (.agetAcc x) := by
  intro _ hf
  generalize hw : encode (.agetAcc x) = w
  obtain ⟨hl, hm, b0, b1, b2, b3, f0, f1⟩ := layout48 (k := 0x76000040) (m := 59) (g0 := 0) (g1 := 4) (x0 := x.h) (x1 := x.sa) (x2 := x.sb) (x3 := x.l) hw rfl (by decide) (by decide) (by decide)
  have n0 : ¬ fld w 0 10 = 0 := by unfold fld at *; omega
  have n1 : ¬ fld w 0 10 = 16 := by unfold fld at *; omega
  have n2 : ¬ fld w 0 10 = 32 := by unfold fld at *; omega
  have n3 : ¬ fld w 0 10 = 48 := by unfold fld at *; omega
  exact decode_of hl ((raw3B hm).trans (by simp [decode3B, b0, b1, b2, b3, f0, f1, n0, n1, n2, n3])) hf
theorem RoundTrip.agetM (x : AG) : RoundTrip.Statement (.agetM x) := by
  intro _ hf
  generalize hw : encode (.agetM x) = w
  obtain ⟨hl, hm, b0, b1, b2, b3, f0, f1⟩ := layout48 (k := 0x76800040) (m := 59) (g0 := 1) (g1 := 4) (x0 := x.h) (x1 := x.sa) (x2 := x.sb) (x3 := x.l) hw rfl (by decide) (by decide) (by decide)
  have n0 : ¬ fld w 0 10 = 0 := by unfold fld at *; omega
  have n1 : ¬ fld w 0 10 = 16 := by unfold fld at *; omega
  have n2 : ¬ fld w 0 10 = 32 := by unfold fld at *; omega
  have n3 : ¬ fld w 0 10 = 48 := by unfold fld at *; omega
  exact decode_of hl ((raw3B hm).trans (by simp [decode3B, b0, b1, b2, b3, f0, f1, n0, n1, n2, n3])) hf
theorem RoundTrip.agetL (x : AG) : RoundTrip.Statement (.agetL x) := by
  intro _ hf
  generalize hw : encode (.agetL x) = w
  obtain ⟨hl, hm, b0, b1, b2, b3, f0, f1⟩ := layout48 (k := 0x77000040) (m := 59) (g0 := 2) (g1 := 4) (x0 := x.h) (x1 := x.sa) (x2 := x.sb) (x3 := x.l) hw rfl (by decide) (by decide) (by decide)
  have n0 : ¬ fld w 0 10 = 0 := by unfold fld at *; omega
  have n1 : ¬ fld w 0 10 = 16 := by unfold fld at *; omega
  have n2 : ¬ fld w 0 10 = 32 := by unfold fld at *; omega
  have n3 : ¬ fld w 0 10 = 48 := by unfold fld at *; omega
  exact decode_of hl ((raw3B hm).trans (by simp [decode3B, b0, b1, b2, b3, f0, f1, n0, n1, n2, n3])) hf
theorem RoundTrip.fclaim (b : BitVec 6) : RoundTrip.Statement (.fclaim b) := by
  intro _ hf
  generalize hw : encode (.fclaim b) = w
  obtain ⟨hl, hm, b0, f0, f1⟩ := layout36 (k := 0x76000050) (m := 59) (g0 := 0) (g1 := 80) (x0 := b) hw rfl (by decide) (by decide) (by decide)
  have n0 : fld w 0 10 = 80 := by unfold fld at *; omega
  have n1 : fld w 4 6 = 5 := by unfold fld at *; omega
  exact decode_of hl ((raw3B hm).trans (by simp [decode3B, b0, f0, f1, n0, n1])) hf
theorem RoundTrip.chain (c : BitVec 6) (e : BitVec 6) : RoundTrip.Statement (.chain c e) := by
  intro _ hf
  generalize hw : encode (.chain c e) = w
  obtain ⟨hl, hm, b0, b1, f0, f1⟩ := layout18 (k := 0x78000000) (m := 60) (g0 := 0) (g1 := 0) (x0 := c) (x1 := e) hw rfl (by decide) (by decide) (by decide)
  exact decode_of hl ((raw3C hm).trans (by simp [decode3C, b0, b1, f0, f1])) hf
theorem RoundTrip.chwait (s : BitVec 3) (c : BitVec 6) (n : BitVec 6) : RoundTrip.Statement (.chwait s c n) := by
  intro _ hf
  generalize hw : encode (.chwait s c n) = w
  obtain ⟨hl, hm, b0, b1, b2, f0⟩ := layout34 (k := 0x78000010) (m := 60) (g0 := 16) (x0 := s) (x1 := c) (x2 := n) hw rfl (by decide) (by decide)
  exact decode_of hl ((raw3C hm).trans (by simp [decode3C, b0, b1, b2, f0])) hf
theorem RoundTrip.collAllred (b : BitVec 6) (g : BitVec 6) : RoundTrip.Statement (.collAllred b g) := by
  intro _ hf
  generalize hw : encode (.collAllred b g) = w
  obtain ⟨hl, hm, b0, b1, f0, f1⟩ := layout18 (k := 0x7A000000) (m := 61) (g0 := 0) (g1 := 0) (x0 := b) (x1 := g) hw rfl (by decide) (by decide) (by decide)
  exact decode_of hl ((raw3D hm).trans (by simp [decode3D, b0, b1, f0, f1])) hf
theorem RoundTrip.collRedsc (b : BitVec 6) (g : BitVec 6) : RoundTrip.Statement (.collRedsc b g) := by
  intro _ hf
  generalize hw : encode (.collRedsc b g) = w
  obtain ⟨hl, hm, b0, b1, f0, f1⟩ := layout18 (k := 0x7A000010) (m := 61) (g0 := 0) (g1 := 16) (x0 := b) (x1 := g) hw rfl (by decide) (by decide) (by decide)
  exact decode_of hl ((raw3D hm).trans (by simp [decode3D, b0, b1, f0, f1])) hf
theorem RoundTrip.collAllgat (b : BitVec 6) (g : BitVec 6) : RoundTrip.Statement (.collAllgat b g) := by
  intro _ hf
  generalize hw : encode (.collAllgat b g) = w
  obtain ⟨hl, hm, b0, b1, f0, f1⟩ := layout18 (k := 0x7A000020) (m := 61) (g0 := 0) (g1 := 32) (x0 := b) (x1 := g) hw rfl (by decide) (by decide) (by decide)
  exact decode_of hl ((raw3D hm).trans (by simp [decode3D, b0, b1, f0, f1])) hf
theorem RoundTrip.collBcast (b : BitVec 6) (g : BitVec 6) : RoundTrip.Statement (.collBcast b g) := by
  intro _ hf
  generalize hw : encode (.collBcast b g) = w
  obtain ⟨hl, hm, b0, b1, f0, f1⟩ := layout18 (k := 0x7A000030) (m := 61) (g0 := 0) (g1 := 48) (x0 := b) (x1 := g) hw rfl (by decide) (by decide) (by decide)
  exact decode_of hl ((raw3D hm).trans (by simp [decode3D, b0, b1, f0, f1])) hf
theorem RoundTrip.svc (d : BitVec 6) (a : BitVec 6) (n : BitVec 10) : RoundTrip.Statement (.svc d a n) := by
  intro _ hf
  generalize hw : encode (.svc d a n) = w
  obtain ⟨hl, hm, b0, b1, b2, f0⟩ := layout20 (k := 0x7C000000) (m := 62) (g0 := 0) (x0 := d) (x1 := a) (x2 := n) hw rfl (by decide) (by decide)
  exact decode_of hl ((raw3E hm).trans (by simp [decode3E, b0, b1, b2, f0])) hf
theorem RoundTrip.escal (n : BitVec 8) : RoundTrip.Statement (.escal n) := by
  intro _ hf
  generalize hw : encode (.escal n) = w
  obtain ⟨hl, hm, b0, f0⟩ := layout49 (k := 0x7C400000) (m := 62) (g0 := 16384) (x0 := n) hw rfl (by decide) (by decide)
  have n0 : fld w 22 3 = 1 := by unfold fld at *; omega
  exact decode_of hl ((raw3E hm).trans (by simp [decode3E, b0, f0, n0])) hf
theorem RoundTrip.brk (n : BitVec 16) : RoundTrip.Statement (.brk n) := by
  intro _ hf
  generalize hw : encode (.brk n) = w
  obtain ⟨hl, hm, b0, f0⟩ := layout26 (k := 0x7D000000) (m := 62) (g0 := 256) (x0 := n) hw rfl (by decide) (by decide)
  have n0 : fld w 22 3 = 4 := by unfold fld at *; omega
  have n1 : ¬ fld w 8 17 = 16384 := by unfold fld at *; omega
  exact decode_of hl ((raw3E hm).trans (by simp [decode3E, b0, f0, n0, n1])) hf
theorem RoundTrip.dfold (a : BitVec 7) : RoundTrip.Statement (.dfold a) := by
  intro _ hf
  generalize hw : encode (.dfold a) = w
  obtain ⟨hl, hm, b0, f0, f1⟩ := layout27 (k := 0x7D400000) (m := 62) (g0 := 5) (g1 := 0) (x0 := a) hw rfl (by decide) (by decide) (by decide)
  have n0 : ¬ fld w 8 17 = 16384 := by unfold fld at *; omega
  have n1 : ¬ fld w 16 9 = 256 := by unfold fld at *; omega
  exact decode_of hl ((raw3E hm).trans (by simp [decode3E, b0, f0, f1, n0, n1])) hf
theorem RoundTrip.lmark (a : BitVec 6) (n : BitVec 16) : RoundTrip.Statement (.lmark a n) := by
  intro _ hf
  generalize hw : encode (.lmark a n) = w
  obtain ⟨hl, hm, b0, b1, f0⟩ := layout23 (k := 0x7D800000) (m := 62) (g0 := 6) (x0 := a) (x1 := n) hw rfl (by decide) (by decide)
  have n0 : ¬ fld w 8 17 = 16384 := by unfold fld at *; omega
  have n1 : ¬ fld w 16 9 = 256 := by unfold fld at *; omega
  exact decode_of hl ((raw3E hm).trans (by simp [decode3E, b0, b1, f0, n0, n1])) hf
theorem RoundTrip.hintImm (h : BitVec 22) : RoundTrip.Statement (.hintImm h) := by
  intro _ hf
  generalize hw : encode (.hintImm h) = w
  obtain ⟨hl, hm, b0, f0⟩ := layout50 (k := 0x7E000000) (m := 63) (g0 := 0) (x0 := h) hw rfl (by decide) (by decide)
  exact decode_of hl ((raw3F hm).trans (by simp [decode3F, b0, f0])) hf
theorem RoundTrip.hintMod (e : BitVec 1) (m : BitVec 2) (s : BitVec 1) (o : BitVec 1) (b : BitVec 1) (c : BitVec 3) (l : BitVec 4) : RoundTrip.Statement (.hintMod e m s o b c l) := by
  intro _ hf
  generalize hw : encode (.hintMod e m s o b c l) = w
  obtain ⟨hl, hm, b0, b1, b2, b3, b4, b5, b6, f0, f1⟩ := layout51 (k := 0x7E400000) (m := 63) (g0 := 1) (g1 := 0) (x0 := e) (x1 := m) (x2 := s) (x3 := o) (x4 := b) (x5 := c) (x6 := l) hw rfl (by decide) (by decide) (by decide)
  exact decode_of hl ((raw3F hm).trans (by simp [decode3F, b0, b1, b2, b3, b4, b5, b6, f0, f1])) hf
theorem RoundTrip.hintGuard (n : BitVec 3) : RoundTrip.Statement (.hintGuard n) := by
  intro _ hf
  generalize hw : encode (.hintGuard n) = w
  obtain ⟨hl, hm, b0, f0, f1⟩ := layout52 (k := 0x7E800000) (m := 63) (g0 := 2) (g1 := 0) (x0 := n) hw rfl (by decide) (by decide) (by decide)
  exact decode_of hl ((raw3F hm).trans (by simp [decode3F, b0, f0, f1])) hf
theorem RoundTrip.hintSched (y : BitVec 1) (u : BitVec 1) : RoundTrip.Statement (.hintSched y u) := by
  intro _ hf
  generalize hw : encode (.hintSched y u) = w
  obtain ⟨hl, hm, b0, b1, f0, f1⟩ := layout53 (k := 0x7EC00000) (m := 63) (g0 := 3) (g1 := 0) (x0 := y) (x1 := u) hw rfl (by decide) (by decide) (by decide)
  exact decode_of hl ((raw3F hm).trans (by simp [decode3F, b0, b1, f0, f1])) hf
theorem RoundTrip.hintRep (c : BitVec 6) (d : BitVec 4) (a : BitVec 4) (b : BitVec 4) : RoundTrip.Statement (.hintRep c d a b) := by
  intro _ hf
  generalize hw : encode (.hintRep c d a b) = w
  obtain ⟨hl, hm, b0, b1, b2, b3, f0, f1⟩ := layout54 (k := 0x7F000000) (m := 63) (g0 := 4) (g1 := 0) (x0 := c) (x1 := d) (x2 := a) (x3 := b) hw rfl (by decide) (by decide) (by decide)
  exact decode_of hl ((raw3F hm).trans (by simp [decode3F, b0, b1, b2, b3, f0, f1])) hf
theorem RoundTrip.hintNop (t : BitVec 22) : RoundTrip.Statement (.hintNop t) := by
  intro _ hf
  generalize hw : encode (.hintNop t) = w
  obtain ⟨hl, hm, b0, f0⟩ := layout50 (k := 0x7F400000) (m := 63) (g0 := 5) (x0 := t) hw rfl (by decide) (by decide)
  exact decode_of hl ((raw3F hm).trans (by simp [decode3F, b0, f0])) hf
theorem RoundTrip.dpair (i : BitVec 10) (r : BitVec 5) (j : BitVec 10) (s : BitVec 5) : RoundTrip.Statement (.dpair i r j s) := by
  intro _ hf
  generalize hw : encode (.dpair i r j s) = w
  obtain ⟨hl, hm, b0, b1, b2, b3, f0⟩ := layout55 (k := 0x80008000) (m := 1) (g0 := 1) (x0 := i) (x1 := r) (x2 := j) (x3 := s) hw rfl (by decide) (by decide)
  exact decode_of hl ((rawPair hm).trans (by simp [decodePair, b0, b1, b2, b3, f0])) hf
theorem RoundTrip.dpairSingle (i : BitVec 10) (r : BitVec 5) : RoundTrip.Statement (.dpairSingle i r) := by
  intro _ hf
  generalize hw : encode (.dpairSingle i r) = w
  obtain ⟨hl, hm, b0, b1, f0⟩ := layout56 (k := 0x80000000) (m := 1) (g0 := 0) (x0 := i) (x1 := r) hw rfl (by decide) (by decide)
  have n0 : fld w 15 1 = 0 := by unfold fld at *; omega
  exact decode_of hl ((rawPair hm).trans (by simp [decodePair, b0, b1, f0, n0])) hf
theorem RoundTrip.instructionFetchFault (w : Who) : RoundTrip.Statement (.instructionFetchFault w) := fun h => nomatch h
theorem RoundTrip.resultWriteback (w : Who) (ord : Nat) : RoundTrip.Statement (.resultWriteback w ord) := fun h => nomatch h
theorem RoundTrip.winzeGroupStart (co : Nat) : RoundTrip.Statement (.winzeGroupStart co) := fun h => nomatch h
theorem RoundTrip.chainEntryRead (k : Nat) : RoundTrip.Statement (.chainEntryRead k) := fun h => nomatch h
theorem RoundTrip.walkerHandover (k : Nat) : RoundTrip.Statement (.walkerHandover k) := fun h => nomatch h
theorem RoundTrip.nodeStart (n : Nat) : RoundTrip.Statement (.nodeStart n) := fun h => nomatch h
theorem RoundTrip.deviceLaunchAccept (n : Nat) : RoundTrip.Statement (.deviceLaunchAccept n) := fun h => nomatch h
theorem RoundTrip.nodeComplete (n : Nat) : RoundTrip.Statement (.nodeComplete n) := fun h => nomatch h
theorem RoundTrip.nodePublish (n : Nat) : RoundTrip.Statement (.nodePublish n) := fun h => nomatch h
theorem RoundTrip.cohortDispatch (l die : Nat) : RoundTrip.Statement (.cohortDispatch l die) := fun h => nomatch h
theorem RoundTrip.windowEnd (l die : Nat) : RoundTrip.Statement (.windowEnd l die) := fun h => nomatch h
theorem RoundTrip.taskGroupDispatch (die l e : Nat) : RoundTrip.Statement (.taskGroupDispatch die l e) := fun h => nomatch h
theorem RoundTrip.cradleAgeExpiry (die l e : Nat) : RoundTrip.Statement (.cradleAgeExpiry die l e) := fun h => nomatch h
theorem RoundTrip.matrixEngineRun (cell : Nat) : RoundTrip.Statement (.matrixEngineRun cell) := fun h => nomatch h
theorem RoundTrip.copyEngineRun (id : Nat) : RoundTrip.Statement (.copyEngineRun id) := fun h => nomatch h
theorem RoundTrip.gatherUnitRun (id : Nat) : RoundTrip.Statement (.gatherUnitRun id) := fun h => nomatch h
theorem RoundTrip.collectiveEngineRun (id : Nat) (peers : List Peer) : RoundTrip.Statement (.collectiveEngineRun id peers) := fun h => nomatch h
theorem RoundTrip.commandComplete (id : Nat) : RoundTrip.Statement (.commandComplete id) := fun h => nomatch h
theorem RoundTrip.homeSliceRequest (r : SliceReq) : RoundTrip.Statement (.homeSliceRequest r) := fun h => nomatch h
theorem RoundTrip.clusterAtomicApply (k : Nat) (r : AtomReq) : RoundTrip.Statement (.clusterAtomicApply k r) := fun h => nomatch h
theorem RoundTrip.monitorPoll (w : Who) : RoundTrip.Statement (.monitorPoll w) := fun h => nomatch h
theorem RoundTrip.waitcWake (w : Who) : RoundTrip.Statement (.waitcWake w) := fun h => nomatch h
theorem RoundTrip.waitcTimeout (w : Who) : RoundTrip.Statement (.waitcTimeout w) := fun h => nomatch h
theorem RoundTrip.waitjTimeout (w : Who) : RoundTrip.Statement (.waitjTimeout w) := fun h => nomatch h
theorem RoundTrip.fenceComplete (w : Who) : RoundTrip.Statement (.fenceComplete w) := fun h => nomatch h
theorem RoundTrip.scTicketGrant (sys : Bool) : RoundTrip.Statement (.scTicketGrant sys) := fun h => nomatch h
theorem RoundTrip.epochEnd (co : Nat) : RoundTrip.Statement (.epochEnd co) := fun h => nomatch h
theorem RoundTrip.orderedApply (l : Nat) : RoundTrip.Statement (.orderedApply l) := fun h => nomatch h
theorem RoundTrip.orderStall (l : Nat) : RoundTrip.Statement (.orderStall l) := fun h => nomatch h
theorem RoundTrip.replayScStall (l : Nat) : RoundTrip.Statement (.replayScStall l) := fun h => nomatch h
theorem RoundTrip.orderedCellWaitStall (l die : Nat) : RoundTrip.Statement (.orderedCellWaitStall l die) := fun h => nomatch h
theorem RoundTrip.dirtyWritebackDeadline (k line : Nat) : RoundTrip.Statement (.dirtyWritebackDeadline k line) := fun h => nomatch h
theorem RoundTrip.llsUpdate (cell : Nat) : RoundTrip.Statement (.llsUpdate cell) := fun h => nomatch h
theorem RoundTrip.splitBoost (w : Who) : RoundTrip.Statement (.splitBoost w) := fun h => nomatch h
theorem RoundTrip.yieldPauseEnd (w : Who) : RoundTrip.Statement (.yieldPauseEnd w) := fun h => nomatch h
theorem RoundTrip.quantumEnd (cell : Nat) : RoundTrip.Statement (.quantumEnd cell) := fun h => nomatch h
theorem RoundTrip.temperatureCheck (die : Nat) (temps : List Nat) : RoundTrip.Statement (.temperatureCheck die temps) := fun h => nomatch h
theorem RoundTrip.thermalMove (die hot : Nat) : RoundTrip.Statement (.thermalMove die hot) := fun h => nomatch h
theorem RoundTrip.accumulatorGrant (cell : Nat) : RoundTrip.Statement (.accumulatorGrant cell) := fun h => nomatch h
theorem RoundTrip.pageWalk (k : Nat) (root : Root) (va : Nat) : RoundTrip.Statement (.pageWalk k root va) := fun h => nomatch h
theorem RoundTrip.agentFaultService (n : Nat) (discard : Bool) : RoundTrip.Statement (.agentFaultService n discard) := fun h => nomatch h
theorem RoundTrip.svcReply (w : Who) (v : BitVec 32) : RoundTrip.Statement (.svcReply w v) := fun h => nomatch h
theorem RoundTrip.handlerBudgetSpent (co gi : Nat) : RoundTrip.Statement (.handlerBudgetSpent co gi) := fun h => nomatch h
theorem RoundTrip.preemptRequest (die : Nat) (v : BitVec 64) : RoundTrip.Statement (.preemptRequest die v) := fun h => nomatch h
theorem RoundTrip.cohortSave (co : Nat) : RoundTrip.Statement (.cohortSave co) := fun h => nomatch h
theorem RoundTrip.cohortRestore (co : Nat) : RoundTrip.Statement (.cohortRestore co) := fun h => nomatch h
theorem RoundTrip.eccUncorrectedCell (co : Nat) (lost : List Nat) : RoundTrip.Statement (.eccUncorrectedCell co lost) := fun h => nomatch h
theorem RoundTrip.csmodeWrite (k : Nat) (hi : Bool) (v : BitVec 64) : RoundTrip.Statement (.csmodeWrite k hi v) := fun h => nomatch h
theorem RoundTrip.bankModeChangeDone (k bank : Nat) : RoundTrip.Statement (.bankModeChangeDone k bank) := fun h => nomatch h
theorem RoundTrip.rrcWrite (die n : Nat) (v : BitVec 64) : RoundTrip.Statement (.rrcWrite die n v) := fun h => nomatch h
theorem RoundTrip.qcfgWrite (cell q : Nat) (v : BitVec 64) : RoundTrip.Statement (.qcfgWrite cell q v) := fun h => nomatch h
theorem RoundTrip.translationInvalidate (v : BitVec 64) : RoundTrip.Statement (.translationInvalidate v) := fun h => nomatch h
theorem RoundTrip.invalidationComplete : RoundTrip.Statement (.invalidationComplete) := fun h => nomatch h
theorem RoundTrip.ctxpoolPush (die c : Nat) (v : BitVec 64) : RoundTrip.Statement (.ctxpoolPush die c v) := fun h => nomatch h
theorem RoundTrip.extpoolPush (die : Nat) (v : BitVec 64) : RoundTrip.Statement (.extpoolPush die v) := fun h => nomatch h
theorem RoundTrip.hostAppend (f j : Nat) (v : BitVec 64) : RoundTrip.Statement (.hostAppend f j v) := fun h => nomatch h
theorem RoundTrip.hostWindowRead (f off n : Nat) : RoundTrip.Statement (.hostWindowRead f off n) := fun h => nomatch h
theorem RoundTrip.hostWindowWrite (f off : Nat) (bytes : List (BitVec 8)) : RoundTrip.Statement (.hostWindowWrite f off bytes) := fun h => nomatch h
theorem RoundTrip.watchpointWrite (k n : Nat) (ctl : Bool) (v : BitVec 64) : RoundTrip.Statement (.watchpointWrite k n ctl v) := fun h => nomatch h
theorem RoundTrip.clusterStop (k : Nat) : RoundTrip.Statement (.clusterStop k) := fun h => nomatch h
theorem RoundTrip.loupeGo (k : Nat) : RoundTrip.Statement (.loupeGo k) := fun h => nomatch h
theorem RoundTrip.loupeSave (k : Nat) : RoundTrip.Statement (.loupeSave k) := fun h => nomatch h
theorem RoundTrip.loupeStep (k : Nat) (v : BitVec 64) : RoundTrip.Statement (.loupeStep k v) := fun h => nomatch h
theorem RoundTrip.assayLogConfig (die off : Nat) (v : BitVec 64) : RoundTrip.Statement (.assayLogConfig die off v) := fun h => nomatch h
theorem RoundTrip.faceterLogResume (die : Nat) : RoundTrip.Statement (.faceterLogResume die) := fun h => nomatch h
theorem RoundTrip.vdStop (n : Nat) : RoundTrip.Statement (.vdStop n) := fun h => nomatch h
theorem RoundTrip.vdStopDone : RoundTrip.Statement (.vdStopDone) := fun h => nomatch h
theorem RoundTrip.vdResume (n : Nat) : RoundTrip.Statement (.vdResume n) := fun h => nomatch h
theorem RoundTrip.linkLaneForce (p : Nat) : RoundTrip.Statement (.linkLaneForce p) := fun h => nomatch h
theorem RoundTrip.linkLaneFailure (p lane : Nat) : RoundTrip.Statement (.linkLaneFailure p lane) := fun h => nomatch h
theorem RoundTrip.linkPortDown (p : Nat) : RoundTrip.Statement (.linkPortDown p) := fun h => nomatch h
theorem RoundTrip.linkRequestTimeout (w : Who) : RoundTrip.Statement (.linkRequestTimeout w) := fun h => nomatch h
theorem RoundTrip.attestationRequest (v : BitVec 64) : RoundTrip.Statement (.attestationRequest v) := fun h => nomatch h
theorem RoundTrip.cellFence (c : Nat) : RoundTrip.Statement (.cellFence c) := fun h => nomatch h
theorem RoundTrip.sliceSpare (n : Nat) : RoundTrip.Statement (.sliceSpare n) := fun h => nomatch h
theorem RoundTrip.hbmChannelSpare (n : Nat) : RoundTrip.Statement (.hbmChannelSpare n) := fun h => nomatch h
theorem RoundTrip.cellFenceLift (c : Nat) : RoundTrip.Statement (.cellFenceLift c) := fun h => nomatch h
theorem RoundTrip.linkLaneRepair (n : Nat) : RoundTrip.Statement (.linkLaneRepair n) := fun h => nomatch h
theorem RoundTrip.repairComplete : RoundTrip.Statement (.repairComplete) := fun h => nomatch h
theorem RoundTrip.powerLimitReached (block : Nat) : RoundTrip.Statement (.powerLimitReached block) := fun h => nomatch h
theorem RoundTrip.registerWrite (m : Master) (off : Nat) (v : BitVec 64) : RoundTrip.Statement (.registerWrite m off v) := fun h => nomatch h
theorem RoundTrip.moduleReset : RoundTrip.Statement (.moduleReset) := fun h => nomatch h
theorem RoundTrip.mainPowerChange (on : Bool) : RoundTrip.Statement (.mainPowerChange on) := fun h => nomatch h
theorem RoundTrip.mctpControl (msg : List (BitVec 8)) : RoundTrip.Statement (.mctpControl msg) := fun h => nomatch h
theorem RoundTrip.pldmPlatformMonitor (msg : List (BitVec 8)) : RoundTrip.Statement (.pldmPlatformMonitor msg) := fun h => nomatch h
theorem RoundTrip.pldmFirmwareUpdate (image : List (BitVec 8)) (whole : Bool) : RoundTrip.Statement (.pldmFirmwareUpdate image whole) := fun h => nomatch h
theorem RoundTrip.aditRegisterRead (off : Nat) : RoundTrip.Statement (.aditRegisterRead off) := fun h => nomatch h
theorem RoundTrip.aditRegisterWrite (off : Nat) (v : BitVec 64) : RoundTrip.Statement (.aditRegisterWrite off v) := fun h => nomatch h
theorem RoundTrip.getVersion : RoundTrip.Statement (.getVersion) := fun h => nomatch h
theorem RoundTrip.getCapabilities : RoundTrip.Statement (.getCapabilities) := fun h => nomatch h
theorem RoundTrip.negotiateAlgorithms : RoundTrip.Statement (.negotiateAlgorithms) := fun h => nomatch h
theorem RoundTrip.getMeasurements (index : Nat) : RoundTrip.Statement (.getMeasurements index) := fun h => nomatch h
theorem RoundTrip.vendorDefinedRequest (nonce : BitVec 64) (xfer : Nat) : RoundTrip.Statement (.vendorDefinedRequest nonce xfer) := fun h => nomatch h
theorem RoundTrip.chunkGet : RoundTrip.Statement (.chunkGet) := fun h => nomatch h
theorem RoundTrip.encodingNotAnInstruction (w : BitVec 32) : RoundTrip.Statement (.encodingNotAnInstruction w) := fun h => nomatch h
theorem RoundTrip.linkPortUp (p : Nat) : RoundTrip.Statement (.linkPortUp p) := fun h => nomatch h
theorem RoundTrip.requestRetry (src seq : Nat) : RoundTrip.Statement (.requestRetry src seq) := fun h => nomatch h

end Sys2Proof.Laws
end

