-- ==== Sys2Proof/Safety.lean ====
section
/-! DEFINITION. Safe runs, the invariant of the state's maps, and the vocabulary of the statements: when a split is ready to
issue a word, and what a word leaves unchanged. -/
namespace Sys2Proof.Machine

/-- The states that a step leads to. -/
noncomputable def State.after? (s : State) : Option State := match step s with
  | .next t => some t
  | _ => none

/-- A run of n steps that meets no fault and no refusal. -/
noncomputable def runs : Nat → State → Bool
  | 0, _ => true
  | n + 1, s => match s.after? with
    | none => false
    | some t => runs n t

/-! ### The invariant of the maps -/

/-- The register maps of a group have ascending keys. -/
def Group.tidy (g : Group) : Bool := Sparse.rises 0 g.v && Sparse.rises 0 g.s && Sparse.rises 0 g.p

/-- The maps of a cohort that reads and writes go through. -/
def Cohort.mapsOk (c : Cohort) : Bool := Sparse.rises 0 c.scratch && c.groups.all Group.tidy

/-- Memory is in its canonical form (13 R180), and the other maps that reads and writes go through have ascending keys. -/
def State.canonical (s : State) : Bool :=
  Memory.wf s.mem && Sparse.rises 0 s.regs && Sparse.wf {} s.clusters && Sparse.wf {} s.cells && s.cohorts.all Cohort.mapsOk

/-! ### A split ready to issue -/

/-- The chain holds no hint but those named: `hint.imm`, `hint.guard`, `hint.rep`, and the modifiers of `hint.mod` in m
(05 R62, R66, Table 5.5). -/
def Hints.only (h : Hints) (imm guard rep : Bool) (m : Mods) : Prop :=
  (h.imm ≠ [] → imm = true) ∧ (h.guard ≠ none → guard = true) ∧ (h.rep ≠ none → rep = true) ∧
  ∀ w, h.mod? = some w → (bit w 21 = true → m.r = true) ∧ (bit w 18 = true → m.s = true) ∧ (bit w 17 = true → m.o = true) ∧
    (bit w 16 = true → m.b8 = true) ∧ (bits w 13 3 ≠ 0 → m.cp = true) ∧ (bits w 9 4 ≠ 0 → m.l = true)

/-- The issuing split c has no lookahead window open, its chain holds only hints that the word accepts, its group holds the
vector registers rs (05 R56), and the group's register maps are tidy. -/
structure Clear (s : State) (c : Ctx) (imm guard rep : Bool) (m : Mods) (rs : List Nat) : Prop where
  ctx : s.ctx? = some c
  windows : c.sp.windows = []
  hints : c.h.only imm guard rep m
  regs : ∀ r ∈ rs, r < 128 ∧ (c.co.isHF = true ∨ r < 8 * c.gr.budget)
  tidy : c.gr.tidy = true

/-- The same of a word after which the split goes on at the next word, which lies below 2^56 (13 R358). -/
structure Ready (s : State) (c : Ctx) (imm guard rep : Bool) (m : Mods) (rs : List Nat) : Prop extends
    Clear s c imm guard rep m rs where
  room : c.sp.pc.toNat + 4 < 2 ^ 56

/-! ### What a word leaves unchanged -/

/-- Everything but the cohorts, the time, the free counter and the list of stalled splits is as it was: memory, caches,
registers of the register region, launches, commands, queues. -/
def SameModule (s t : State) : Prop :=
  { t with cohorts := s.cohorts, time := s.time, free := s.free, stalled := s.stalled } = s

/-- The other cohorts are as they were; the issuing one is co'. -/
def OnlyCohort (s t : State) (id : Nat) (co' : Cohort) : Prop :=
  (∀ k, k ≠ id → t.cohort? k = s.cohort? k) ∧ t.cohort? id = some co'

/-- Of the cohort only the counters of 07 Table 7.3 and the issuing group may differ. -/
def OnlyGroup (c : Ctx) (co' : Cohort) (g' : Group) : Prop :=
  { co' with groups := c.co.groups, ctr := c.co.ctr } = c.co ∧
  (∀ j, j ≠ c.who.gi → co'.groups[j]? = c.co.groups[j]?) ∧ co'.groups[c.who.gi]? = some g'

/-- Of the group only registers, marks, skid and the issuing split may differ. -/
def OnlySplit (c : Ctx) (g' : Group) (x' : Split) : Prop :=
  { g' with v := c.gr.v, s := c.gr.s, p := c.gr.p, marks := c.gr.marks, left := c.gr.left, skid := c.gr.skid, splits := c.gr.splits } = c.gr ∧
  (∀ j, j ≠ c.who.si → g'.splits[j]? = c.gr.splits[j]?) ∧ g'.splits[c.who.si]? = some x'

/-- Of a split only the place where it stands and what the scheduler keeps of it may differ: its lanes, monitor and windows
are as they were. -/
def SameLanes (x x' : Split) : Prop :=
  { x' with pc := x.pc, pos := x.pos, chain := x.chain, codes := x.codes, wait := x.wait, pauseEnd := x.pauseEnd, landed := x.landed,
            boosted := x.boosted, skids := x.skids, why := x.why } = x

/-- The split stands at a PC, at the start of a chain. -/
def At (x' : Split) (pc : VAddr) : Prop := x'.pc = pc ∧ x'.pos = 0 ∧ x'.chain = [] ∧ x'.codes = []

/-- The split goes on: after the last of its repetitions or codes it stands at the next word, before it at the next of them
(05 R78, R80, R82). -/
def Moved (x x' : Split) : Prop :=
  SameLanes x x' ∧ (x.last = true → At x' (x.pc + 4)) ∧ (x.last = false → x'.pc = x.pc ∧ x'.pos = x.pos + 1 ∧ x'.chain = x.chain ∧ x'.codes = x.codes)

/-- The group's vector registers (in its 32 lanes), scalar registers and predicates. -/
def Regs (g' : Group) (fv : Nat → Nat → Word) (fs fp : Nat → Word) : Prop :=
  (∀ r l, l < 32 → g'.getV r l = fv r l) ∧ (∀ r, g'.getS r = fs r) ∧ ∀ p, g'.getP p = fp p

/-- A word that only changes registers of its group: they become fv, fs and fp, all else is as it was, and the split goes
on. -/
def Writes (s : State) (c : Ctx) (t : State) (fv : Nat → Nat → Word) (fs fp : Nat → Word) : Prop :=
  SameModule s t ∧ ∃ co' g' x', OnlyCohort s t c.who.co co' ∧ OnlyGroup c co' g' ∧ OnlySplit c g' x' ∧ Moved c.sp x' ∧ Regs g' fv fs fp

/-- One vector register written in the participating lanes of guard field g (09 R126). -/
def vecTo (c : Ctx) (g d : Nat) (f : Nat → Word) : Nat → Nat → Word :=
  fun r l => if r = d ∧ (c.part g).getLsbD l = true then f l else c.gr.getV r l

/-- A pair of vector registers written in the participating lanes. -/
def vecTo2 (c : Ctx) (g d : Nat) (f : Nat → BitVec 64) : Nat → Nat → Word :=
  fun r l => if (c.part g).getLsbD l = true ∧ (r = d ∨ r = d + 1) then (f l).extractLsb' (if r = d then 0 else 32) 32 else c.gr.getV r l

/-- One scalar register written. -/
def scaTo (c : Ctx) (d : Nat) (x : Word) : Nat → Word := fun r => if r = d then x else c.gr.getS r

/-- One predicate written in the lanes of m by f; p7 takes no write (05 R55). -/
def prdTo (c : Ctx) (m : Word) (pd : Nat) (f : Nat → Bool) : Nat → Word :=
  fun p => if p = pd ∧ p ≠ 7 then (c.gr.getP pd &&& ~~~m) ||| maskIf m f else c.gr.getP p

end Sys2Proof.Machine
end

