-- ==== Sys2Proof/Certificates/Slice0/Obligations.lean ====
section
/-! DEFINITION. The statements of this model, with the functions that the spec's tables give, written from the tables and
not from the meanings. -/
namespace Sys2Proof.Claims
open Sys2Proof.Machine

/-! ### The functions of 09's tables -/

/-- Sat(y) for w bits (09 R131). -/
def clamp (w : Nat) (y : Int) : Int :=
  if y < -2 ^ (w - 1) then -2 ^ (w - 1) else if 2 ^ (w - 1) ≤ y then 2 ^ (w - 1) - 1 else y

/-- Wrap(y), or Sat(y) under SAT (09 R131, R132). -/
def wrapSat (sat : Bool) (y : Int) : Word := BitVec.ofInt 32 (if sat then clamp 32 y else y)

/-- The dot product of the signed elements of w bits (09 Table 9.1, 03 R24). -/
def dot (w : Nat) (n : Nat) (a b : Word) : Int :=
  ((List.range n).map fun i => (a.extractLsb' (w * i) w).toInt * (b.extractLsb' (w * i) w).toInt).sum

/-- Byte j of the result of `perm.b8` (09 R134). -/
def permByte (a b d : Word) (j : Nat) : BitVec 8 :=
  let c := d.extractLsb' (8 * j) 8
  if c.getLsbD 7 then 0
  else if (c.extractLsb' 0 3).toNat < 4 then a.extractLsb' (8 * (c.extractLsb' 0 3).toNat) 8
  else b.extractLsb' (8 * ((c.extractLsb' 0 3).toNat - 4)) 8

/-- The lesser of two FP32 values with −0 below +0, and the other operand of a lone NaN (09 R133). -/
def lesser (a b : Word) : Word :=
  match (f32 a).isNan, (f32 b).isNan with
  | true, true => 0x7FC00000#32
  | true, false => b
  | false, true => a
  | false, false =>
    if (f32 b).lt (f32 a) = true ∨ ((f32 b).eq (f32 a) = true ∧ b.getLsbD 31 = true ∧ a.getLsbD 31 = false) then b else a

/-- The greater (09 R133). -/
def greater (a b : Word) : Word :=
  match (f32 a).isNan, (f32 b).isNan with
  | true, true => 0x7FC00000#32
  | true, false => b
  | false, true => a
  | false, false =>
    if (f32 a).lt (f32 b) = true ∨ ((f32 a).eq (f32 b) = true ∧ a.getLsbD 31 = true ∧ b.getLsbD 31 = false) then b else a

/-- Element e of a packed register, and a packed register of two (03 R24). -/
def elem (x : Word) (e : Nat) : Nat := (x.extractLsb' (16 * e) 16).toNat
def packed (f : Nat → Nat) : Word := BitVec.ofNat 16 (f 1) ++ BitVec.ofNat 16 (f 0)

/-- Whether each modifier is accepted: rounding, saturation, lookahead (09 R130). -/
structure Accepts where
  r : Bool := false
  s : Bool := false
  l : Bool := false

def Accepts.mods (a : Accepts) : Mods := { r := a.r, s := a.s, l := a.l }
def accS : Accepts := { s := true }
def accRS : Accepts := { r := true, s := true }

/-- Op of a three-operand table: rounding mode, SAT, A, B, Dold. -/
abbrev Op3 := Nat → Bool → Word → Word → Word → Word
/-- Op of a one-operand table. -/
abbrev Op1 := Nat → Bool → Word → Word

def opAdd : Op3 := fun _ sat a b _ => wrapSat sat (a.toInt + b.toInt)
def opSub : Op3 := fun _ sat a b _ => wrapSat sat (a.toInt - b.toInt)
def opMulLo : Op3 := fun _ sat a b _ => wrapSat sat (a.toInt * b.toInt)
def opMulHi : Op3 := fun _ _ a b _ => (BitVec.ofInt 64 (a.toInt * b.toInt)).extractLsb' 32 32
def opMulHiU : Op3 := fun _ _ a b _ => (BitVec.ofNat 64 (a.toNat * b.toNat)).extractLsb' 32 32
def opLeS : Op3 := fun _ _ a b _ => if a.toInt ≤ b.toInt then a else b
def opGeS : Op3 := fun _ _ a b _ => if b.toInt ≤ a.toInt then a else b
def opLeN : Op3 := fun _ _ a b _ => if a.toNat ≤ b.toNat then a else b
def opGeN : Op3 := fun _ _ a b _ => if b.toNat ≤ a.toNat then a else b
def opShlOp : Op3 := fun _ _ a b _ => if 32 ≤ b.toNat then 0 else BitVec.ofNat 32 (a.toNat * 2 ^ b.toNat)
def opShrOp : Op3 := fun _ _ a b _ => if 32 ≤ b.toNat then 0 else BitVec.ofNat 32 (a.toNat / 2 ^ b.toNat)
def opSarOp : Op3 := fun _ _ a b _ => BitVec.ofInt 32 (a.toInt / 2 ^ min 31 b.toNat)
def opRotOp : Op3 := fun _ _ a b _ => (a <<< (b.toNat % 32)) ||| (a >>> (32 - b.toNat % 32))
def opFadd : Op3 := fun rm sat a b _ => r32 rm sat ((f32 a).add rm (f32 b))
def opFsub : Op3 := fun rm sat a b _ => r32 rm sat ((f32 a).add rm (f32 b).neg)
def opFmul : Op3 := fun rm sat a b _ => r32 rm sat ((f32 a).mul (f32 b))
def opFfma : Op3 := fun rm sat a b d => r32 rm sat (((f32 a).mul (f32 b)).add rm (f32 d))

/-- Rows of 09 Table 9.1, part 1. -/
def table91a : List ((V3 → Instr) × Accepts × Op3) := [
  (.iadd, accS, opAdd), (.isub, accS, opSub), (.imulLo, accS, opMulLo), (.imulHiS, {}, opMulHi),
  (.imac, accS, fun _ sat a b d => wrapSat sat (d.toInt + a.toInt * b.toInt)),
  (.iabd, {}, fun _ _ a b _ => BitVec.ofNat 32 (max a.toInt b.toInt - min a.toInt b.toInt).toNat),
  (.iminS, {}, opLeS), (.imaxS, {}, opGeS), (.iminN, {}, opLeN), (.imaxN, {}, opGeN),
  (.and, {}, fun _ _ a b _ => a &&& b), (.or, {}, fun _ _ a b _ => a ||| b),
  (.xor, {}, fun _ _ a b _ => a ^^^ b), (.andn, {}, fun _ _ a b _ => a &&& ~~~b),
  (.shl, {}, opShlOp), (.shr, {}, opShrOp), (.sar, {}, opSarOp), (.rot, {}, opRotOp)]

/-- Rows of 09 Table 9.1, part 2. -/
def table91b : List ((V3 → Instr) × Accepts × Op3) := [
  (.fadd, accRS, opFadd), (.fsub, accRS, opFsub), (.fmul, accRS, opFmul), (.ffma, accRS, opFfma),
  (.fmin, {}, fun _ _ a b _ => lesser a b), (.fmax, {}, fun _ _ a b _ => greater a b),
  (.haddBf16x2, accRS, fun rm sat a b _ => packed fun e => BF16.round rm sat ((BF16.value (elem a e)).add rm (BF16.value (elem b e)))),
  (.hmulBf16x2, accRS, fun rm sat a b _ => packed fun e => BF16.round rm sat ((BF16.value (elem a e)).mul (BF16.value (elem b e)))),
  (.hfmaBf16x2, accRS, fun rm sat a b d => packed fun e =>
    BF16.round rm sat (((BF16.value (elem a e)).mul (BF16.value (elem b e))).add rm (BF16.value (elem d e)))),
  (.hfmaF16x2, accRS, fun rm sat a b d => packed fun e =>
    F16.round rm sat (((F16.value (elem a e)).mul (F16.value (elem b e))).add rm (F16.value (elem d e)))),
  (.sel, {}, fun _ _ a b d => (a &&& d) ||| (b &&& ~~~d)),
  (.permB8, {}, fun _ _ a b d => permByte a b d 3 ++ permByte a b d 2 ++ permByte a b d 1 ++ permByte a b d 0),
  (.dot4S8, accS, fun _ sat a b d => wrapSat sat (d.toInt + dot 8 4 a b)),
  (.dot8S4, accS, fun _ sat a b d => wrapSat sat (d.toInt + dot 4 8 a b))]

/-- 09 Table 9.1, with what each row accepts. -/
def table91 : List ((V3 → Instr) × Accepts × Op3) := table91a ++ table91b

/-- The split's registers as they were. -/
abbrev sameS (c : Ctx) : Nat → Word := c.gr.getS
abbrev sameP (c : Ctx) : Nat → Word := c.gr.getP
abbrev sameV (c : Ctx) : Nat → Nat → Word := c.gr.getV

/-- The immediate of a word under `hint.imm` (05 R65): n bits of its own, extended by at most two payloads of 22 bits. -/
def immBits (h : Hints) (o n : Nat) : Nat :=
  match h.imm with
  | [] => o
  | [a] => a * 2 ^ n + o
  | a :: b :: _ => a * 2 ^ (n + 22) + b * 2 ^ n + o

/-- Its width: never above 32. -/
def immWidth (h : Hints) (n : Nat) : Nat := min 32 (n + 22 * h.imm.length)

/-- No payload bit stands above bit 31. -/
def immFits (h : Hints) (o n : Nat) : Prop := immBits h o n < 2 ^ immWidth h n

/-- Its value: signed from its own top bit, or unsigned. -/
def immVal (h : Hints) (o n : Nat) (signed : Bool) : Int :=
  if signed = true ∧ 2 ^ (immWidth h n - 1) ≤ immBits h o n then (immBits h o n : Int) - 2 ^ immWidth h n else immBits h o n

/-- The bits of a 32-bit pattern that are 1. -/
def ones (x : Word) : List Nat := (List.range 32).filter fun i => x.getLsbD i
def countOnes (x : Word) : Word := BitVec.ofNat 32 (ones x).length
def leadZeros (x : Word) : Word := BitVec.ofNat 32 (match (ones x).getLast? with | none => 32 | some i => 31 - i)
def trailZeros (x : Word) : Word := BitVec.ofNat 32 (match (ones x).head? with | none => 32 | some i => i)

/-- 09 Table 9.6, rows 0x00 to 0x0A. -/
def table96 : List ((V2 → Instr) × Accepts × Op1) := [
  (.movB32, {}, fun _ _ a => a), (.notB32, {}, fun _ _ a => ~~~a),
  (.inegS32, accS, fun _ sat a => wrapSat sat (-a.toInt)),
  (.iabsS32, accS, fun _ sat a => wrapSat sat (max a.toInt (-a.toInt))),
  (.popcB32, {}, fun _ _ a => countOnes a), (.clzB32, {}, fun _ _ a => leadZeros a),
  (.ctzB32, {}, fun _ _ a => trailZeros a), (.brevB32, {}, fun _ _ a => a.reverse),
  (.fnegF32, {}, fun _ _ a => if (f32 a).isNan then 0x7FC00000#32 else a ^^^ 0x80000000#32),
  (.fabsF32, {}, fun _ _ a => if (f32 a).isNan then 0x7FC00000#32 else a &&& 0x7FFFFFFF#32),
  (.fintF32, { r := true }, fun rm _ a => match f32 a with
    | .nan => 0x7FC00000#32
    | .inf _ => a
    | .fin neg n d => r32 rm false (.fin neg (roundNat rm neg n d) 1))]

/-- 09 Table 9.6, rows 0x10 to 0x17, with the function of 03 R35. -/
def table96t : List ((V2 → Instr) × Nat) :=
  [(.exp2, 0), (.log2, 1), (.rcp, 2), (.rsqrt, 3), (.sqrt, 4), (.sinpi, 5), (.cospi, 6), (.tanh, 7)]

/-- 09 Table 9.7, but for the pair row. -/
def table97 : List ((VS → Instr) × Accepts × Op3) := [
  (.iaddVs, accS, opAdd), (.imulLoVs, accS, opMulLo), (.imulHiN32Vs, {}, opMulHiU), (.faddVs, accRS, opFadd),
  (.fsubVs, accRS, opFsub), (.fmulVs, accRS, opFmul), (.ffmaVs, accRS, opFfma)]

/-- 09 Table 9.8, the rows of three scalar registers. -/
def table98 : List ((S3 → Instr) × Accepts × Op3) := [
  (.sIadd, accS, opAdd), (.sIsub, accS, opSub), (.sImulLo, accS, opMulLo), (.sImulHiS, {}, opMulHi), (.sImulHiN, {}, opMulHiU),
  (.sIminS, {}, opLeS), (.sImaxS, {}, opGeS), (.sIminN, {}, opLeN), (.sImaxN, {}, opGeN),
  (.sAnd, {}, fun _ _ a b _ => a &&& b), (.sOr, {}, fun _ _ a b _ => a ||| b), (.sXor, {}, fun _ _ a b _ => a ^^^ b),
  (.sAndn, {}, fun _ _ a b _ => a &&& ~~~b), (.sShl, {}, opShlOp), (.sShr, {}, opShrOp), (.sSar, {}, opSarOp),
  (.sRot, {}, opRotOp), (.sFadd, accRS, opFadd), (.sFsub, accRS, opFsub), (.sFmul, accRS, opFmul), (.sFfma, accRS, opFfma),
  (.sFmin, {}, fun _ _ a b _ => lesser a b), (.sFmax, {}, fun _ _ a b _ => greater a b),
  (.csel, {}, fun _ _ a b d => if d = 0 then b else a)]

/-- 09 Table 9.8, the unary rows. -/
def table98u : List ((S2 → Instr) × Accepts × Op1) := [
  (.sPopc, {}, fun _ _ a => countOnes a), (.sClz, {}, fun _ _ a => leadZeros a), (.sCtz, {}, fun _ _ a => trailZeros a),
  (.sBrev, {}, fun _ _ a => a.reverse), (.sNot, {}, fun _ _ a => ~~~a),
  (.sCvtF32S32, accRS, fun rm sat a => r32 rm sat (.fin (a.toInt < 0) a.toInt.natAbs 1)),
  (.sCvtF32N32, accRS, fun rm sat a => r32 rm sat (.fin false a.toNat 1)),
  (.sCvtS32F32, accRS, fun rm _ a => BitVec.ofInt 32 (match f32 a with
    | .nan => 0
    | .inf neg => if neg then -2 ^ 31 else 2 ^ 31 - 1
    | .fin neg n d => clamp 32 (if neg then -(roundNat rm neg n d : Int) else roundNat rm neg n d))),
  (.sCvtN32F32, accRS, fun rm _ a => BitVec.ofInt 32 (match f32 a with
    | .nan => 0
    | .inf neg => if neg then 0 else 2 ^ 32 - 1
    | .fin neg n d => if neg then 0 else min (2 ^ 32 - 1) (roundNat rm neg n d)))]

/-- A condition code of 09 Table 9.2 on integers. -/
def condInt (cc : Nat) (x y : Int) : Bool :=
  match cc with
  | 0 => x == y | 1 => x != y | 2 => decide (x < y) | 3 => decide (x ≤ y) | 4 => decide (y < x) | _ => decide (y ≤ x)

/-- A condition code of 09 Table 9.2 on FP32 values. -/
def condFloat (cc : Nat) (x y : FVal) : Bool :=
  match cc with
  | 0 => x.eq y | 1 => !x.eq y | 2 => x.lt y | 3 => x.lt y || x.eq y | 4 => y.lt x | 5 => y.lt x || x.eq y
  | 6 => !x.isNan && !y.isNan | _ => x.isNan || y.isNan

/-- The test of a vector compare, and the greatest condition code (09 Table 9.2). -/
def tableVC : List ((VC → Instr) × Nat × (Nat → Word → Word → Bool)) := [
  (.icmpS32, 5, fun cc a b => condInt cc a.toInt b.toInt), (.icmpN32, 5, fun cc a b => condInt cc a.toNat b.toNat),
  (.fcmpF32, 7, fun cc a b => condFloat cc (f32 a) (f32 b))]

/-- The test of a scalar compare, and the greatest condition code (09 Table 9.8). -/
def tableSC : List ((SC → Instr) × Nat × (Nat → Word → Word → Bool)) := [
  (.sIcmpS32, 5, fun cc a b => condInt cc a.toInt b.toInt), (.sIcmpN32, 5, fun cc a b => condInt cc a.toNat b.toNat),
  (.sFcmpF32, 7, fun cc a b => condFloat cc (f32 a) (f32 b))]

/-- The combine of a predicate write (09 R135). -/
def combined (cm : Nat) (p t : Bool) : Bool := match cm with | 0 => t | 1 => p && t | 2 => p || t | _ => p != t

/-- The functions of `plog` (09 R136). -/
def plogTable (cc : Nat) (a b : Bool) : Bool :=
  match cc with
  | 0 => a && b | 1 => a || b | 2 => a != b | 3 => a && !b | 4 => !(a && b) | 5 => !(a || b) | 6 => a == b | _ => a || !b

/-- A predicate written in the lanes of m, combined with its old value. -/
def prdComb (c : Ctx) (m : Word) (pd cm : Nat) (t : Nat → Bool) : Nat → Word :=
  prdTo c m pd fun l => combined cm ((c.gr.getP pd).getLsbD l) (t l)

/-! ### Conversion (09 Tables 9.4, 9.5) -/

def intCode (t : Nat) : Bool := t ≤ 7 || t == 13 || t == 14
def signedCode (t : Nat) : Bool := t == 0 || t == 2 || t == 4 || t == 6 || t == 13
/-- Width of a type code. -/
def codeWidth (t : Nat) : Nat :=
  match t with
  | 0 | 1 | 11 => 8 | 2 | 3 | 9 | 10 => 16 | 4 | 5 | 8 => 32 | 6 | 7 => 64 | _ => 4

/-- The integer that a pattern stands for. -/
def codeInt (t x : Nat) : Int := if signedCode t then (BitVec.ofNat (codeWidth t) x).toInt else x % 2 ^ codeWidth t

/-- The value that a pattern stands for. -/
def codeValue (t x : Nat) : FVal :=
  if intCode t then .fin (codeInt t x < 0) (codeInt t x).natAbs 1
  else match t with
    | 8 => F32.value (x % 2 ^ 32)
    | 9 => F16.value (x % 2 ^ 16)
    | 10 => BF16.value (x % 2 ^ 16)
    | 11 => d8Value (x % 2 ^ 8)
    | _ => fp4Value (x % 2 ^ 4)

/-- Clamp to the range of an integer type. -/
def clampCode (t : Nat) (y : Int) : Int := if signedCode t then clamp (codeWidth t) y else max 0 (min y (2 ^ codeWidth t - 1))

/-- Convert(dt, x) of 09 Table 9.5, as an integer whose low bits are written. -/
def convertTo (dt st : Nat) (h : Hints) (x : Nat) : Int :=
  if dt = st then x
  else if intCode dt then
    if intCode st then (if h.sat then clampCode dt (codeInt st x) else codeInt st x)
    else match codeValue st x with
      | .nan => 0
      | .inf neg => clampCode dt (if neg then -2 ^ 70 else 2 ^ 70)
      | .fin neg n d =>
        let r : Nat := roundNat (if st = 11 then 0 else h.rm) neg n d
        clampCode dt (if neg then -(r : Int) else r)
  else match dt with
    | 8 => F32.round h.rm h.sat (codeValue st x)
    | 9 => F16.round h.rm h.sat (codeValue st x)
    | 10 => BF16.round h.rm h.sat (codeValue st x)
    | 11 => toD8 (codeValue st x) h.ovf
    | _ => toFp4 (codeValue st x)

/-- The register or pair written: the low bits, and a sign copy or zeros above (09 R139). -/
def writeCode (dt : Nat) (y : Int) : BitVec 64 :=
  if signedCode dt then (BitVec.ofInt (codeWidth dt) y).signExtend 64 else (BitVec.ofInt (codeWidth dt) y).setWidth 64

/-- The source of a lane: a register's low bits, or a pair. -/
def readCode (c : Ctx) (st a l : Nat) : Nat :=
  if codeWidth st = 64 then (c.gr.getV (a + 1) l).toNat * 2 ^ 32 + (c.gr.getV a l).toNat else (c.gr.getV a l).toNat % 2 ^ codeWidth st

/-- What a conversion accepts (09 Table 9.5). -/
def cvtAccepts (dt st : Nat) : Mods :=
  if dt = st then {} else if dt = 11 then { o := true } else if dt = 12 then {}
  else if intCode dt ∧ (intCode st ∨ st = 11) then { s := true } else { r := true, s := true }

def codeRegs (t r : Nat) : List Nat := if codeWidth t = 64 then [r, r + 1] else [r]

/-- The word of an instruction as issued. -/
abbrev wordOf (i : Instr) : Nat := encode i

/-! ### Lane operations (11.5) and special registers (11.6) -/

/-- The source lane of 11 Table 11.5, none when it is out of range. -/
def moveSource (kind sub l : Nat) (k : Word) : Option Nat :=
  let seg := 32 / 2 ^ sub
  let base := l - l % seg
  match kind with
  | 0 => some (base + k.toNat % seg)
  | 1 => some (base + (l - base + k.toNat) % seg)
  | 2 => if (base : Int) ≤ l + k.toInt ∧ l + k.toInt < base + seg then some (l + k.toInt).toNat else none
  | 3 => some (base + Nat.xor (l - base) (k.toNat % seg))
  | _ => some (base + seg - 1 - (l - base))

/-- A fold in ascending lane order, with the value of an empty one. -/
def foldFrom (z : Word) (f : Word → Word → Word) : List Word → Word
  | [] => z
  | x :: t => t.foldl f x

/-- The fold of `iadd`: one exact sum, wrapped, or clamped under S. -/
def foldSum (sat : Bool) (l : List Word) : Word := wrapSat sat (l.map BitVec.toInt).sum

/-- The folds of 11 Table 11.6, by rounding mode, S and the values. -/
abbrev FoldOp := Nat → Bool → List Word → Word
def fldAdd : FoldOp := fun _ sat l => foldSum sat l
def fldMinS : FoldOp := fun _ _ l => foldFrom 0x7FFFFFFF#32 (opLeS 0 false · · 0) l
def fldMaxS : FoldOp := fun _ _ l => foldFrom 0x80000000#32 (opGeS 0 false · · 0) l
def fldAddF : FoldOp := fun rm sat l => foldFrom 0x80000000#32 (opFadd rm sat · · 0) l

def tableFold : List ((LF → Instr) × Accepts × FoldOp) := [
  (.lfoldIaddS32, accS, fldAdd), (.lfoldIminS32, {}, fldMinS), (.lfoldImaxS32, {}, fldMaxS), (.lfoldFaddF32, accRS, fldAddF),
  (.lfoldIminN32, {}, fun _ _ l => foldFrom 0 (opLeN 0 false · · 0) l), (.lfoldImaxN32, {}, fun _ _ l => foldFrom 0 (opGeN 0 false · · 0) l),
  (.lfoldFminF32, {}, fun _ _ l => foldFrom 0 lesser l), (.lfoldFmaxF32, {}, fun _ _ l => foldFrom 0 greater l),
  (.lfoldAndB32, {}, fun _ _ l => foldFrom 0 (· &&& ·) l), (.lfoldOrB32, {}, fun _ _ l => foldFrom 0 (· ||| ·) l),
  (.lfoldXorB32, {}, fun _ _ l => foldFrom 0 (· ^^^ ·) l)]

/-- Prefixes, and whether a lane's own value is in its prefix. -/
def tablePre : List ((LF → Instr) × Accepts × Bool × FoldOp) := [
  (.lpreIaddS32, accS, true, fldAdd), (.lpreIminS32, {}, true, fldMinS), (.lpreImaxS32, {}, true, fldMaxS), (.lpreFaddF32, accRS, true, fldAddF),
  (.lprexIaddS32, accS, false, fldAdd), (.lprexIminS32, {}, false, fldMinS), (.lprexImaxS32, {}, false, fldMaxS), (.lprexFaddF32, accRS, false, fldAddF)]

/-- The census forms: the value from B, and the predicate from B, Mask(P) and the lane. -/
def tableCensus : List ((LC → Instr) × (Word → Word) × (Word → Word → Nat → Bool)) := [
  (.pmask, fun b => b, fun b _ _ => b != 0), (.pcount, countOnes, fun b p _ => b == p),
  (.pfirst, fun b => if b = 0 then 0xFFFFFFFF#32 else trailZeros b, fun b _ l => (ones b).head? == some l),
  (.pparity, fun b => BitVec.ofNat 32 ((ones b).length % 2), fun b p _ => b == 0 || b == p)]

/-- The grouping forms: whether they compare pairs, the value and the predicate of a lane from P, the mask of the lanes of P
that hold its value, and the lane (11 R173). -/
def tableGrouping : List ((LF → Instr) × Bool × (Word → Word → Nat → Word) × (Word → Word → Nat → Bool)) :=
  let least (m : Word) (l : Nat) : Bool := (ones m).head? == some l
  let rank (m : Word) (l : Nat) : Word := BitVec.ofNat 32 ((ones m).filter (· < l)).length
  [(.lpeersB32, false, fun _ m _ => m, fun _ m l => least m l), (.lpeersB64, true, fun _ m _ => m, fun _ m l => least m l),
   (.lrankB32, false, fun _ m l => rank m l, fun _ m l => least m l), (.lrankB64, true, fun _ m l => rank m l, fun _ m l => least m l),
   (.lsameB32, false, fun p m _ => if m = p then p else 0, fun p m _ => m == p), (.lsameB64, true, fun p m _ => if m = p then p else 0, fun p m _ => m == p)]

/-- The value that a grouping form compares. -/
def groupValue (c : Ctx) (wide : Bool) (a l : Nat) : BitVec 64 :=
  if wide then c.gr.getV (a + 1) l ++ c.gr.getV a l else (c.gr.getV a l).setWidth 64

/-- Lanes of a mask. -/
abbrev has (m : Word) (l : Nat) : Bool := m.getLsbD l

/-- Registers of 07 Table 7.7 that one lane or one group has, by selector: what a lane reads (low 32 bits). -/
def table77 : List (Nat × (Ctx → Nat → Nat)) := [
  (0x00, fun _ l => l), (0x01, fun c _ => c.gr.index), (0x02, fun c _ => c.gr.valid.toNat), (0x03, fun c _ => c.gr.role),
  (0x04, fun c _ => c.co.ngroups), (0x05, fun c _ => c.co.lcell), (0x06, fun c _ => c.co.die), (0x07, fun c _ => bits c.co.hdr 8 2),
  (0x08, fun c l => (Sparse.get 0 c.gr.iids l).toNat), (0x09, fun c l => (Sparse.get 0 c.gr.iids l).toNat / 2 ^ 32),
  (0x41, fun c _ => c.who.si),
  (0x44, fun c _ => bits c.co.hdr 832 56), (0x45, fun c _ => bits c.co.hdr 832 56 / 2 ^ 32),
  (0x98, fun c _ => c.co.tvec.toNat), (0x99, fun c _ => if c.sp.handler then 1 else 0),
  (0xA0, fun c _ => c.co.ctx.toNat), (0xA1, fun c _ => c.co.ctx.toNat / 2 ^ 32)]

/-- The split, its group and its cohort in a later state. -/
def Stands (t : State) (w : Who) (co' : Cohort) (g' : Group) (x' : Split) : Prop :=
  t.cohort? w.co = some co' ∧ co'.groups[w.gi]? = some g' ∧ g'.splits[w.si]? = some x'

/-! ### Control flow (11) -/

/-- Of the group only registers, marks, skid, splits and the reconvergence stack may differ. -/
def OnlyFlow (c : Ctx) (g' : Group) : Prop :=
  { g' with v := c.gr.v, s := c.gr.s, p := c.gr.p, marks := c.gr.marks, left := c.gr.left, skid := c.gr.skid,
            splits := c.gr.splits, stack := c.gr.stack } = c.gr

/-- The whole split goes to a PC; all else is as it was, but for the scalar registers fs. -/
def GoesWith (s : State) (c : Ctx) (t : State) (pc : VAddr) (fs : Nat → Word) : Prop :=
  SameModule s t ∧ ∃ co' g' x', OnlyCohort s t c.who.co co' ∧ OnlyGroup c co' g' ∧ OnlySplit c g' x' ∧ SameLanes c.sp x' ∧ At x' pc ∧
    Regs g' (sameV c) fs (sameP c)

def Goes (s : State) (c : Ctx) (t : State) (pc : VAddr) : Prop := GoesWith s c t pc (sameS c)

/-- An address that fits in 56 bits (13 R358). -/
def Fits (t : Int) : Prop := 0 ≤ t ∧ t < 2 ^ 56

/-- PC + 4 × offset (11 R153). -/
def relTarget (c : Ctx) {n : Nat} (o : BitVec n) : Int := c.sp.pc.toNat + 4 * o.toInt

/-- The next word. -/
def nextPc (c : Ctx) : Int := c.sp.pc.toNat + 4

/-- The branches that move the whole split: lanes of `pN` and of the split (11 R153). -/
def tableBr : List ((BR → Instr) × (Word → Word → Bool)) :=
  [(.brAny, fun tk _ => tk != 0), (.brAll, fun tk n => tk == n), (.brNone, fun tk _ => tk == 0)]

/-- The split is the only live one of its group and owns no entry (11 R155). -/
def Alone (c : Ctx) : Prop := (c.gr.splits.filter fun x => x.live).length = 1 ∧ ∀ e ∈ c.gr.stack, e.owner ≠ some c.who.si

/-- The lowest free split indexes. -/
def freeSlots (g : Group) : List Nat := (List.range 4).filter fun i => g.splits[i]?.elim false fun x => !x.live

/-- Pairs of a division that become splits at once (11 R155). -/
noncomputable def splitsNow (c : Ctx) (k : Nat) : Nat := by
  classical exact if Alone c then min k 4 else 1

/-- Divide(split, list) (11 R155): the first pair is the split's; the next are new splits at the lowest free indexes, or all
others wait in DEFER entries, with the earliest on top. -/
def Divided (s : State) (c : Ctx) (t : State) (l : List (Int × Word)) : Prop :=
  SameModule s t ∧ ∃ co' g' x' p, OnlyCohort s t c.who.co co' ∧ OnlyGroup c co' g' ∧ OnlyFlow c g' ∧ l.head? = some p ∧
    g'.splits[c.who.si]? = some x' ∧ SameLanes c.sp { x' with mask := c.sp.mask } ∧ x'.mask = p.2 ∧ At x' (BitVec.ofInt 56 p.1) ∧
    Regs g' (sameV c) (sameS c) (sameP c) ∧
    (∀ j, 1 ≤ j → j < splitsNow c l.length → ∃ q i y, l[j]? = some q ∧ (freeSlots c.gr)[j - 1]? = some i ∧ g'.splits[i]? = some y ∧
      y.live = true ∧ y.mask = q.2 ∧ y.pc = BitVec.ofInt 56 q.1 ∧ y.pos = 0 ∧ y.nfirst = true ∧ y.handler = c.sp.handler) ∧
    ∃ ds, g'.stack = ds ++ c.gr.stack ∧ ds.length = l.length - splitsNow c l.length ∧
      ∀ j, j < ds.length → ∃ e q, ds[j]? = some e ∧ l[splitsNow c l.length + j]? = some q ∧ e.kind = .defer ∧ e.mask = q.2 ∧
        e.pc = BitVec.ofInt 56 q.1 ∧ e.pos = 0 ∧ (Alone c → e.owner = none) ∧ (¬ Alone c → e.owner = some c.who.si)

/-- The distinct offsets of the lanes of `brx`, ranked by their lowest lane, with their lanes (11 R157). -/
def brxPairs (c : Ctx) (a : Nat) : List (Int × Word) :=
  (((ones c.sp.mask).map fun l => (c.gr.getV a l).toNat).eraseDups).map fun o =>
    ((c.co.kb + o : Nat), maskIf c.sp.mask fun l => (c.gr.getV a l).toNat == o)

/-- A split waits at an entry (11 R160). -/
def WaitsAt (g : Group) (e : StackEntry) (i : Nat) : Prop :=
  ∃ x, g.splits[i]? = some x ∧ x.live = true ∧ (x.wait = .join ∨ ∃ p n, x.wait = .waitj p n) ∧ g.join? i = some e ∧ x.pc = e.pc ∧
    x.mask &&& ~~~e.arr = 0

/-- No `waitj` of the group has run out in the cycle in which the word issues (11 R161). -/
def OnTime (s : State) (c : Ctx) : Prop := ∀ x ∈ c.gr.splits, ∀ p n, x.wait = .waitj p n → s.tick.nowOf c.who.co < n

/-- The lanes of the split are in no other live split (11 R148). -/
def DisjointMasks (c : Ctx) : Prop :=
  ∀ j x, j ≠ c.who.si → c.gr.splits[j]? = some x → x.live = true → x.mask &&& c.sp.mask = 0

/-- BarpArrive (11 R169): none for BARRIER_OVERRUN; else the phase ends that the arrival awaits, those it makes, and the new
parity and counts. -/
def arriveSpec (w : Word) (q : Nat) : Option (Nat × Nat × Nat × (Nat → Nat)) :=
  let ph := w.toNat / 2 ^ 31
  let exp := w.toNat / 2 ^ 20 % 2 ^ 10
  let cnt (k : Nat) : Nat := w.toNat / 2 ^ (10 * k) % 2 ^ 10
  if w.getLsbD 30 = true ∨ exp = 0 ∨ exp < cnt 0 ∨ exp < cnt 1 then none
  else if q ≠ ph ∧ cnt q = exp then none
  else
    let c1 (k : Nat) : Nat := if k = q then (cnt k + 1) % 2 ^ 10 else cnt k
    if c1 ph = exp then
      let c2 (k : Nat) : Nat := if k = ph then 0 else c1 k
      if c2 (1 - ph) = exp then some (if q = ph then 1 else 2, 2, ph, fun _ => 0)
      else some (if q = ph then 1 else 2, 1, 1 - ph, c2)
    else some (if q = ph then 1 else 2, 0, ph, c1)

/-- The barrier word of a cohort at an offset. -/
def barWord (co : Cohort) (off : Nat) : Word :=
  Sparse.get 0 co.scratch (off + 3) ++ Sparse.get 0 co.scratch (off + 2) ++ Sparse.get 0 co.scratch (off + 1) ++ Sparse.get 0 co.scratch off

/-- No watchpoint of the cohort's cluster is enabled (23 R315). -/
def Unwatched (s : State) (co : Cohort) : Prop :=
  ∀ k, s.clusterOf co = some k → ∀ n, n < 8 → (s.reg (cluReg k (0x0408 + 16 * n))).getLsbD 0 = false

/-! ### Memory words (15) -/

/-- No SC or ordered operation of a lane of the split waits (13 R208, R211), and no data are in error (21 R295). -/
def Calm (s : State) (c : Ctx) : Prop :=
  s.bad = [] ∧ c.co.badScr = [] ∧
  (∀ o ∈ s.sc, o.who.co = c.who.co → o.who.gi = c.who.gi → has c.sp.mask o.lane = false) ∧
  ∀ o ∈ s.ords, o.who.co = c.who.co → o.who.gi = c.who.gi → has c.sp.mask o.lane = false

/-- The displacement (15 R215, 05 R65). -/
def dispOf (c : Ctx) : Int := immVal c.h 0 0 true
def dispFits (c : Ctx) : Prop := immFits c.h 0 0

/-- A pair of scalar registers, and of a lane's vector registers. -/
def pairS (c : Ctx) (r : Nat) : BitVec 64 := c.gr.getS (r + 1) ++ c.gr.getS r
def pairV (c : Ctx) (r l : Nat) : BitVec 64 := c.gr.getV (r + 1) l ++ c.gr.getV r l

/-- GAddr and AAddr, modulo 2^64 (15 R215). -/
def gAddr (c : Ctx) (bp o l : Nat) : Nat := (((pairS c (2 * bp)).toNat + (c.gr.getV o l).toNat + dispOf c) % 2 ^ 64 : Int).toNat
def aAddr (c : Ctx) (a l : Nat) : Nat := (((pairV c a l).toNat + dispOf c) % 2 ^ 64 : Int).toNat
/-- SAddr and COff, exact. -/
def sAddr (c : Ctx) (bp o l : Nat) : Int := (c.gr.getS (2 * bp)).toNat + (c.gr.getV o l).toNat + dispOf c
def cOff (c : Ctx) (o l : Nat) : Int := (c.gr.getV o l).toNat + dispOf c

/-- Bytes and registers of a size (15 Table 15.1). -/
def sizeBytes (z : Nat) (b8 : Bool) : Nat := match z with | 0 => if b8 then 1 else 4 | 1 => 8 | 2 => 16 | _ => 2
def sizeRegs (z : Nat) : Nat := match z with | 1 => 2 | 2 => 4 | _ => 1
def dataRegs (z : Nat) (d : Nat) : List Nat := (List.range (sizeRegs z)).map fun i => d + i

/-- Register i of a value of w bytes, least significant first, zero-extended (15 R218). -/
def dataWord (b : Nat → Byte) (w i : Nat) : Word :=
  BitVec.ofNat 32 (((List.range (min 4 (w - 4 * i))).map fun j => (b (4 * i + j)).toNat * 256 ^ j).sum)

/-- Byte j of the registers from d on (15 R218). -/
def dataByte (c : Ctx) (d l j : Nat) : Byte := (c.gr.getV (d + j / 4) l).extractLsb' (8 * (j % 4)) 8

/-- The number in w bytes. -/
def numOf (b : Nat → Byte) (w : Nat) : BitVec 64 := BitVec.ofNat 64 (((List.range w).map fun j => (b j).toNat * 256 ^ j).sum)

/-- No dirty line of the cohort's cluster waits for a link port (13 R206; 25 R347). -/
def Backed (s : State) (c : Ctx) : Prop := ∀ k, s.clusterOf c.co = some k → s.unbacked k = false

/-- Writes of the party of number t set no dirty bitmap bit: it is no virtual device, or its TRK is 0 (25 R343). -/
def TrackOff (s : State) (t : Nat) : Prop := t = 0 ∨ (s.reg (0x0A08 + 16 * (t - 1))).getLsbD 0 = false

/-- The accesses of the lanes of m pass the checks of 15 R216: below 2^56, aligned, translated, to no register; and a link
carries those to other modules (25 R347). Their byte keys are `key`. -/
def Reach (s : State) (c : Ctx) (m : Word) (k : Access) (w : Nat) (ea key : Nat → Nat) : Prop :=
  ∀ l, has m l = true → ea l < 2 ^ 56 ∧ ea l % w = 0 ∧ isRegKey (key l) = false ∧ s.noRoute (key l) = false ∧ key l % w = 0 ∧
    ∃ p, s.laneXlate c.co (ea l) k = .ok p ∧ p.key = key l

/-- The cluster holds the translation and the 32-byte sector of each access, once. -/
def Warm (s : State) (c : Ctx) (m : Word) (ea key : Nat → Nat) : Prop :=
  s.canonical = true ∧ ∀ k, s.clusterOf c.co = some k →
    ((s.cluster k).lines.map fun x => x.key).Nodup ∧ (∀ x ∈ (s.cluster k).lines, Sparse.rises 0 x.bytes = true) ∧
    ∀ l, has m l = true →
      (∃ e ∈ (s.cluster k).tlb, e.root = c.co.root ∧ e.base ≤ ea l ∧ ea l < e.base + e.size) ∧
      ∀ i, i < 32 → (s.cached? k (key l / 32 * 32 + i)).isSome = true

/-- Of the cells only the counters m and h of 07 Table 7.3 differ, with the start of their interval (07 R117). -/
def SameCells (s t : State) : Prop := ∀ k, { t.cell k with m := (s.cell k).m, h := (s.cell k).h, llsAt := (s.cell k).llsAt } = s.cell k

/-- Nothing outside the cohorts changes but those counters, the time and the free counter. -/
def SamePath (s t : State) : Prop :=
  { t with cohorts := s.cohorts, time := s.time, free := s.free, stalled := s.stalled, cells := s.cells } = s ∧ SameCells s t

/-- Values come into registers d to d + n − 1 of the lanes of m, value i of lane l being f i l: at once, or, with a lookahead
count, into a window that opens. The split goes on. -/
def Returned (c : Ctx) (g' : Group) (x' : Split) (look d n : Nat) (m : Word) (f : Nat → Nat → Word) : Prop :=
  (look = 0 → Moved c.sp { x' with mon := c.sp.mon } ∧
    Regs g' (fun r l => if has m l = true ∧ d ≤ r ∧ r < d + n then f (r - d) l else c.gr.getV r l) (sameS c) (sameP c)) ∧
  (look ≠ 0 → Regs g' (sameV c) (sameS c) (sameP c) ∧ Moved c.sp { x' with mon := c.sp.mon, windows := [] } ∧
    ∃ w, x'.windows = [w] ∧ w.dst.toNat = d ∧ w.nreg = n ∧ w.left = look ∧ w.pmask = m ∧ w.ready = true ∧
      ∀ i l, i < n → l < 32 → ((32 * (d + i) + l, f i l) ∈ w.vals ↔ has m l = true))

/-- The split goes on and no register changes. -/
def Passed (c : Ctx) (g' : Group) (x' : Split) : Prop :=
  Regs g' (sameV c) (sameS c) (sameP c) ∧ Moved c.sp { x' with mon := c.sp.mon }

/-- The highest lane of m whose w bytes at `at_` cover a byte: the last to store it in ascending lane order (15 R219). -/
def lastOver (m : Word) (w : Nat) (at_ : Nat → Nat) (b : Nat) : Option Nat :=
  ((ones m).filter fun l => decide (at_ l ≤ b) && decide (b < at_ l + w)).getLast?

/-- The one lane of a mask. -/
def Only (m : Word) (l : Nat) : Prop := ∀ k, has m k = true ↔ k = l

/-! ### Atomic operations (15 Table 15.2) -/

/-- A row: whether it names 64 bits or a second data register, returns the old value, writes; and the new value of the
location from the old one, D and X. -/
structure AtomRow where
  wide : Bool := false
  cas : Bool := false
  back : Bool := true
  writes : Bool := true
  new : BitVec 64 → BitVec 64 → BitVec 64 → BitVec 64

def on32 (f : Word → Word → Word → Word) (o d x : BitVec 64) : BitVec 64 := (f (o.setWidth 32) (d.setWidth 32) (x.setWidth 32)).setWidth 64

def rowAdd : AtomRow := { new := on32 fun o d _ => o + d }
def rowFadd : AtomRow := { new := on32 fun o d _ => opFadd 0 false o d 0 }
def rowMin : AtomRow := { new := on32 fun o d _ => opLeS 0 false o d 0 }
def rowMax : AtomRow := { new := on32 fun o d _ => opGeS 0 false o d 0 }
def rowAnd : AtomRow := { new := on32 fun o d _ => o &&& d }
def rowOr : AtomRow := { new := on32 fun o d _ => o ||| d }
def rowXchg : AtomRow := { new := on32 fun _ d _ => d }
def rowCas : AtomRow := { cas := true, new := on32 fun o d x => if o = d then x else o }
def rowAdd64 : AtomRow := { wide := true, new := fun o d _ => o + d }
def rowLd : AtomRow := { writes := false, new := fun o _ _ => o }
def rowSt : AtomRow := { back := false, new := on32 fun _ d _ => d }

/-- The rows that take no ticket, on global memory and on scratch. -/
def tableAtom : List (AtomRow × (BitVec 3 → BitVec 7 → BitVec 7 → BitVec 4 → Instr) × (BitVec 7 → BitVec 7 → BitVec 4 → Instr)) := [
  (rowAdd, fun s d a l => .atomAddS32 ⟨s, d, a, l⟩, fun d a l => .atomAddS32Scr ⟨d, a, l⟩),
  (rowFadd, fun s d a l => .atomFaddF32 ⟨s, d, a, l⟩, fun d a l => .atomFaddF32Scr ⟨d, a, l⟩),
  (rowMin, fun s d a l => .atomMinS32 ⟨s, d, a, l⟩, fun d a l => .atomMinS32Scr ⟨d, a, l⟩),
  (rowMax, fun s d a l => .atomMaxS32 ⟨s, d, a, l⟩, fun d a l => .atomMaxS32Scr ⟨d, a, l⟩),
  (rowAnd, fun s d a l => .atomAndB32 ⟨s, d, a, l⟩, fun d a l => .atomAndB32Scr ⟨d, a, l⟩),
  (rowOr, fun s d a l => .atomOrB32 ⟨s, d, a, l⟩, fun d a l => .atomOrB32Scr ⟨d, a, l⟩),
  (rowXchg, fun s d a l => .atomXchgB32 ⟨s, d, a, l⟩, fun d a l => .atomXchgB32Scr ⟨d, a, l⟩),
  (rowCas, fun s d a l => .atomCasB32 ⟨s, d, a, l⟩, fun d a l => .atomCasB32Scr ⟨d, a, l⟩),
  (rowAdd64, fun s d a l => .atomAddN64 ⟨s, d, a, l⟩, fun d a l => .atomAddN64Scr ⟨d, a, l⟩),
  ({ rowAdd with back := false }, fun s d a _ => .redAddS32 ⟨s, d, a⟩, fun d a _ => .redAddS32Scr ⟨d, a⟩),
  ({ rowFadd with back := false }, fun s d a _ => .redFaddF32 ⟨s, d, a⟩, fun d a _ => .redFaddF32Scr ⟨d, a⟩),
  ({ rowAdd64 with back := false }, fun s d a _ => .redAddN64 ⟨s, d, a⟩, fun d a _ => .redAddN64Scr ⟨d, a⟩),
  (rowLd, fun s d a l => .ldAcqB32 ⟨s, d, a, l⟩, fun d a l => .ldAcqB32Scr ⟨d, a, l⟩),
  (rowSt, fun s d a _ => .stRelB32 ⟨s, d, a⟩, fun d a _ => .stRelB32Scr ⟨d, a⟩)]

def AtomRow.bytes (e : AtomRow) : Nat := if e.wide then 8 else 4
def AtomRow.nreg (e : AtomRow) : Nat := if e.wide then 2 else 1
def AtomRow.regs (e : AtomRow) (d a : Nat) : List Nat := a :: (a + 1) :: d :: (if e.wide ∨ e.cas then [d + 1] else [])
/-- D and X of a lane. -/
def AtomRow.dOf (e : AtomRow) (c : Ctx) (d l : Nat) : BitVec 64 := if e.wide then pairV c d l else (c.gr.getV d l).setWidth 64
def AtomRow.xOf (e : AtomRow) (c : Ctx) (d l : Nat) : BitVec 64 := if e.cas then (c.gr.getV (d + 1) l).setWidth 64 else 0
/-- Legal fields (15 R223): an even address pair, and an even d where it names a pair. -/
def AtomRow.ok (e : AtomRow) (d a : Nat) : Prop := a % 2 = 0 ∧ (e.wide = true ∨ e.cas = true → d % 2 = 0)

/-- The lookahead count that a row takes from its L field: none where it returns nothing. -/
def AtomRow.look (e : AtomRow) (l : BitVec 4) : Nat := if e.back then l.toNat else 0

/-- The operations of some lanes, one after another, over bytes: the old values, and the bytes after. -/
def AtomRow.run (e : AtomRow) (c : Ctx) (d : Nat) (at_ : Nat → Nat) : List Nat → (Nat → Byte) → (Nat → BitVec 64) × (Nat → Byte)
  | [], m => (fun _ => 0, m)
  | l :: t, m =>
    let old := numOf (fun j => m (at_ l + j)) e.bytes
    let new := e.new old (e.dOf c d l) (e.xOf c d l)
    let r := e.run c d at_ t fun b =>
      if e.writes = true ∧ at_ l ≤ b ∧ b < at_ l + e.bytes then new.extractLsb' (8 * (b - at_ l)) 8 else m b
    (fun k => if k = l then old else r.1 k, r.2)

/-- What an atomic word returns: old values, or nothing. -/
def AtomRow.returned (e : AtomRow) (c : Ctx) (g' : Group) (x' : Split) (look d : Nat) (m : Word) (old : Nat → BitVec 64) : Prop :=
  if e.back then Returned c g' x' look d e.nreg m fun i l => (old l).extractLsb' (32 * i) 32 else Passed c g' x'

/-- The cluster of the cohort, if any, holds no line. -/
def NoLines (s : State) (c : Ctx) : Prop := ∀ k, s.clusterOf c.co = some k → (s.cluster k).lines = []

/-- The lines of a cluster are listed once, with ascending bytes of one line, and none is tracked (13 R182; 25 R343). -/
def LinesOk (s : State) (k : Nat) : Prop :=
  ((s.cluster k).lines.map fun x => x.key).Nodup ∧
    ∀ x ∈ (s.cluster k).lines, Sparse.rises 0 x.bytes = true ∧ ∀ p ∈ x.bytes, p.1 < 128 ∧ ∀ b t, p.2 = some b → b.dirty = some t → TrackOff s t

/-- The dirty bytes of a cluster have gone home, and no other byte of memory has changed (13 R206). -/
def BackHome (s t : State) (k : Nat) : Prop :=
  ∀ a, Memory.read t.mem a = match (s.cached? k a).bind fun b => b.dirty.map fun _ => b.v with
    | some v => v
    | none => Memory.read s.mem a

/-- The slice of a location has applied every request of the cohort's source (13 R198). -/
def InStep (s : State) (c : Ctx) (key : Nat) : Prop :=
  (s.sliceRec (sliceOf key) (s.source c.co)).last = Sparse.get 0 s.sent (sentAt (sliceOf key) (s.source c.co)) ∧
    (s.sliceRec (sliceOf key) (s.source c.co)).early = [] ∧ Sparse.rises 0 s.sent = true

/-- The condition of a monitor on the old word and the comparand (15 Table 15.4). -/
def condMon (cond : Nat) (wide : Bool) (v k : BitVec 64) : Bool :=
  let sg (x : BitVec 64) : Int := if wide then x.toInt else (x.setWidth 32).toInt
  let un (x : BitVec 64) : Nat := if wide then x.toNat else (x.setWidth 32).toNat
  match cond with
  | 0 => un v == un k | 1 => un v != un k | 2 => decide (sg v < sg k) | 3 => decide (sg k ≤ sg v)
  | 4 => decide (un v < un k) | 5 => decide (un k ≤ un v)
  | _ => (List.range (if wide then 64 else 32)).any fun i => v.getLsbD i && k.getLsbD i

/-! ### Engine words and tensors (17) -/

/-- The images of the four scalar registers of a parameter block (17 Table 17.5). -/
def blkP0 (c : Ctx) (b : BitVec 6) : Word := c.gr.getS b.toNat
def blkP1 (c : Ctx) (b : BitVec 6) : Word := c.gr.getS (b.toNat + 1)
def blkRec (c : Ctx) (b : BitVec 6) : BitVec 64 := pairS c (b.toNat + 2)

/-- A parameter block that a command accepts: an aligned register, and a completion record address that is a multiple of 16 below
2^56 (17 R253). -/
def BlockFit (c : Ctx) (b : BitVec 6) : Prop := b.toNat % 4 = 0 ∧ (blkRec c b).toNat % 16 = 0 ∧ (blkRec c b).toNat < 2 ^ 56

/-- The offset of the barrier word of a block, which lies inside the window where an arrival is asked for (17 R239). -/
def blkBar (c : Ctx) (b : BitVec 6) : Nat := 4 * bits (blkP0 c b) 20 12
def BarOk (c : Ctx) (b : BitVec 6) : Prop := bit (blkP0 c b) 18 = true → blkBar c b + 4 ≤ c.co.z

/-- Both. -/
def BlockOk (c : Ctx) (b : BitVec 6) : Prop := BlockFit c b ∧ BarOk c b

/-- A tensor entry that is valid, whose elements lie in the window where it is in scratch, and whose bank is claimed where it
is a ring (17 R241, R245). -/
def TensorAt (c : Ctx) (n : Nat) (t : Desc) : Prop :=
  c.co.tensor? n = some t ∧ t.scratchBad c.co.z = none ∧ (t.loc = 2 → t.bank ∈ c.co.fifos)

/-- The word makes one command, with what it copies at issue (17 R236), and changes nothing else. -/
def MakesCmd (s : State) (c : Ctx) (t : State) (k : Cmd) : Prop :=
  SameModule s { t with cmds := s.cmds, nextCmd := s.nextCmd } ∧ t.cmds = s.cmds ++ [k] ∧ t.nextCmd = s.nextCmd + 1 ∧
    k.id = s.nextCmd ∧ k.co = some c.who.co ∧ k.gi = c.who.gi ∧ k.si = c.who.si ∧ k.launch = c.co.launch ∧ k.root = c.co.root ∧
    k.pc = c.sp.pc ∧ k.pos = c.sp.pos ∧ k.done = false ∧ k.stopped = false ∧ k.node = none ∧
    ∃ co' g' x', OnlyCohort s t c.who.co co' ∧ OnlyGroup c co' g' ∧ OnlySplit c g' x' ∧ Passed c g' x'

/-- The word makes a command for which f holds; with an arrival at a barrier word outside the window it traps SCRATCH_BOUNDS
instead (17 R239). -/
def Makes (s : State) (c : Ctx) (b : BitVec 6) (i : Instr) (f : Cmd → Prop) : Prop :=
  (BarOk c b → ∃ u k, exec i s = .next u ∧ MakesCmd s c u k ∧ f k) ∧
  (¬ BarOk c b → exec i s = .next (s.raise c (wordOf i) { code := SCRATCH_BOUNDS, addr := BitVec.ofNat 64 (blkBar c b) }))

/-- A ring tensor whose bank the cohort has not claimed (17 R245). -/
def Unclaimed (c : Ctx) (t : Desc) : Prop := t.loc = 2 ∧ t.bank ∉ c.co.fifos

/-- Descriptors that a copy refuses (17 R254), and those that the gather words refuse (R255), one in a ring among them (log
entry 22). -/
def CopyRefuses (c : Ctx) (d t : Desc) : Prop :=
  d.ndim ≠ t.ndim ∨ d.exts ≠ t.exts ∨ d.scm = 4 ∨ t.scm = 4 ∨ (d.scm ≠ 0 ∧ d.fmt ≠ t.fmt) ∨ Unclaimed c d ∨ Unclaimed c t
def GatherRefuses (fn : Nat) (d t x : Desc) : Prop :=
  (x.fmt ≠ 5 ∧ x.fmt ≠ 7) ∨ x.ndim ≠ 1 ∨ d.fmt ≠ t.fmt ∨ d.ext 0 ≠ t.ext 0 ∨ d.scm = 4 ∨ t.scm = 4 ∨
  (∃ y ∈ [d, t], (2 < y.ndim ∧ y.ext 2 ≠ 1) ∨ (3 < y.ndim ∧ y.ext 3 ≠ 1)) ∨ (∃ y ∈ [d, t, x], y.loc = 2) ∨
  (fn = 2 ∧ d.fmt ≠ 4 ∧ d.fmt ≠ 8)

/-- No doorbell slot of any function is enabled (13 R357). -/
def Slotless (s : State) : Prop := ∀ f j, f < 17 → j < 16 → (s.reg (fnReg f (0x100 + 16 * j))).getLsbD 63 = false

/-- Accumulator names n to n + k − 1. -/
def Named (n k j : Nat) : Prop := n ≤ j ∧ j < n + k

/-- The fault of an `mloop` word as it is read from 17 R248: the six checks, passed. -/
def LoopOk (c : Ctx) (fn : Nat) (ta tb : Nat) (acc : Nat) (p0 p1 : Word) (a b : Desc) : Prop :=
  c.co.aheld.getLsbD acc = true ∧ bit p0 19 = false ∧ (bit p0 17 = true → 4 * bits p0 20 12 + 4 ≤ c.co.z) ∧ TensorAt c tb b ∧
    (if fn = 1 then a = 0 ∧ c.co.aheld.getLsbD (bits p0 0 5) = true ∧ bits p0 0 5 ≠ acc ∧ b.fmt = 10 ∧ b.scm ≠ 4 ∧ bits p0 5 11 = 0
     else TensorAt c ta a ∧ a.scm ≠ 4 ∧
      (if fn = 2 then a.fmt = 10 ∧ (b.fmt = 13 ∨ b.fmt = 14) ∧ b.scm = 4 ∧ c.co.isHF = false ∧ bit c.co.hdr 4 = true
       else (pairOf a.fmt b.fmt).isSome = true ∧ b.scm ≠ 4) ∧
      (fn = 3 ∨ bits p1 16 16 = 0))

/-- The number in n bytes of what a lane of the cohort reads at a key. -/
def seenBytes (s : State) (c : Ctx) (key n : Nat) : Nat := ((List.range n).map fun j => (s.laneByte (s.clusterOf c.co) (key + j)).toNat * 256 ^ j).sum

/-- A 64-byte or 128-byte access of a lane at an address: aligned, translated, to no register. -/
def ReadsAt (s : State) (c : Ctx) (k : Access) (n ea key : Nat) : Prop :=
  ea < 2 ^ 56 ∧ ea % n = 0 ∧ isRegKey key = false ∧ s.noRoute key = false ∧ ∃ p, s.laneXlate c.co ea k = .ok p ∧ p.key = key

/-! ### Events -/

/-- The split that c describes is there, and live. -/
def Here (s : State) (c : Ctx) : Prop := s.ctxOf c.who = some c

/-- Its waits can end: its cohort is resident, the Loupe does not hold its cluster and its group is not halted (21 R291,
23 R318). -/
def WaitsRun (s : State) (c : Ctx) : Prop := c.co.status = .resident ∧ s.stopped c.co = false ∧ c.gr.halt = false

/-- Only the split's group has changed. -/
def InGroup (s : State) (c : Ctx) (t : State) (g' : Group) (x' : Split) : Prop :=
  SameModule s t ∧ ∃ co', OnlyCohort s t c.who.co co' ∧ OnlyGroup c co' g' ∧ OnlySplit c g' x'

/-- A wait has ended: the split goes on, with the scalar registers fs and the monitor m. -/
def WaitOver (s : State) (c : Ctx) (t : State) (fs : Nat → Word) (m : Monitor) : Prop :=
  ∃ g' x', InGroup s c t g' x' ∧ Regs g' (sameV c) fs (sameP c) ∧ Moved c.sp { x' with mon := c.sp.mon } ∧ x'.wait = .none ∧ x'.mon = m

/-- No command of a class in the mask, issued by the group before a bound, still runs (15 R230). -/
def NoneRuns (s : State) (c : Ctx) (bound : Nat) (a : BitVec 6) : Prop :=
  ∀ k ∈ s.cmds, k.co = some c.who.co → k.gi = c.who.gi → k.id < bound →
    a.getLsbD (match k.eng with | .copy => 1 | .matrix => 2 | .gather => 3 | .coll => 4) = true → k.done = true

/-- A window of the split, alone with its order. -/
def HasWindow (c : Ctx) (v : Window) : Prop := v ∈ c.sp.windows ∧ ∀ y ∈ c.sp.windows, y.ord = v.ord → y = v

/-- The slice of a location has applied the requests of a source in turn, and keeps none (13 R198). -/
def TurnOf (s : State) (key src : Nat) : Prop :=
  (s.sliceRec (sliceOf key) src).last = Sparse.get 0 s.sent (sentAt (sliceOf key) src) ∧ (s.sliceRec (sliceOf key) src).early = [] ∧
    Sparse.rises 0 s.sent = true

/-- Memory after a word of w bytes has been stored at a key. -/
def Stored (s t : State) (key w : Nat) (v : BitVec 64) : Prop :=
  ∀ a, Memory.read t.mem a = if key ≤ a ∧ a < key + w then v.extractLsb' (8 * (a - key)) 8 else Memory.read s.mem a

/-- The word of w bytes at home. -/
def homeNum (s : State) (key w : Nat) : BitVec 64 := numOf (fun j => Memory.read s.mem (key + j)) w

/-- The sum of two 32-bit numbers, in 32 bits. -/
def sum32 (a b : BitVec 64) : BitVec 64 := (a.setWidth 32 + b.setWidth 32 : Word).setWidth 64

/-- The range of a pending invalidation covers an entry of its root (13 R194). -/
def Dropped (s : State) (e : TlbEntry) : Prop :=
  let n := bits (s.reg 0x0C00) 0 5
  let va := bits (s.reg 0x0C08) 12 44 * 4096
  let len := bits (s.reg 0x0C10) 12 44 * 4096
  e.root = (if n < 16 then .vd n else .hf) ∧ (len = 0 ∨ (e.base < va + len ∧ va < e.base + e.size))

/-! ### Engines and chains -/

/-- A command of the module that runs, of a cohort c that is resident while its Loupe lets it run (17 R236, R237), and that no `xfence`
holds back (15 R230); no data of the cohort's scratch are in error. -/
def CmdOf (s : State) (m : Cmd) (c : Cohort) : Prop :=
  s.cmd? m.id = some m ∧ (∀ k ∈ s.cmds, k.id = m.id → k = m) ∧ m.gi < c.groups.length ∧ m.stopped = false ∧ m.done = false ∧ m.co = some c.id ∧ s.cohort? c.id = some c ∧
    c.status = .resident ∧ s.stopped c = false ∧ c.badScr = [] ∧
    ∀ g, c.groups[m.gi]? = some g → ∀ x ∈ g.splits, x.live = true → ∀ sc bound a b, x.wait = .xfence sc bound a b →
      m.id < bound ∨ b.getLsbD (match m.eng with | .copy => 1 | .matrix => 2 | .gather => 3 | .coll => 4) = false

/-- Of the commands only m has changed, to m'. -/
def OnlyCmd (s t : State) (m m' : Cmd) : Prop := t.cmds = s.cmds.map fun k => if k.id = m.id then m' else k

/-- An element of a copy has been written (17 R254). -/
def WrittenIn (m : Cmd) (i : Nat) : Prop := i < m.prog.toNat ∨ i ∈ m.ahead

/-- A command has met a fault: it stops with it, its cohort is to be saved with STOP 5 and a record of cause 8 in the issuing group, and
the Headframe is told (17 R237, 21 R356). -/
def CmdFaulted (s : State) (m : Cmd) (c : Cohort) (t : State) (f : EFault) : Prop :=
  t.mem = s.mem ∧ OnlyCmd s t m { m with stopped := true, fault := some f } ∧ t.signals = s.signals ++ [Signal.commandFault m.id] ∧
    ∃ co' g' r, OnlyCohort s t c.id co' ∧ co'.status = .saving 5 (some m.gi) ∧ (∀ g ∈ co'.groups, g.halt = true) ∧
      co'.groups[m.gi]? = some g' ∧ g'.trap = some r ∧ r.cause = 8 ∧ r.code = f.1 ∧ r.pc = m.pc

/-- The chain's walker may go on: nothing waits for a Headframe core (13 R357), no data are in error, and the module is not in recovery
(25 R350). -/
def ChainAt (s : State) (k : Nat) (c : Chain) : Prop :=
  s.chains[k]? = some c ∧ s.waits = [] ∧ c.root = .hf ∧ s.bad = [] ∧ bits (s.reg 0x0E00) 0 4 ≠ 3

/-- An enabled doorbell slot of a function names the control block at a key (01 R18, 13 R357). -/
def SlotNames (s : State) (f j kc : Nat) : Prop :=
  (s.reg (fnReg f (0x100 + 16 * j))).getLsbD 63 = true ∧
    s.agentXlate (if f = 0 then .hf else .vd (f - 1)) (bits (s.reg (fnReg f (0x100 + 16 * j))) 0 56) .read = .ok kc

/-- Node n of a chain. -/
def NodeAt (s : State) (n : Nat) (x : Node) (c : Chain) : Prop := s.nodes[n]? = some x ∧ ChainAt s x.chain c

/-- Memory is as it was but for n bytes at a key, which hold v, least significant first. -/
def Put (s t : State) (key n v : Nat) : Prop :=
  t.homeRead key n = v ∧ ∀ a, a < key ∨ key + n ≤ a → Memory.read t.mem a = Memory.read s.mem a

/-! ### The Faceter, cells, contexts -/

/-- A register of function page f (25 Table 25.2). -/
abbrev page (f off : Nat) : Nat := 0x1_0000 + 0x1000 * f + off

/-- An event with the fields x above SEQ has been put in the ring of function f, or counted in EVLOST while the ring is off or
full (25 R341). The entry's first 8 bytes are its number; `vec` is the vector and the message data's SEQ is SEQ of the entry. -/
def EventIn (s t : State) (f x vec : Nat) : Prop :=
  let w := (s.reg (page f 0x10)).toNat
  let n := bits (s.reg (page f 0x08)) 0 16
  let ctl := s.reg (page f 0x20)
  let drop : Prop := ctl.getLsbD 0 = false ∨ (w + (2 ^ 64 - (s.reg (page f 0x18)).toNat)) % 2 ^ 64 = n
  (drop → t.reg (page f 0x28) = s.reg (page f 0x28) + 1 ∧ t.mem = s.mem ∧ t.msix = s.msix) ∧
  (¬ drop → t.reg (page f 0x10) = s.reg (page f 0x10) + 1 ∧
    t.homeRead (2 ^ 60 + (bits (s.reg (page f 0)) 6 58 * 64 + 32 * (w % n)) % 2 ^ 64) 32 = w + 2 ^ 64 * x ∧
    t.msix = s.msix ++ [({ f := f, vector := BitVec.ofNat 6 vec, seq := if ctl.getLsbD 1 then some (BitVec.ofNat 16 x) else none } : Msi)])

/-- The vector of events that no slot has (25 Table 25.2, EVCTL). -/
def otherVec (s : State) (f : Nat) : Nat := bits (s.reg (page f 0x20)) 2 6

/-- The one launch of the module that a Faceter can serve on its die: neither ORDERED, COOP nor REPLAY, not a re-execution,
with a tiling, whose window lets it dispatch, and no log entries of kinds 0 to 2 (07 R102, R107, R113); no monitor watches a word that
the dispatch may write. -/
structure Served (s : State) (l : Launch) (sh : Share) : Prop where
  only : s.launches = [l]
  share : l.share? sh.die = some sh
  plain : bit l.hdr 5 = false ∧ bit l.hdr 3 = false ∧ bit l.hdr 6 = false ∧ l.rerun = none ∧ l.result = none ∧ l.root = .hf
  goes : s.recovery = false ∧ sh.stopped = false ∧ sh.shape ≠ [] ∧ sh.hm.length < hWin l.hdr ∧ (sh.open_ = true ∨ sh.running < hWin l.hdr)
  log : s.kindOn sh.die 0 = false ∧ s.kindOn sh.die 1 = false ∧ s.kindOn sh.die 2 = false ∧ (s.reg (dieReg sh.die 0x0428)).getLsbD 0 = false
  saved : ∀ c ∈ s.cohorts, c.launch = some l.num → c.status = .resident ∨ c.status = .held
  quiet : ∀ c ∈ s.cohorts, ∀ g ∈ c.groups, ∀ x ∈ g.splits, x.mon.st ≠ .armed

/-- The cell that a Faceter chooses: eligible, with the fewest groups, the lowest on a tie (07 R113). -/
def Chosen (s : State) (n : Needs) (x : Nat) : Prop :=
  x < s.lmap.length ∧ s.eligible n x = true ∧ ∀ y, y < s.lmap.length → s.eligible n y = true →
    (s.cellGroups (s.pcell x)).length < (s.cellGroups (s.pcell y)).length ∨
    ((s.cellGroups (s.pcell x)).length = (s.cellGroups (s.pcell y)).length ∧ x ≤ y)

/-- A cohort that has nothing outside its groups, tables and scratch to save, and whose wave is itself. -/
structure Light (s : State) (c : Cohort) : Prop where
  here : s.cohort? c.id = some c
  one : ∀ d ∈ s.cohorts, d.id = c.id → d = c
  alone : c.kind = .task ∨ bit c.hdr 3 = false
  none : c.fifos = [] ∧ c.run = .none ∧ c.sets = [] ∧ (∀ m ∈ s.cmds, m.co ≠ some c.id) ∧ (∀ o ∈ s.sc, o.who.co ≠ c.id) ∧ (∀ o ∈ s.ords, o.who.co ≠ c.id) ∧
    ∀ g ∈ c.groups, g.dg = [] ∧ g.dgIter = []
  log : s.kindOn c.die 2 = false ∧ s.kindOn c.die 5 = false ∧ c.isHF = false
  backed : ∀ k, s.clusterOf c = some k → s.unbacked k = false

/-- The lowest live split of a cohort (21 R294). -/
def LowestSplit (c : Ctx) : Prop :=
  (∀ gi g x, gi < c.who.gi → c.co.groups[gi]? = some g → x ∈ g.splits → x.live = false) ∧
  ∀ si x, si < c.who.si → c.gr.splits[si]? = some x → x.live = false

/-! ### Registers -/

/-- Only registers of the register region have changed, and the list of stalled splits. -/
def OnlyRegs (s t : State) : Prop := { t with regs := s.regs, stalled := s.stalled } = s

/-- Of the registers only one has changed, to v. -/
def RegTo (s t : State) (off : Nat) (v : BitVec 64) : Prop := t.reg off = v ∧ ∀ o, o ≠ off → t.reg o = s.reg o

/-- Both. -/
def SetsReg (s t : State) (off : Nat) (v : BitVec 64) : Prop := OnlyRegs s t ∧ RegTo s t off v

/-- A change of a bank to a code is refused (13 R185). -/
def BankRefuses (s : State) (k bank code : Nat) : Prop :=
  (s.reg (cluReg k 0x0010)).getLsbD 1 = true ∨ code = 3 ∨
  (s.bankMode k bank = 0 ∧ ((List.range 64).filter fun b => s.bankMode k b == 0).length < 9) ∨
  (s.bankMode k bank = 1 ∧ Sparse.get 0 (s.cluster k).grans bank ≠ 0) ∨ (s.bankMode k bank = 2 ∧ (s.fifo k bank).owner ≠ none)

/-- The range registers, with RRCn holding x, that 13 R188 does not allow. -/
def RangesRefuse (s : State) (die n : Nat) (x : BitVec 64) : Prop :=
  let c (i : Nat) : BitVec 64 := if i = n then x else s.reg (dieReg die (0x0108 + 16 * i))
  let b (i : Nat) : BitVec 64 := s.reg (dieReg die (0x0100 + 16 * i))
  let on (i : Nat) : Prop := i < 16 ∧ (c i).getLsbD 0 = true
  (∃ i, on i ∧ (bits (c i) 12 28 < bits (b i) 12 28 ∨ 16 < bits (c i) 3 5 ∨ bits (c i) 1 2 = 3)) ∨
  (∃ i j, i < j ∧ on i ∧ on j ∧ bits (c i) 1 2 = 2 ∧ bits (c j) 1 2 = 2) ∨
  14 < ((List.range 16).map fun i => if (c i).getLsbD 0 then bits (c i) 8 4 else 0).sum

/-- A watchpoint that 23 R315 does not allow. -/
def WatchRefuses (a c : BitVec 64) : Prop :=
  c.getLsbD 0 = true ∧ (bits a 0 56 % 2 ^ bits c 6 5 ≠ 0 ∨ bits c 2 2 = 3 ∨ bits c 4 2 = 0 ∨ bits c 11 2 = 3 ∨ 20 < bits c 6 5 ∨
    (bits c 44 4 ≠ 0 ∧ bits c 2 2 ≠ 2))

/-- A die's log buffers end in the HBM region (23 R321). -/
def LogsFit (s : State) (die : Nat) : Prop :=
  bits (s.reg (dieReg die 0x0400)) 0 56 + 32 * bits (s.reg (dieReg die 0x0408)) 0 32 ≤ 0x59_682F_0000 ∧
  bits (s.reg (dieReg die 0x0438)) 0 56 + 32 * bits (s.reg (dieReg die 0x0440)) 0 32 ≤ 0x59_682F_0000

/-- A master that reaches the whole register region; the PF's BAR0 reaches its first 64 MiB (25 R338). -/
def Reaches (m : Master) (off : Nat) : Prop := (∃ n, m = .headframe n) ∨ m = .adit ∨ (m = .host 0 ∧ off < 64 * 2 ^ 20)

/-- Registers that keep the written bits of their fields, with those bits (25 Tables 25.1, 25.2; 07 R121; 21 Table 21.11). -/
def plainRegs : List (Nat × BitVec 64) := [
  (0x0010, 0xFFFFFFFFFFFFFFFF#64), (0x0A00, 0x000000FFFFFFF001#64), (0x0A08, 0x000000FFFFF00001#64), (0x0AF0, 0x000000FFFFFFF001#64),
  (0x0B00, 0x000000FFFFFFF000#64), (0x0C48, 0x00FFFFFFFFFFF000#64), (0x0E08, 0xFFFFFFFFFFFFFFFF#64), (0x1_0000, 0xFFFFFFFFFFFFFFC0#64),
  (0x1_0018, 0xFFFFFFFFFFFFFFFF#64), (0x1_0020, 0xFF#64), (0x1_0030, 0x00FFFFF000000000#64), (0x1_0100, 0xBFFFFFFFFFFFFFFF#64),
  (0x2_01F0, 0xBFFFFFFFFFFFFFFF#64), (0x10_0330, 0xFFFFFFFF#64), (0x13_0360, 0xFFFFFFFF#64), (0x10_0100, 0x000000FFFFFFF000#64)]

/-- Registers that no write changes: KVID, BOOTST, PWRNOW, REPST, TSTAT, LGS0. -/
def fixedRegs : List Nat := [0x0000, 0x0E00, 0x0F08, 0x0F18, 0x10_0370, 0x20_0500]

/-- A cohort of a cluster that its Loupe can hold, and its only one of that number. -/
def OnCluster (s : State) (k : Nat) (c : Cohort) : Prop :=
  c ∈ s.cohorts ∧ (∀ d ∈ s.cohorts, d.id = c.id → d = c) ∧ s.clusterOf c = some k ∧ c.status = .resident

/-- A split that differs from another only in whether a halt left it an instruction to issue (21 R291). -/
def SameSplit (x y : Split) : Prop := { y with skids := x.skids } = x

/-- A split whose pause and timeouts run out d cycles later: those of a stop count toward neither (23 R318). -/
def Later (d : Nat) (x y : Split) : Prop :=
  { y with skids := x.skids, pauseEnd := x.pauseEnd, wait := x.wait } = x ∧ y.pauseEnd = (if x.pauseEnd = 0 then 0 else x.pauseEnd + d) ∧
  y.wait = match x.wait with
    | .waitj p t => .waitj p (t + d)
    | .waitc a b (some t) => .waitc a b (some (t + d))
    | w => w

/-- The splits of a group stand in a relation to those of another, one by one. -/
def Splits (R : Split → Split → Prop) (g h : Group) : Prop :=
  h.splits.length = g.splits.length ∧ ∀ (i : Nat) (x : Split), g.splits[i]? = some x → ∃ y, h.splits[i]? = some y ∧ R x y

/-- A split of the cohort runs a handler. -/
def Handles (c : Cohort) : Prop := ∃ g ∈ c.groups, ∃ x ∈ g.splits, x.live = true ∧ x.handler = true

/-- The translations of an agent's access under the root of function f, 0 the PF (25 R338). -/
def fnXlate (s : State) (f va : Nat) (a : Access) : Except Code Nat := s.agentXlate (if f = 0 then .hf else .vd (f - 1)) va a

/-- Bytes written at a key, and nothing else. -/
def Holds (s t : State) (key : Nat) (bs : List (BitVec 8)) : Prop :=
  (∀ j b, bs[j]? = some b → Memory.read t.mem (key + j) = b) ∧
  ∀ a, a < key ∨ key + bs.length ≤ a → Memory.read t.mem a = Memory.read s.mem a

/-- The entries of a migration record at its base (25 Table 25.5). -/
def migBase (s : State) : Nat := bits (s.reg 0x0C48) 12 44 * 4096

/-! ### Links, repair, boot, the Adit port -/

/-- LPORTp. -/
abbrev port (p : Nat) : Nat := 0x0D00 + 8 * p

/-- A link port change event of port p (25 R341). -/
def PortEvent (s t : State) (p : Nat) : Prop := EventIn s t 0 (4 * 2 ^ 64 + (0xF0_0000_0000 + port p) * 2 ^ 96) (otherVec s 0)

/-- Slice spares of a die that are used or about to be (01 R12). -/
def slicesUsed (s : State) (die : Nat) : Nat :=
  (s.spares.filter fun n => n / 512 == die).length + (s.repairs.filter fun r => r.kind == 1 && r.index / 512 == die).length

/-- No repair of a kind is under way for an index. -/
def NoRepair (s : State) (kind n : Nat) : Prop := ∀ r ∈ s.repairs, r.kind = kind → r.index ≠ n

/-- Repairs of a kind under way, of those that a test picks. -/
def pending (s : State) (kind : Nat) (f : Nat → Bool) : Nat := (s.repairs.filter fun r => r.kind == kind && f r.index).length

/-- Spares used or about to be, and spares in all: logical cells beyond the last, slices of a die, channels that the reserved capacity
can take over (a free number, log entry 79), the one spare lane of a port (01 R12, R23; 25 R354). -/
def spares (s : State) (kind n : Nat) : Nat × Nat :=
  match kind with
  | 0 => (pending s 0 fun _ => true, s.lmap.length - 1)
  | 1 => (slicesUsed s (n / 512), 16)
  | 2 => (s.channels.length + pending s 2 fun _ => true, Config.channelSpares)
  | _ => ((if (s.reg (port (n / 16))).getLsbD 1 then 1 else 0) + pending s 4 fun m => m / 16 == n / 16, 1)

/-- A repair that names something it can act on (25 R354); a lift takes no spare. -/
def Names (s : State) (i : Instr) (kind n : Nat) : Prop :=
  n < 4096 ∧ ((i = .cellFence n ∧ kind = 0 ∧ n ∈ s.lmap ∧ NoRepair s 0 n) ∨ (i = .sliceSpare n ∧ kind = 1 ∧ n < 2048) ∨
    (i = .hbmChannelSpare n ∧ kind = 2 ∧ n < 128) ∨ (i = .cellFenceLift n ∧ kind = 3 ∧ n ∈ s.fenced ∧ NoRepair s 3 n) ∨
    (i = .linkLaneRepair n ∧ kind = 4 ∧ n / 16 < 18 ∧ n % 16 < 9))

/-- One for which a spare is left, and one with none. -/
def Repairable (s : State) (i : Instr) (kind n : Nat) : Prop := Names s i kind n ∧ (kind = 3 ∨ (spares s kind n).1 < (spares s kind n).2)
def Spent (s : State) (i : Instr) (kind n : Nat) : Prop := Names s i kind n ∧ kind ≠ 3 ∧ (spares s kind n).2 ≤ (spares s kind n).1

/-- The image of the flash passes the ROM's checks (25 R349). -/
def Boots (s : State) : Prop :=
  Config.imageHeader s.flash = true ∧ shake256 64 (Config.imageKey s.flash) = Config.keyDigest ∧ Config.fusedSvn ≤ Config.imageSvn s.flash ∧
  s.flashPart = false ∧ slhVerify (Config.imageKey s.flash) (Config.imageSigned s.flash) (Config.imageSig s.flash) = true

/-- A module that has been reset, with memory m where the image's body does not load: it runs, with Headframe core 0 at the
image's entry, or is in recovery, with no program (25 R349, R350). -/
def AfterBoot (s t : State) (m : Mem) : Prop :=
  t.power = true ∧ t.flash = s.flash ∧ t.launches = [] ∧ t.cmds = [] ∧ t.chains = [] ∧ t.clusters = [] ∧ (∀ o, o ≠ 0x0E00 → t.reg o = State.reset.reg o) ∧
  t.time = 0 ∧
  (Boots s → bits (t.reg 0x0E00) 0 4 = 2 ∧ (∀ a, (∀ b, (a, b) ∉ Config.imageBody s.flash) → Memory.read t.mem a = Memory.read m a) ∧
    t.cohorts.length = 8 ∧ ∀ (n : Nat) (c : Cohort), t.cohorts[n]? = some c → c.kind = .headframe n ∧ c.root = .hf ∧ c.status = .resident ∧
      ∃ g x, c.groups = [g] ∧ g.s = [] ∧ g.v = [] ∧ g.splits[0]? = some x ∧
        (n = 0 → x.live = true ∧ x.mask = 1 ∧ x.pc = Config.imageEntry s.flash ∧ x.handler = false) ∧ (n ≠ 0 → ∀ y ∈ g.splits, y.live = false)) ∧
  (¬ Boots s → bits (t.reg 0x0E00) 0 4 = 3 ∧ t.mem = m ∧ t.cohorts = [])

/-- Only a message of the Adit port has been added. -/
def Answers (s : State) (i : Instr) (m : AditMsg) : Prop := exec i s = .next { s with adit := s.adit ++ [m] }

/-- A register that answers on auxiliary power: KVID, BOOTST, PWRNOW (25 R348). -/
def onAuxPower (off : Nat) : Bool := off == 0 || off == 0x0E00 || off == 0x0F08

/-- The index that GET_MEASUREMENTS takes, and the value type of its block (25 R352). -/
def measureTypes : List (Nat × Nat) := [(1, 0), (2, 1), (3, 2), (4, 3)]

/-! ### Traps, steps, translation -/

/-- The point at which a split's lanes go on: never inside a chain (05 R64). -/
def resumePc (x : Split) : VAddr := if x.chain = [] then x.pc else x.chainPc

/-- The owner of an entry that the split pushes (11 R150). -/
def pushOwner (c : Ctx) : Option Nat :=
  if 2 ≤ (c.gr.splits.filter fun x => x.live).length ∨ (∃ e ∈ c.gr.stack, e.owner = some c.who.si) then some c.who.si else none

/-- The record of a trap at the word being issued (21 Table 21.9). -/
def Records (c : Ctx) (w : Nat) (tr : Trap) (r : TrapRec) : Prop :=
  r.code = tr.code ∧ r.split = c.who.si ∧ r.lane = tr.lane ∧ r.word = BitVec.ofNat 32 w ∧ r.pc = tr.pc.getD c.sp.pc ∧ r.pos = c.sp.pos ∧
  r.rpc = resumePc c.sp ∧ r.addr = tr.addr ∧ r.detail = tr.detail

/-- The halt that a trap raises reaches every group of the cohort (21 R291, R292). -/
def HaltsAll (c : Ctx) (co' : Cohort) : Prop :=
  ∀ j g, c.co.groups[j]? = some g → ∃ h, co'.groups[j]? = some h ∧ h.halt = true ∧ (j = c.who.gi → h.left = 0) ∧
    (j ≠ c.who.gi → { h with halt := g.halt, left := g.left, skid := g.skid, splits := g.splits } = g ∧ (g.halt = false → h.left ≤ 4) ∧
      (h.splits.map fun x => { x with skids := false }) = g.splits.map fun x => { x with skids := false })

/-- A cohort that escalates is to be saved with STOP 5, with the group's trap and its cause (21 R303). -/
def Escalates (s : State) (c : Ctx) (t : State) (cause : Nat) (met : Option TrapRec) (r : TrapRec) : Prop :=
  { t with cohorts := s.cohorts, free := s.free, stalled := s.stalled, signals := s.signals } = s ∧
  t.signals = s.signals ++ [Signal.escalation c.who.co c.who.gi cause met] ∧
  ∃ co' g', OnlyCohort s t c.who.co co' ∧ co'.status = .saving 5 (some c.who.gi) ∧ HaltsAll c co' ∧ co'.groups[c.who.gi]? = some g' ∧
    g'.trap = some r ∧ r.cause = cause ∧ Regs g' (sameV c) (sameS c) (sameP c) ∧ g'.stack = c.gr.stack

/-- Size and span of a leaf (13 Table 13.5): level, SZ, bytes, entries. -/
def leafSizes : List (Nat × Nat × Nat × Nat) := [
  (2, 0, 2 ^ 30, 1), (1, 0, 2 ^ 22, 2), (1, 1, 2 ^ 24, 8), (1, 2, 2 ^ 26, 32), (1, 3, 2 ^ 28, 128),
  (0, 0, 2 ^ 12, 1), (0, 1, 2 ^ 14, 4), (0, 2, 2 ^ 16, 16), (0, 3, 2 ^ 18, 64), (0, 4, 2 ^ 20, 256)]

/-- Read64 (13 R192). -/
abbrev read64 (s : State) (a : Nat) : Nat := s.homeRead a 8

/-- The walk of 13 R192 over the levels given, from the table at t, as a code or a physical byte: bits V 0, LEAF 1, SZ 2 to 4, W 5, X 6,
HF 8, PFN 12 to 39, MOD 40 to 54. A fetch from the register region is refused (R358). -/
def walkRule (s : State) (va : Nat) (k : Access) (hf : Bool) : List Nat → Nat → Except Code (Nat × Nat)
  | [], _ => .error 3
  | lvl :: rest, t =>
    let i := va / 2 ^ (12 + 9 * lvl) % (if lvl = 4 then 256 else 512)
    let e := read64 s (t + 8 * i)
    let b (n : Nat) : Bool := e / 2 ^ n % 2 == 1
    let sz := e / 2 ^ 2 % 2 ^ 3
    let md := e / 2 ^ 40 % 2 ^ 15
    let pa := e / 2 ^ 12 % 2 ^ 28 * 4096
    let own : Bool := md == bits (s.reg 0x0008) 0 15
    let inRegs : Bool := decide (0xF0_0000_0000 ≤ pa) && decide (pa < 0x100_0000_0000)
    if b 0 = false then .error 3
    else if e / 2 ^ 55 ≠ 0 ∨ e / 2 ^ 9 % 2 ^ 3 ≠ 0 ∨ b 7 = true then .error 3
    else if b 1 = false then
      if lvl = 0 ∨ sz ≠ 0 ∨ md ≠ 0 ∨ b 8 = true ∨ b 5 = true ∨ b 6 = true then .error 3 else walkRule s va k hf rest pa
    else match leafSizes.find? fun p => p.1 == lvl && p.2.1 == sz with
      | none => .error 3
      | some (_, _, size, n) =>
        if 1 < n ∧ read64 s (t + 8 * (i - i % n)) ≠ e then .error 3
        else if pa % size ≠ 0 then .error 3
        else if own = true ∧ inRegs = false ∧ 0x59_682F_0000 < pa + size then .error 3
        else if inRegs = true ∧ (own = false ∨ hf = false) then .error 4
        else if b 8 = true ∧ hf = false then .error 4
        else if k = .write ∧ b 5 = false then .error 4
        else if k = .fetch ∧ (b 6 = false ∨ inRegs = true) then .error 4
        else .ok (md, pa + va % size)

/-- A byte of a module's memory, or of host memory (13 R191, 25 R338), as the model numbers it. -/
def byteAt (s : State) (md pa : Nat) : Nat :=
  if md = bits (s.reg 0x0008) 0 15 then pa
  else if md = 0x7FFF then 2 ^ 60 + ((s.reg 0x0010).toNat + pa) % 2 ^ 64 else (md + 1) * 2 ^ 40 + pa

/-- What an issue or an event comes to: where the time it takes would pass a period that the module keeps, what falls due happens instead
(07 R117; 13 R182). -/
noncomputable def inTime (s : State) : Host.Outcome State Fault Refusal → Host.Outcome State Fault Refusal
  | .next t => match s.overdue t.time with
    | some e => starving s none (exec e s)
    | none => .next t
  | .fault f => .fault f
  | .refused r => .refused r

/-- Registers that read 0 after reset, of those that keep what is written (25 Tables 25.1, 25.2). -/
def zeroAtReset : List Nat := [0x0008, 0x0010, 0x0A00, 0x0A08, 0x0B00, 0x0C18, 0x0C40, 0x0C48, 0x0D00, 0x0E08, 0x0F18, 0x1_0000, 0x1_0010, 0x1_0018, 0x1_0020,
  0x1_0028, 0x1_0100, 0x10_0100, 0x10_0108, 0x10_0200, 0x10_0400, 0x10_0410, 0x10_0420, 0x10_0428, 0x20_0000, 0x20_0010, 0x20_0400, 0x20_0408,
  0x20_0480, 0x20_0488, 0x80_0028]

/-! ### Words that the spec writes out -/

/-- Words and their lines, part 1. -/
noncomputable def sampleWordsa : List (Nat × Instr) := [
  -- fadd.f32 v6 <- v5, v5 when p2; fmul.f32 v9 <- v5, v5 when p1 (06, 05)
  (0x1283050A, .fadd ⟨2, 6, 5, 5⟩), (0x1444850A, .fmul ⟨1, 9, 5, 5⟩), (0x01C18104, .iadd ⟨7, 3, 1, 2⟩),
  -- icmp.s32.lt p1 <- v3, v4; icmp.s32.le.and p0 <- v5, v7; cvt.d8.f32 v2 <- v7; exp2.f32 v9 <- v9 (09)
  (0x21CA0610, .icmpS32 ⟨7, 1, 2, 3, 4, 0⟩), (0x21C30A1D, .icmpS32 ⟨7, 0, 3, 5, 7, 1⟩), (0x31C107B8, .cvt 7 2 7 11 8),
  (0x33C48910, .exp2 ⟨7, 9, 9⟩), (0x33C10120, .rngB32 ⟨7, 2, 1⟩),
  -- iaddi.s32 v1 <- v1, -1; shri.b32 v6 <- v4, 30; imul.lo.s32 v4 <- v2, s4
  (0x29C081FF, .iaddi ⟨7, 1, 1, 0xFF⟩), (0x2BC3045E, .shri ⟨7, 6, 4, 30⟩), (0x35C20211, .imulLoVs ⟨7, 4, 2, 4⟩),
  -- iadd.s32 s4 <- s5, s6; movw.z s1 <- 0x1234; shli.b32 s9 <- s9, 6
  (0x40041460, .sIadd ⟨4, 5, 6⟩), (0x44011234, .movwZ ⟨1, 0x1234⟩), (0x43092406, .sShli ⟨9, 9, 6⟩)]

/-- Words and their lines, part 2. -/
noncomputable def sampleWordsb : List (Nat × Instr) := [
  -- br.any p1, -4; brs.ne s3, -3; brx v6; call s9, s8; waitj p2, 1000; push +5; pop; exit (11)
  (0x504FFFFC, .brAny ⟨1, 0xFFFFC⟩), (0x5243FFFD, .brs 1 3 0xFFFD), (0x54030000, .brx 6), (0x54449000, .call 9 8), (0x565003E8, .waitj 2 1000),
  (0x56800005, .push 5), (0x56C00000, .pop), (0x57400000, .exit),
  -- barp.arrive [s10], s11; lflip.b32 v5, p1 <- v2; lfold.iadd.s32 v4 <- v3; pcount v4, p2 <- p0
  (0x584A2C00, .barpArrive 10 11), (0x39C2822C, .lflip ⟨7, 5, 2, 1, 0⟩), (0x3BC203E0, .lfoldIaddS32 ⟨7, 4, 3, 7⟩), (0x3BC20055, .pcount ⟨7, 4, 0, 2⟩),
  -- movs v1 <- %coord.0; movs %tvec <- s1; rdlane.first.b32 s5 <- v4
  (0x3DC08010, .movsRead 7 1 0 0x10), (0x3FC0C098, .movsWrite 7 1 1 0x98), (0x3FC228A0, .rdlaneFirstB32 7 4 5)]

/-- Words and their lines, part 3. -/
noncomputable def sampleWordsc : List (Nat × Instr) := [
  -- ldg.b32 v5 <- [s2 + v7] ahead 3; stg, sts, pref.clu; atomics, fences, monitors (05, 15)
  (0x61C28713, .ldg ⟨7, 5, 7, 0, 1, 3⟩), (0x63C28710, .stg ⟨7, 5, 7, 0, 1⟩), (0x67C48430, .sts ⟨7, 9, 4, 0, 3⟩), (0x69C007D0, .prefClu 7 7 1),
  (0x6A830202, .atomAddS32 ⟨2, 6, 2, 2⟩), (0x6AC404F0, .scCasB32 ⟨3, 8, 4, 0⟩), (0x6C0302A0, .redFaddF32Scr ⟨6, 2⟩),
  (0x6E810810, .xfence 2 1 2), (0x6E0A3020, .watchB32 0 10 12), (0x6E8D3850, .waitc 2 13 14)]

/-- Words and their lines, part 4. -/
noncomputable def sampleWordsd : List (Nat × Instr) := [
  -- engines and chains (17)
  (0x74000444, .mloop ⟨0, 1, 2, 4⟩), (0x74400865, .mloopSm 2 3 5), (0x76081400, .tidset 8 5), (0x768C2441, .agetM ⟨0, 12, 9, 1⟩),
  (0x700C0000, .copy 12), (0x7A146000, .collAllred 20 24), (0x78946010, .chwait 2 20 24),
  -- spawn s4, v10; launch [v2], s8; xpand.fadd.f32 v6, 2; recurse [s20]; wkids v8 <- v5 (19)
  (0x5A042800, .spawn 4 10), (0x5A022020, .launch 2 8), (0x5C460400, .xpand 1 6 1), (0x5E140000, .recurse 20), (0x5E052010, .wkids 5 8 0),
  -- svc s5 <- s6, 17; escal 0 (21); hint.rep 4, d+1, a+1, b+0; hint.mod la=2; dpair 12:3, 40:0 (05, 06, 09)
  (0x7C051811, .svc 5 6 17), (0x7C400000, .escal 0), (0x7F031100, .hintRep 3 1 1 0), (0x7E400400, .hintMod 0 0 0 0 0 0 2), (0x81838500, .dpair 12 3 40 0)]

/-- Words of 05, 06 Table 6.2, 09, 11, 15, 17, 19, 21 and 23, field by field, and the lines they stand for. -/
noncomputable def sampleWords : List (Nat × Instr) := sampleWordsa ++ sampleWordsb ++ sampleWordsc ++ sampleWordsd

end Sys2Proof.Claims

section
open Sys2Proof Sys2Proof.Machine Sys2Proof.Claims

/-- 09 R132 to R134, Table 9.1: a V3 word writes Op of A, B and Dold in the participating lanes, saturating under SAT where the
table says Wrap; all else is as it was and the split goes on. No word of majors 0x00 to 0x0F is reserved. -/
def Obligations.ThreeOperandVector : Prop :=
  (∀ w, w < 16 * 2 ^ 25 → ∃ e ∈ table91, ∃ x, decode w = .ok (e.1 x)) ∧
  ∀ e ∈ table91, ∀ (s : State) (c : Ctx) (x : V3),
    Ready s c false false true e.2.1.mods [x.d.toNat, x.a.toNat, x.b.toNat] →
    ∃ t, exec (e.1 x) s = .next t ∧ Writes s c t
      (vecTo c x.g.toNat x.d.toNat fun l => e.2.2 c.h.rm c.h.sat (c.gr.getV x.a.toNat l) (c.gr.getV x.b.toNat l) (c.gr.getV x.d.toNat l))
      (sameS c) (sameP c)

/-- 09 R140, Table 9.6, rows 0x00 to 0x0A, 0x30 and 0x31.
09 R142, Table 9.7: a VS word writes Op of v[a], s[K] and v[d] in the participating lanes.
09 R140, R142: the words that write a pair of vector registers. -/
def Obligations.VectorUnaryAndScalar : Prop :=
  ((∀ e ∈ table96, ∀ (s : State) (c : Ctx) (x : V2),
      Ready s c false false true e.2.1.mods [x.d.toNat, x.a.toNat] →
      ∃ t, exec (e.1 x) s = .next t ∧ Writes s c t
        (vecTo c x.g.toNat x.d.toNat fun l => e.2.2 c.h.rm c.h.sat (c.gr.getV x.a.toNat l)) (sameS c) (sameP c)) ∧
    ∀ e ∈ [(Instr.packhBf16x2, BF16), (Instr.packhF16x2, F16)], ∀ (s : State) (c : Ctx) (x : V2),
      x.a.toNat % 2 = 0 → Ready s c false false true accRS.mods [x.d.toNat, x.a.toNat, x.a.toNat + 1] →
      ∃ t, exec (e.1 x) s = .next t ∧ Writes s c t
        (vecTo c x.g.toNat x.d.toNat fun l => packed fun j => e.2.round c.h.rm c.h.sat (f32 (c.gr.getV (x.a.toNat + j) l)))
        (sameS c) (sameP c)) ∧
  (∀ e ∈ table97, ∀ (s : State) (c : Ctx) (x : VS),
      Ready s c false false true e.2.1.mods [x.d.toNat, x.a.toNat] →
      ∃ t, exec (e.1 x) s = .next t ∧ Writes s c t
        (vecTo c x.g.toNat x.d.toNat fun l => e.2.2 c.h.rm c.h.sat (c.gr.getV x.a.toNat l) (c.gr.getS x.s.toNat) (c.gr.getV x.d.toNat l))
        (sameS c) (sameP c)) ∧
  ((∀ e ∈ [(Instr.unpackhBf16x2, BF16), (Instr.unpackhF16x2, F16)], ∀ (s : State) (c : Ctx) (x : V2),
      x.d.toNat % 2 = 0 → Ready s c false false true {} [x.d.toNat, x.d.toNat + 1, x.a.toNat] →
      ∃ t, exec (e.1 x) s = .next t ∧ Writes s c t
        (vecTo2 c x.g.toNat x.d.toNat fun l => r32 0 false (e.2.value (elem (c.gr.getV x.a.toNat l) 1)) ++
          r32 0 false (e.2.value (elem (c.gr.getV x.a.toNat l) 0))) (sameS c) (sameP c)) ∧
    ∀ (s : State) (c : Ctx) (x : VS), x.d.toNat % 2 = 0 → x.a.toNat % 2 = 0 →
      Ready s c false false true accS.mods [x.d.toNat, x.d.toNat + 1, x.a.toNat, x.a.toNat + 1] →
      ∃ t, exec (.iaddwS64 x) s = .next t ∧ Writes s c t
        (vecTo2 c x.g.toNat x.d.toNat fun l =>
          let y := (c.gr.getV (x.a.toNat + 1) l ++ c.gr.getV x.a.toNat l).toInt + (c.gr.getS x.s.toNat).toInt
          BitVec.ofInt 64 (if c.h.sat then clamp 64 y else y)) (sameS c) (sameP c))

/-- 09 R137, Table 9.3: the immediate forms, with I extended by `hint.imm` under 05 R65; a value with payload bits above bit 31
traps at the first hint, a shift with a payload that is not zero at the target.
09 R144, R145: scalar immediates and halfwords. -/
def Obligations.ImmediateForms : Prop :=
  ((∀ e ∈ [(Instr.iaddi, true, accS, fun (sat : Bool) (a : Word) (i : Int) => wrapSat sat (a.toInt + i)),
            (Instr.andi, false, {}, fun _ a i => a &&& BitVec.ofInt 32 i)],
      ∀ (s : State) (c : Ctx) (x : VI), Ready s c true false true (Accepts.mods e.2.2.1) [x.d.toNat, x.a.toNat] →
      (immFits c.h x.imm.toNat 8 → ∃ t, exec (e.1 x) s = .next t ∧ Writes s c t
        (vecTo c x.g.toNat x.d.toNat fun l => e.2.2.2 c.h.sat (c.gr.getV x.a.toNat l) (immVal c.h x.imm.toNat 8 e.2.1)) (sameS c) (sameP c)) ∧
      (¬ immFits c.h x.imm.toNat 8 → exec (e.1 x) s = .next (s.raise c (wordOf (e.1 x)) { code := ILLEGAL, pc := some c.h.immPc }))) ∧
    (∀ (s : State) (c : Ctx) (g : BitVec 3) (d : BitVec 7) (i : BitVec 8), Ready s c true false true {} [d.toNat] →
      (immFits c.h i.toNat 8 → ∃ t, exec (.movi g d i) s = .next t ∧ Writes s c t
        (vecTo c g.toNat d.toNat fun _ => BitVec.ofInt 32 (immVal c.h i.toNat 8 true)) (sameS c) (sameP c)) ∧
      (¬ immFits c.h i.toNat 8 → exec (.movi g d i) s = .next (s.raise c (wordOf (.movi g d i)) { code := ILLEGAL, pc := some c.h.immPc }))) ∧
    ∀ e ∈ [(Instr.shli, opShlOp), (Instr.shri, opShrOp), (Instr.sari, opSarOp), (Instr.roti, opRotOp)],
      ∀ (s : State) (c : Ctx) (x : VN), Ready s c true false true {} [x.d.toNat, x.a.toNat] →
      ((∀ p ∈ c.h.imm, p = 0) → ∃ t, exec (e.1 x) s = .next t ∧ Writes s c t
        (vecTo c x.g.toNat x.d.toNat fun l => e.2 0 false (c.gr.getV x.a.toNat l) (x.n.setWidth 32) 0) (sameS c) (sameP c)) ∧
      ((∃ p ∈ c.h.imm, p ≠ 0) → exec (e.1 x) s = .next (s.raise c (wordOf (e.1 x)) { code := ILLEGAL }))) ∧
  ((∀ e ∈ [(Instr.sIaddi, true, accS, fun (sat : Bool) (a : Word) (i : Int) => wrapSat sat (a.toInt + i)),
            (Instr.sAndi, false, {}, fun _ a i => a &&& BitVec.ofInt 32 i), (Instr.sOri, false, {}, fun _ a i => a ||| BitVec.ofInt 32 i),
            (Instr.sXori, false, {}, fun _ a i => a ^^^ BitVec.ofInt 32 i)],
      ∀ (s : State) (c : Ctx) (x : SI), Ready s c true false true (Accepts.mods e.2.2.1) [] →
      (immFits c.h x.imm.toNat 10 → ∃ t, exec (e.1 x) s = .next t ∧ Writes s c t (sameV c)
        (scaTo c x.d.toNat (e.2.2.2 c.h.sat (c.gr.getS x.a.toNat) (immVal c.h x.imm.toNat 10 e.2.1))) (sameP c)) ∧
      (¬ immFits c.h x.imm.toNat 10 → exec (e.1 x) s = .next (s.raise c (wordOf (e.1 x)) { code := ILLEGAL, pc := some c.h.immPc }))) ∧
    (∀ (s : State) (c : Ctx) (d : BitVec 6) (i : BitVec 10), Ready s c true false true {} [] →
      (immFits c.h i.toNat 10 → ∃ t, exec (.sMovi d i) s = .next t ∧ Writes s c t (sameV c)
        (scaTo c d.toNat (BitVec.ofInt 32 (immVal c.h i.toNat 10 true))) (sameP c)) ∧
      (¬ immFits c.h i.toNat 10 → exec (.sMovi d i) s = .next (s.raise c (wordOf (.sMovi d i)) { code := ILLEGAL, pc := some c.h.immPc }))) ∧
    (∀ e ∈ [(Instr.sShli, opShlOp), (Instr.sShri, opShrOp), (Instr.sSari, opSarOp)],
      ∀ (s : State) (c : Ctx) (x : SN), Ready s c true false true {} [] →
      ((∀ p ∈ c.h.imm, p = 0) → ∃ t, exec (e.1 x) s = .next t ∧ Writes s c t (sameV c)
        (scaTo c x.d.toNat (e.2 0 false (c.gr.getS x.a.toNat) (x.n.setWidth 32) 0)) (sameP c)) ∧
      ((∃ p ∈ c.h.imm, p ≠ 0) → exec (e.1 x) s = .next (s.raise c (wordOf (e.1 x)) { code := ILLEGAL }))) ∧
    (∀ e ∈ [(Instr.movwZ, false), (Instr.movwS, true)], ∀ (s : State) (c : Ctx) (x : SW), Ready s c true false false {} [] →
      (immFits c.h x.imm.toNat 16 → ∃ t, exec (e.1 x) s = .next t ∧ Writes s c t (sameV c)
        (scaTo c x.d.toNat (BitVec.ofInt 32 (immVal c.h x.imm.toNat 16 e.2))) (sameP c)) ∧
      (¬ immFits c.h x.imm.toNat 16 → exec (e.1 x) s = .next (s.raise c (wordOf (e.1 x)) { code := ILLEGAL, pc := some c.h.immPc }))) ∧
    ∀ e ∈ [(Instr.movwHi, fun (i : BitVec 16) (o : Word) => i ++ o.extractLsb' 0 16), (Instr.movwLo, fun i o => o.extractLsb' 16 16 ++ i)],
      ∀ (s : State) (c : Ctx) (x : SW), Ready s c false false false {} [] →
      ∃ t, exec (e.1 x) s = .next t ∧ Writes s c t (sameV c) (scaTo c x.d.toNat (e.2 x.imm (c.gr.getS x.d.toNat))) (sameP c))

/-- 09 R138, R139, Tables 9.4 and 9.5: `cvt`; a reserved type code, an odd register of a 64-bit type and a modifier that the pair of
types does not accept trap ILLEGAL_INSTRUCTION. -/
def Obligations.Conversion : Prop :=
  (∀ (s : State) (c : Ctx) (g : BitVec 3) (d a : BitVec 7) (dt st : BitVec 4),
    Instr.wf (.cvt g d a dt st) = true →
    Ready s c false false true (cvtAccepts dt.toNat st.toNat) (codeRegs dt.toNat d.toNat ++ codeRegs st.toNat a.toNat) →
    ∃ t, exec (.cvt g d a dt st) s = .next t ∧ Writes s c t
      (if codeWidth dt.toNat = 64
       then vecTo2 c g.toNat d.toNat fun l => writeCode dt.toNat (convertTo dt.toNat st.toNat c.h (readCode c st.toNat a.toNat l))
       else vecTo c g.toNat d.toNat fun l => (writeCode dt.toNat (convertTo dt.toNat st.toNat c.h (readCode c st.toNat a.toNat l))).setWidth 32)
      (sameS c) (sameP c)) ∧
  ∀ (s : State) (c : Ctx) (g : BitVec 3) (d a : BitVec 7) (dt st : BitVec 4), s.ctx? = some c → c.sp.windows = [] →
    (dt = 15 ∨ st = 15 ∨ st = 12 ∨ (codeWidth dt.toNat = 64 ∧ d.toNat % 2 = 1) ∨ (codeWidth st.toNat = 64 ∧ a.toNat % 2 = 1) ∨
      ¬ c.h.only false false true (cvtAccepts dt.toNat st.toNat)) →
    exec (.cvt g d a dt st) s = .next (s.raise c (wordOf (.cvt g d a dt st)) { code := ILLEGAL })

/-- 09 R140, 05 R71, R72: a transcendental form writes its function at once when no lookahead is set; else it opens a window
over its destination, which holds the values until it closes, and no register changes.
09 R141: draws from the launch's stream; ILLEGAL without one, STREAM_OVERLAP at the lowest lane whose counter lies
outside it, with no lane written. -/
def Obligations.TranscendentalsAndDraws : Prop :=
  (∀ e ∈ table96t, ∀ (s : State) (c : Ctx) (x : V2), Ready s c false false true { r := true, s := true, l := true } [x.d.toNat, x.a.toNat] →
      (c.h.la = 0 → ∃ t, exec (e.1 x) s = .next t ∧ Writes s c t
        (vecTo c x.g.toNat x.d.toNat fun l => transFn e.2 c.h.rm c.h.sat (c.gr.getV x.a.toNat l)) (sameS c) (sameP c)) ∧
      (c.h.la ≠ 0 → ∃ t co' g' x' w, exec (e.1 x) s = .next t ∧ SameModule s t ∧ OnlyCohort s t c.who.co co' ∧ OnlyGroup c co' g' ∧
        OnlySplit c g' x' ∧ Regs g' (sameV c) (sameS c) (sameP c) ∧ x'.windows = [w] ∧ Moved c.sp { x' with windows := [] } ∧
        w.dst = x.d ∧ w.nreg = 1 ∧ w.left = c.h.la ∧ w.pmask = c.part x.g.toNat ∧
        ∀ l, l < 32 → ((32 * x.d.toNat + l, transFn e.2 c.h.rm c.h.sat (c.gr.getV x.a.toNat l)) ∈ w.vals ↔ (c.part x.g.toNat).getLsbD l = true))) ∧
  (∀ e ∈ [(Instr.rngB32, fun (r : Word) => r), (Instr.rnguF32, fun r => r32 0 false (.fin false (r.toNat / 2 ^ 8) (2 ^ 24)))],
      ∀ (s : State) (c : Ctx) (x : V2), Ready s c false false true {} [x.d.toNat, x.a.toNat] →
      let outside (l : Nat) : Prop := (c.part x.g.toNat).getLsbD l = true ∧ l < 32 ∧
        ((c.gr.getV x.a.toNat l).toNat < hClo c.co.hdr ∨ hChi c.co.hdr < (c.gr.getV x.a.toNat l).toNat)
      (c.co.isHF = false → hStrm c.co.hdr = true → (∀ l, ¬ outside l) → ∃ t, exec (e.1 x) s = .next t ∧ Writes s c t
        (vecTo c x.g.toNat x.d.toNat fun l => e.2 (rng (c.gr.getV x.a.toNat l).toNat (hSeed c.co.hdr))) (sameS c) (sameP c)) ∧
      (c.co.isHF = false → hStrm c.co.hdr = false → exec (e.1 x) s = .next (s.raise c (wordOf (e.1 x)) { code := ILLEGAL })) ∧
      ∀ l, c.co.isHF = false → hStrm c.co.hdr = true → outside l → (∀ k, k < l → ¬ outside k) →
        exec (e.1 x) s = .next (s.raise c (wordOf (e.1 x))
          { code := STREAM_OVERLAP, lane := some l, detail := (c.gr.getV x.a.toNat l).setWidth 48 }))

/-- 09 R135, R136, Table 9.2: compares and `plog` write a predicate under the combine field; pd = 7 and a reserved
condition code trap ILLEGAL_INSTRUCTION; p7 reads as true, and the reserved bits of `plog` are no instruction. -/
def Obligations.ComparesAndLogic : Prop :=
  (∀ e ∈ tableVC, ∀ (s : State) (c : Ctx) (x : VC), Ready s c false false true {} [x.a.toNat, x.b.toNat] →
    (x.pd ≠ 7 ∧ x.cc.toNat ≤ e.2.1 → ∃ t, exec (e.1 x) s = .next t ∧ Writes s c t (sameV c) (sameS c)
      (prdComb c (c.part x.g.toNat) x.pd.toNat x.cm.toNat fun l => e.2.2 x.cc.toNat (c.gr.getV x.a.toNat l) (c.gr.getV x.b.toNat l))) ∧
    (x.pd = 7 ∨ e.2.1 < x.cc.toNat → exec (e.1 x) s = .next (s.raise c (wordOf (e.1 x)) { code := ILLEGAL }))) ∧
  (∀ g : Group, g.getP 7 = BitVec.allOnes 32) ∧
  (∀ w, w < 2 ^ 32 → w / 2 ^ 25 = 0x13 → w / 2 ^ 12 % 16 ≠ 0 ∨ w / 2 ^ 5 % 16 ≠ 0 → ∃ e, decode w = .error e) ∧
  ∀ (s : State) (c : Ctx) (g p f a b : BitVec 3) (m : BitVec 2), Ready s c false false true {} [] →
    (p ≠ 7 → ∃ t, exec (.plog g p f a b m) s = .next t ∧ Writes s c t (sameV c) (sameS c)
      (prdComb c (c.part g.toNat) p.toNat m.toNat fun l => plogTable f.toNat ((c.gr.getP a.toNat).getLsbD l) ((c.gr.getP b.toNat).getLsbD l))) ∧
    (p = 7 → exec (.plog g p f a b m) s = .next (s.raise c (wordOf (.plog g p f a b m)) { code := ILLEGAL }))

/-- 09 R127, R143, Table 9.8: scalar words of three registers run once whatever the active mask.
09 R143, Table 9.8: the unary scalar words.
09 R143, R128: scalar pairs and scalar compares; an odd pair and a condition code that is not listed trap ILLEGAL. -/
def Obligations.ScalarArithmetic : Prop :=
  (∀ e ∈ table98, ∀ (s : State) (c : Ctx) (x : S3), Ready s c false false true e.2.1.mods [] →
      ∃ t, exec (e.1 x) s = .next t ∧ Writes s c t (sameV c)
        (scaTo c x.d.toNat (e.2.2 c.h.rm c.h.sat (c.gr.getS x.a.toNat) (c.gr.getS x.b.toNat) (c.gr.getS x.d.toNat))) (sameP c)) ∧
  (∀ e ∈ table98u, ∀ (s : State) (c : Ctx) (x : S2), Ready s c false false true e.2.1.mods [] →
      ∃ t, exec (e.1 x) s = .next t ∧ Writes s c t (sameV c)
        (scaTo c x.d.toNat (e.2.2 c.h.rm c.h.sat (c.gr.getS x.a.toNat))) (sameP c)) ∧
  ((∀ e ∈ [(Instr.sIaddS64, fun (a b : Int) => a + b), (Instr.sIsubS64, fun a b => a - b)], ∀ (s : State) (c : Ctx) (x : S3),
      Ready s c false false true accS.mods [] →
      ((x.d.toNat % 2 = 0 ∧ x.a.toNat % 2 = 0 ∧ x.b.toNat % 2 = 0) →
        let y := e.2 (c.gr.getS (x.a.toNat + 1) ++ c.gr.getS x.a.toNat).toInt (c.gr.getS (x.b.toNat + 1) ++ c.gr.getS x.b.toNat).toInt
        let z := BitVec.ofInt 64 (if c.h.sat then clamp 64 y else y)
        ∃ t, exec (e.1 x) s = .next t ∧ Writes s c t (sameV c)
          (fun r => if r = x.d.toNat then z.extractLsb' 0 32 else if r = x.d.toNat + 1 then z.extractLsb' 32 32 else c.gr.getS r) (sameP c)) ∧
      (¬ (x.d.toNat % 2 = 0 ∧ x.a.toNat % 2 = 0 ∧ x.b.toNat % 2 = 0) →
        exec (e.1 x) s = .next (s.raise c (wordOf (e.1 x)) { code := ILLEGAL }))) ∧
    ∀ e ∈ tableSC, ∀ (s : State) (c : Ctx) (x : SC), Ready s c false false true {} [] →
      (x.cc.toNat ≤ e.2.1 → ∃ t, exec (e.1 x) s = .next t ∧ Writes s c t (sameV c)
        (scaTo c x.d.toNat (if e.2.2 x.cc.toNat (c.gr.getS x.a.toNat) (c.gr.getS x.b.toNat) then 1 else 0)) (sameP c)) ∧
      (e.2.1 < x.cc.toNat → exec (e.1 x) s = .next (s.raise c (wordOf (e.1 x)) { code := ILLEGAL })))

/-- 11 R170, R171, Table 11.5: lane movement.
11 R172, Table 11.6: folds over the participating lanes, and prefixes.
11 R172, R173: census of a predicate, and grouping by value; a pair form with an odd register traps ILLEGAL. -/
def Obligations.LaneOperations : Prop :=
  (∀ e ∈ [(Instr.lpick, 0), (Instr.lrot, 1), (Instr.lslide, 2), (Instr.lflip, 3), (Instr.lrev, 4)], ∀ (s : State) (c : Ctx) (x : LM),
      Ready s c false false true {} [x.d.toNat, x.a.toNat] →
      let p := c.part x.g.toNat
      let src (l : Nat) : Option Nat := moveSource e.2 x.sub.toNat l (c.gr.getV x.d.toNat l)
      ∃ t, exec (e.1 x) s = .next t ∧ Writes s c t
        (vecTo c x.g.toNat x.d.toNat fun l => match src l with
          | none => 0
          | some k => if has p k then c.gr.getV x.a.toNat k else c.gr.getV x.d.toNat l)
        (sameS c)
        (prdTo c p x.pv.toNat fun l => match src l with
          | none => false
          | some k => has p k)) ∧
  ((∀ e ∈ tableFold, ∀ (s : State) (c : Ctx) (x : LF), Ready s c false false true e.2.1.mods [x.d.toNat, x.a.toNat] →
      let p := c.part x.g.toNat
      ∃ t, exec (e.1 x) s = .next t ∧ Writes s c t
        (vecTo c x.g.toNat x.d.toNat fun _ => e.2.2 c.h.rm c.h.sat ((ones p).map (c.gr.getV x.a.toNat))) (sameS c)
        (prdTo c p x.pv.toNat fun l => (ones p).head? == some l)) ∧
    ∀ e ∈ tablePre, ∀ (s : State) (c : Ctx) (x : LF), Ready s c false false true e.2.1.mods [x.d.toNat, x.a.toNat] →
      let p := c.part x.g.toNat
      ∃ t, exec (e.1 x) s = .next t ∧ Writes s c t
        (vecTo c x.g.toNat x.d.toNat fun l =>
          e.2.2.2 c.h.rm c.h.sat (((ones p).filter fun k => if e.2.2.1 then k ≤ l else k < l).map (c.gr.getV x.a.toNat))) (sameS c)
        (prdTo c p x.pv.toNat fun l => (ones p).getLast? == some l)) ∧
  ((∀ e ∈ tableCensus, ∀ (s : State) (c : Ctx) (x : LC), Ready s c false false true {} [x.d.toNat] →
      let p := c.part x.g.toNat
      let b := p &&& c.gr.getP x.pa.toNat
      ∃ t, exec (e.1 x) s = .next t ∧ Writes s c t (vecTo c x.g.toNat x.d.toNat fun _ => e.2.1 b) (sameS c)
        (prdTo c p x.pv.toNat fun l => e.2.2 b p l)) ∧
    ∀ e ∈ tableGrouping, ∀ (s : State) (c : Ctx) (x : LF),
      Ready s c false false true {} (x.d.toNat :: x.a.toNat :: if e.2.1 then [x.a.toNat + 1] else []) →
      let p := c.part x.g.toNat
      let same (l : Nat) : Word := maskIf p fun k => groupValue c e.2.1 x.a.toNat k == groupValue c e.2.1 x.a.toNat l
      ((e.2.1 = true → x.a.toNat % 2 = 0) → ∃ t, exec (e.1 x) s = .next t ∧ Writes s c t
        (vecTo c x.g.toNat x.d.toNat fun l => e.2.2.1 p (same l) l) (sameS c) (prdTo c p x.pv.toNat fun l => e.2.2.2 p (same l) l)) ∧
      (e.2.1 = true → x.a.toNat % 2 = 1 → exec (e.1 x) s = .next (s.raise c (wordOf (e.1 x)) { code := ILLEGAL })))

/-- 11 R174, R175: `bcast`, `rdlane`, and a special register read into the participating lanes or, a uniform one, into a
scalar register; the time is read as of the issue.
07 Table 7.7, 21 Table 21.2: what the registers of a lane, of a group and of a cohort read as in every lane.
11 R176, 21 R296, R298: a write of `%tvec` stores the value with bits [1:0] clear, from s[d] or from the lowest
participating lane, and none with no lane; a resume register is written in the TRAP entry and the record by a handler split,
and any other split traps PROTECTION. -/
def Obligations.SpecialRegisters : Prop :=
  ((∀ (s : State) (c : Ctx) (g : BitVec 3) (d : BitVec 7) (k : BitVec 6), Ready s c false false false {} [d.toNat] →
      ∃ t, exec (.bcastB32 g d k) s = .next t ∧ Writes s c t (vecTo c g.toNat d.toNat fun _ => c.gr.getS k.toNat) (sameS c) (sameP c)) ∧
    (∀ (s : State) (c : Ctx) (g : BitVec 3) (d : BitVec 7) (k : BitVec 6) (n : BitVec 5), Ready s c false false false {} [d.toNat] →
      ∃ t, exec (.rdlaneB32 g d k n) s = .next t ∧ Writes s c t (sameV c)
        (scaTo c k.toNat (if has (c.part g.toNat) n.toNat then c.gr.getV d.toNat n.toNat else 0)) (sameP c)) ∧
    (∀ (s : State) (c : Ctx) (g : BitVec 3) (d : BitVec 7) (k : BitVec 6), Ready s c false false false {} [d.toNat] →
      ∃ t, exec (.rdlaneFirstB32 g d k) s = .next t ∧ Writes s c t (sameV c)
        (scaTo c k.toNat (match (ones (c.part g.toNat)).head? with | none => 0 | some l => c.gr.getV d.toNat l)) (sameP c)) ∧
    ∀ (s : State) (c : Ctx) (g : BitVec 3) (d : BitVec 7) (k : BitVec 1) (n : BitVec 14), Instr.wf (.movsRead g d k n) = true →
      Ready s c false false false {} (if k = 0 then [d.toNat] else []) →
      ∃ t u, exec (.movsRead g d k n) s = .next t ∧ u.time = t.time ∧ u.cells = s.cells ∧ u.regs = s.regs ∧ u.clusters = s.clusters ∧ u.lmap = s.lmap ∧ u.launches = s.launches ∧
        Writes s c t (if k = 0 then vecTo c g.toNat d.toNat (special c u n.toNat) else sameV c)
          (if k = 0 then sameS c else scaTo c d.toNat (special c u n.toNat ((ones c.gr.valid).headD 0))) (sameP c)) ∧
  ((∀ e ∈ table77, ∀ (s : State) (c : Ctx) (g : BitVec 3) (d : BitVec 7), Ready s c false false false {} [d.toNat] →
      ∃ t, exec (.movsRead g d 0 (BitVec.ofNat 14 e.1)) s = .next t ∧
        Writes s c t (vecTo c g.toNat d.toNat fun l => BitVec.ofNat 32 (e.2 c l)) (sameS c) (sameP c)) ∧
    ∀ (i : Nat) (s : State) (c : Ctx) (g : BitVec 3) (d : BitVec 7), i < 6 → Ready s c false false false {} [d.toNat] →
      ∃ t, exec (.movsRead g d 0 (BitVec.ofNat 14 (0x10 + i))) s = .next t ∧
        Writes s c t (vecTo c g.toNat d.toNat fun l => if hNdim c.co.hdr ≤ i then 0 else BitVec.ofNat 32
          ((Sparse.get 0 c.gr.iids l).toNat / 2 ^ ((List.range i).map fun j => bits c.co.hdr (192 + 7 * j) 7).sum %
            2 ^ bits c.co.hdr (192 + 7 * i) 7)) (sameS c) (sameP c)) ∧
  (∀ (s : State) (c : Ctx) (g : BitVec 3) (d : BitVec 7) (k : BitVec 1) (n : BitVec 12), Instr.wf (.movsWrite g d k n) = true →
      Ready s c false false false {} (if k = 0 then [d.toNat] else []) →
      let src : Option Word := if k = 1 then some (c.gr.getS d.toNat) else (ones (c.part g.toNat)).head?.map (c.gr.getV d.toNat)
      (n = 0x98 → ∃ t co' g' x', exec (.movsWrite g d k n) s = .next t ∧ SameModule s t ∧ OnlyCohort s t c.who.co co' ∧
        { co' with groups := c.co.groups, ctr := c.co.ctr, tvec := c.co.tvec } = c.co ∧
        co'.tvec = (match src with | none => c.co.tvec | some x => x &&& 0xFFFFFFFC#32) ∧
        co'.groups[c.who.gi]? = some g' ∧ OnlySplit c g' x' ∧ Moved c.sp x' ∧ Regs g' (sameV c) (sameS c) (sameP c)) ∧
      (n ≠ 0x98 → c.sp.handler = false → exec (.movsWrite g d k n) s = .next (s.raise c (wordOf (.movsWrite g d k n)) { code := PROTECTION })) ∧
      ∀ x e rest, n ≠ 0x98 → c.sp.handler = true → src = some x → c.gr.stack = e :: rest → e.kind = .trap → e.owner = some c.who.si ∨ e.owner = none →
        (∀ e' ∈ rest, e' ≠ e ∧ e'.owner ≠ some c.who.si) →
        let newPc (p : VAddr) : VAddr :=
          if n = 0x90 then p.extractLsb' 32 24 ++ (x &&& 0xFFFFFFFC#32) else if n = 0x91 then x.setWidth 24 ++ p.extractLsb' 0 32 else p
        let newPos (p : BitVec 6) : BitVec 6 := if n = 0x92 then x.setWidth 6 else p
        ∃ t co' g' x', exec (.movsWrite g d k n) s = .next t ∧ Stands t c.who co' g' x' ∧ Moved c.sp x' ∧
          g'.stack = { e with pc := newPc e.pc, pos := newPos e.pos } :: rest ∧
          g'.trap = c.gr.trap.map fun r => { r with rpc := newPc r.rpc, rpos := newPos r.rpos })

/-- 11 R153: the four branches. Only `br.uni` divides a split. A target outside 56 bits traps PROTECTION (13 R358); that a branch
checks the targets which some lane takes, and no other, is the model's choice (log entry 95).
11 R155 to R157: `brx` goes to the lanes' targets, dividing where they differ; `call` and `ret`; ALIGNMENT for a target
whose bits [1:0] are not zero, at the lowest such lane of `brx`. That a `brx` with no lane goes to the next word is the model's choice
(log entry 18). -/
def Obligations.Branches : Prop :=
  ((∀ e ∈ tableBr, ∀ (s : State) (c : Ctx) (x : BR), Clear s c false false false {} [] →
      let tgt : Int := if e.2 (c.sp.mask &&& c.gr.getP x.p.toNat) c.sp.mask then relTarget c x.o else nextPc c
      (Fits tgt → ∃ t, exec (e.1 x) s = .next t ∧ Goes s c t (BitVec.ofInt 56 tgt)) ∧
      (¬ Fits tgt → exec (e.1 x) s = .next (s.raise c (wordOf (e.1 x)) { code := PROTECTION, addr := BitVec.ofInt 64 tgt }))) ∧
    ∀ (s : State) (c : Ctx) (x : BR), Clear s c false false false {} [] →
      let n := c.sp.mask
      let tk := n &&& c.gr.getP x.p.toNat
      (tk = n → Fits (relTarget c x.o) → ∃ t, exec (.brUni x) s = .next t ∧ Goes s c t (BitVec.ofInt 56 (relTarget c x.o))) ∧
      (tk ≠ n → tk = 0 → Fits (nextPc c) → ∃ t, exec (.brUni x) s = .next t ∧ Goes s c t (BitVec.ofInt 56 (nextPc c))) ∧
      (tk ≠ n → tk ≠ 0 → c.gr.splits.length = 4 → c.gr.stack.length + (2 - splitsNow c 2) ≤ 64 → Fits (relTarget c x.o) → Fits (nextPc c) →
        ∃ t, exec (.brUni x) s = .next t ∧ Divided s c t [(relTarget c x.o, tk), (nextPc c, n &&& ~~~tk)]) ∧
      (tk ≠ n → tk ≠ 0 → 64 < c.gr.stack.length + (2 - splitsNow c 2) → Fits (relTarget c x.o) → Fits (nextPc c) →
        exec (.brUni x) s = .next (s.raise c (wordOf (.brUni x)) { code := STACK_SPILL_FAULT, detail := 64 }))) ∧
  ((∀ (s : State) (c : Ctx) (a : BitVec 7), Clear s c false false false {} [a.toNat] → c.sp.mask ≠ 0 →
      (∀ l, has c.sp.mask l = true → (c.gr.getV a.toNat l).toNat % 4 = 0 ∧ Fits (c.co.kb + (c.gr.getV a.toNat l).toNat : Nat)) →
      (∀ o, (∀ l, has c.sp.mask l = true → (c.gr.getV a.toNat l).toNat = o) →
        ∃ t, exec (.brx a) s = .next t ∧ Goes s c t (BitVec.ofNat 56 (c.co.kb + o))) ∧
      (2 ≤ (brxPairs c a.toNat).length → c.gr.splits.length = 4 →
        c.gr.stack.length + ((brxPairs c a.toNat).length - splitsNow c (brxPairs c a.toNat).length) ≤ 64 →
        ∃ t, exec (.brx a) s = .next t ∧ Divided s c t (brxPairs c a.toNat))) ∧
    (∀ (s : State) (c : Ctx) (a : BitVec 7) (l : Nat), Clear s c false false false {} [a.toNat] → l < 32 → has c.sp.mask l = true →
      (c.gr.getV a.toNat l).toNat % 4 ≠ 0 → (∀ k, k < l → has c.sp.mask k = true → (c.gr.getV a.toNat k).toNat % 4 = 0) →
      exec (.brx a) s = .next (s.raise c (wordOf (.brx a)) { code := ALIGNMENT, lane := some l })) ∧
    (∀ (s : State) (c : Ctx) (a : BitVec 7), Clear s c false false false {} [a.toNat] → c.sp.mask = 0 → Fits (nextPc c) →
      ∃ t, exec (.brx a) s = .next t ∧ Goes s c t (BitVec.ofInt 56 (nextPc c))) ∧
    (∀ (s : State) (c : Ctx) (a l : BitVec 6), Clear s c false false false {} [] →
      ((c.gr.getS a.toNat).toNat % 4 = 0 → c.co.kb + (c.gr.getS a.toNat).toNat < 2 ^ 56 →
        ∃ t, exec (.call a l) s = .next t ∧ GoesWith s c t (BitVec.ofNat 56 (c.co.kb + (c.gr.getS a.toNat).toNat))
          (scaTo c l.toNat (BitVec.ofInt 32 (nextPc c - c.co.kb)))) ∧
      ((c.gr.getS a.toNat).toNat % 4 ≠ 0 → exec (.call a l) s = .next (s.raise c (wordOf (.call a l)) { code := ALIGNMENT }))) ∧
    ∀ (s : State) (c : Ctx) (l : BitVec 6), Clear s c false false false {} [] →
      ((c.gr.getS l.toNat).toNat % 4 = 0 → c.co.kb + (c.gr.getS l.toNat).toNat < 2 ^ 56 →
        ∃ t, exec (.ret l) s = .next t ∧ Goes s c t (BitVec.ofNat 56 (c.co.kb + (c.gr.getS l.toNat).toNat))) ∧
      ((c.gr.getS l.toNat).toNat % 4 ≠ 0 → exec (.ret l) s = .next (s.raise c (wordOf (.ret l)) { code := ALIGNMENT })))

/-- 11 R154: `brs` moves the whole split on a test of a scalar register against 0; code 7 is `jmp`, whose s field is 0; code 6
is reserved. A target outside 56 bits traps PROTECTION (13 R358); that the target of a branch which is not taken goes unchecked is the
model's choice (log entry 95). -/
def Obligations.ScalarBranch : Prop :=
  (∀ (s : State) (c : Ctx) (cc : BitVec 3) (k : BitVec 6) (o : BitVec 16), cc.toNat ≤ 5 → Clear s c false false false {} [] →
    let tgt : Int := if condInt cc.toNat (c.gr.getS k.toNat).toInt 0 then relTarget c o else nextPc c
    (Fits tgt → ∃ t, exec (.brs cc k o) s = .next t ∧ Goes s c t (BitVec.ofInt 56 tgt)) ∧
    (¬ Fits tgt → exec (.brs cc k o) s = .next (s.raise c (wordOf (.brs cc k o)) { code := PROTECTION, addr := BitVec.ofInt 64 tgt }))) ∧
  (∀ (s : State) (c : Ctx) (o : BitVec 16), Clear s c false false false {} [] →
    (Fits (relTarget c o) → ∃ t, exec (.jmp o) s = .next t ∧ Goes s c t (BitVec.ofInt 56 (relTarget c o))) ∧
    (¬ Fits (relTarget c o) → exec (.jmp o) s = .next (s.raise c (wordOf (.jmp o)) { code := PROTECTION, addr := BitVec.ofInt 64 (relTarget c o) }))) ∧
  (∀ (k : BitVec 6) (o : BitVec 16), ∃ e, decode (0x29 * 2 ^ 25 + 6 * 2 ^ 22 + k.toNat * 2 ^ 16 + o.toNat) = .error e) ∧
  (∀ (k : BitVec 6) (o : BitVec 16), k ≠ 0 → ∃ e, decode (0x29 * 2 ^ 25 + 7 * 2 ^ 22 + k.toNat * 2 ^ 16 + o.toNat) = .error e) ∧
  (∀ o : BitVec 16, decode (0x29 * 2 ^ 25 + 7 * 2 ^ 22 + o.toNat) = .ok (.jmp o)) ∧
  ∀ (cc : BitVec 3) (k : BitVec 6) (o : BitVec 16), cc.toNat ≤ 5 →
    decode (0x29 * 2 ^ 25 + cc.toNat * 2 ^ 22 + k.toNat * 2 ^ 16 + o.toNat) = .ok (.brs cc k o)

/-- 11 R149, R150, R159: `push` puts a JOIN entry on top, owned by the split when others live or it owns an entry; it traps
STACK_SPILL_FAULT where it would make a 65th entry.
11 R162, 21 R298: `pop` removes T(split). A TRAP entry ends the trap, and the groups of the cohort issue again; a JOIN
entry releases its waiting splits unmerged; a DEFER entry or none traps ILLEGAL. That the predicate of a released `waitj` stays as it was
is the model's choice (log entry 53). -/
def Obligations.PushAndPop : Prop :=
  (∀ (s : State) (c : Ctx) (o : BitVec 20), Ready s c false false false {} [] → Fits (relTarget c o) →
      (c.gr.stack.length < 64 → ∃ t co' g' x' e, exec (.push o) s = .next t ∧ SameModule s t ∧ OnlyCohort s t c.who.co co' ∧
        OnlyGroup c co' g' ∧ OnlyFlow c g' ∧ g'.splits[c.who.si]? = some x' ∧ (∀ j, j ≠ c.who.si → g'.splits[j]? = c.gr.splits[j]?) ∧
        SameLanes c.sp x' ∧ At x' (c.sp.pc + 4) ∧ Regs g' (sameV c) (sameS c) (sameP c) ∧ g'.stack = e :: c.gr.stack ∧
        e.kind = .join ∧ e.pc = BitVec.ofInt 56 (relTarget c o) ∧ e.pos = 0 ∧ e.mask = c.sp.mask ∧ e.arr = 0 ∧
        e.owner = if 2 ≤ (c.gr.splits.filter fun x => x.live).length ∨ ∃ e ∈ c.gr.stack, e.owner = some c.who.si then some c.who.si else none) ∧
      (64 ≤ c.gr.stack.length → exec (.push o) s = .next (s.raise c (wordOf (.push o)) { code := STACK_SPILL_FAULT, detail := 64 }))) ∧
  ((∀ (s : State) (c : Ctx) (e : StackEntry), Clear s c false false false {} [] → c.gr.top? c.who.si = some e → e.kind = .trap →
      c.co.status = .resident → s.stopped c.co = false → (∀ g ∈ c.co.groups, g.pend = none ∧ g.queued = []) →
      (∀ k h j x, c.co.groups[k]? = some h → h.splits[j]? = some x → x.live = true → x.handler = true → k = c.who.gi ∧ j = c.who.si) →
      ∃ t co' g' x', exec .pop s = .next t ∧ SameModule s t ∧ OnlyCohort s t c.who.co co' ∧ co'.groups[c.who.gi]? = some g' ∧
        g'.splits[c.who.si]? = some x' ∧ g'.stack = c.gr.stack.erase e ∧ x'.mask = e.mask ∧ x'.pc = e.pc ∧ x'.pos = e.pos ∧
        x'.handler = false ∧ x'.live = true ∧ g'.trap = none ∧ (∀ h ∈ co'.groups, h.halt = false) ∧
        Regs g' (sameV c) (sameS c) (sameP c) ∧
        ∀ j x, j ≠ c.who.si → c.gr.splits[j]? = some x → ∃ y, g'.splits[j]? = some y ∧ { y with skids := x.skids } = x) ∧
    (∀ (s : State) (c : Ctx) (e : StackEntry), Ready s c false false false {} [] → c.gr.top? c.who.si = some e → e.kind = .join →
      c.sp.wait = .none → OnTime s c →
      ∃ t co' g' x', exec .pop s = .next t ∧ SameModule s t ∧ OnlyCohort s t c.who.co co' ∧ OnlyGroup c co' g' ∧ OnlyFlow c g' ∧
        g'.splits[c.who.si]? = some x' ∧ SameLanes c.sp x' ∧ At x' (c.sp.pc + 4) ∧ Regs g' (sameV c) (sameS c) (sameP c) ∧
        g'.stack = c.gr.stack.erase e ∧ ∀ j x, j ≠ c.who.si → c.gr.splits[j]? = some x → WaitsAt c.gr e j →
          ∃ y, g'.splits[j]? = some y ∧ y.pc = x.pc + 4 ∧ y.wait = .none ∧ y.mask = x.mask) ∧
    (∀ (s : State) (c : Ctx), Clear s c false false false {} [] →
      (c.gr.top? c.who.si = none ∨ ∃ e, c.gr.top? c.who.si = some e ∧ e.kind = .defer) →
      exec .pop s = .next (s.raise c (wordOf .pop) { code := ILLEGAL })))

/-- 11 R160, R161: `join` and `waitj` at the split's JOIN entry. The last arrival merges the waiting splits into the lowest of
them, with the entry's mask, at the next word, and writes true for `waitj`; before it the lanes arrive and the split waits; a
DEFER entry on top is taken instead; without a JOIN entry they trap ILLEGAL. -/
def Obligations.Joins : Prop :=
  ∀ i w, (i = Instr.join ∧ w = none) ∨ (∃ p n, i = .waitj p n ∧ w = some (p, n)) → ∀ (s : State) (c : Ctx),
    Ready s c false false false {} [] → c.sp.handler = false → DisjointMasks c → OnTime s c →
    (c.gr.join? c.who.si = none → exec i s = .next (s.raise c (wordOf i) { code := ILLEGAL })) ∧
    (∀ e k, c.gr.join? c.who.si = some e → c.gr.top? c.who.si = some e → e.pc = c.sp.pc → e.arr ||| c.sp.mask = e.mask →
      (k = c.who.si ∨ WaitsAt c.gr e k) → (∀ j, j = c.who.si ∨ WaitsAt c.gr e j → k ≤ j) →
      ∃ t co' g' y, exec i s = .next t ∧ SameModule s t ∧ OnlyCohort s t c.who.co co' ∧ OnlyGroup c co' g' ∧ OnlyFlow c g' ∧
        g'.splits[k]? = some y ∧ y.live = true ∧ y.mask = e.mask ∧ y.pc = c.sp.pc + 4 ∧ y.pos = 0 ∧ y.wait = .none ∧ y.nfirst = false ∧
        (∀ j, j ≠ k → j = c.who.si ∨ WaitsAt c.gr e j → ∃ z, g'.splits[j]? = some z ∧ z.live = false) ∧
        g'.stack.length + 1 = c.gr.stack.length ∧
        (∀ r, g'.getS r = c.gr.getS r) ∧ (∀ p n l, w = some (p, n) → p ≠ 7 → has c.sp.mask l = true → has (g'.getP p.toNat) l = true)) ∧
    (∀ e, c.gr.join? c.who.si = some e → c.gr.top? c.who.si = some e → e.pc = c.sp.pc → e.arr ||| c.sp.mask ≠ e.mask →
      (w = none → ∃ j x, j ≠ c.who.si ∧ c.gr.splits[j]? = some x ∧ x.live = true ∧ x.wait ≠ .join) → (∀ p n, w = some (p, n) → n ≠ 0) →
      ∃ t co' g' x', exec i s = .next t ∧ SameModule s t ∧ OnlyCohort s t c.who.co co' ∧ OnlyGroup c co' g' ∧ OnlyFlow c g' ∧
        g'.splits[c.who.si]? = some x' ∧ SameLanes c.sp x' ∧ x'.pc = c.sp.pc ∧
        x'.wait = (match w with | none => .join | some (p, n) => .waitj p (t.nowOf c.who.co + n.toNat)) ∧
        (∀ j, j ≠ c.who.si → g'.splits[j]? = c.gr.splits[j]?) ∧ Regs g' (sameV c) (sameS c) (sameP c) ∧
        g'.stack = c.gr.stack.replace e { e with arr := e.arr ||| c.sp.mask }) ∧
    (∀ e d, c.gr.join? c.who.si = some e → c.gr.top? c.who.si = some d → d.kind = .defer → e.pc = c.sp.pc →
      ∃ t co' g' x', exec i s = .next t ∧ SameModule s t ∧ OnlyCohort s t c.who.co co' ∧ OnlyGroup c co' g' ∧ OnlyFlow c g' ∧
        g'.splits[c.who.si]? = some x' ∧ x'.live = true ∧ x'.pc = d.pc ∧ x'.mask = d.mask ∧ x'.nfirst = true ∧ x'.wait = .none ∧
        Regs g' (sameV c) (sameS c) (sameP c) ∧ g'.stack = (c.gr.stack.replace e { e with arr := e.arr ||| c.sp.mask }).erase d) ∧
    (∀ e p, w = some (p, 0) → c.gr.join? c.who.si = some e → c.gr.top? c.who.si = some e → e.pc = c.sp.pc → e.arr ||| c.sp.mask ≠ e.mask →
      e.arr &&& c.sp.mask = 0 →
      ∃ t co' g' x', exec i s = .next t ∧ SameModule s t ∧ OnlyCohort s t c.who.co co' ∧ OnlyGroup c co' g' ∧
        g'.splits[c.who.si]? = some x' ∧ SameLanes c.sp x' ∧ At x' (c.sp.pc + 4) ∧ x'.wait = .none ∧
        Regs g' (sameV c) (sameS c) (prdTo c c.sp.mask p.toNat fun _ => false))

/-- 11 R164: `yield n` pauses the split, which stands at the next word, for 16 × (n + 1) cycles. 11 R165: `exit` of a split whose
group has another live split that waits for nothing, with no stack, and no work item, digest or expansion of its lanes, ends the split
and nothing else; the exit of a group's last split ends the group, and changes nothing else of the other groups but the splits that it
lets through the cohort barrier. -/
def Obligations.YieldAndExit : Prop :=
  (∀ (s : State) (c : Ctx) (n : BitVec 10), Ready s c false false false {} [] →
    ∃ t co' g' x', exec (.yield n) s = .next t ∧ SameModule s t ∧ OnlyCohort s t c.who.co co' ∧ OnlyGroup c co' g' ∧ OnlySplit c g' x' ∧
      SameLanes c.sp x' ∧ At x' (c.sp.pc + 4) ∧ x'.pauseEnd = max c.sp.pauseEnd (t.nowOf c.who.co + 16 * (n.toNat + 1)) ∧ Regs g' (sameV c) (sameS c) (sameP c)) ∧
  (∀ (s : State) (c : Ctx), Clear s c false false false {} [] → c.sp.handler = false → c.gr.stack = [] → c.gr.dg = [] → c.gr.dgIter = [] →
    c.gr.wz = [] → c.gr.items = [] → c.co.sets = [] → c.co.run = none →
    DisjointMasks c → OnTime s c → c.gr.fin = false → c.gr.queued = [] → c.who.gi < c.co.ngroups →
    (∀ j x, j ≠ c.who.si → c.gr.splits[j]? = some x → x.live = true → x.wait = .none →
      ∃ t co' g' y, exec .exit s = .next t ∧ SameModule s t ∧ OnlyCohort s t c.who.co co' ∧ OnlyGroup c co' g' ∧ OnlyFlow c g' ∧
        Regs g' (sameV c) (sameS c) (sameP c) ∧ g'.splits[c.who.si]? = some y ∧ y.live = false ∧ g'.stack = [] ∧
        ∀ k, k ≠ c.who.si → g'.splits[k]? = c.gr.splits[k]?) ∧
    ((∀ j x, j ≠ c.who.si → c.gr.splits[j]? = some x → x.live = false) → (∃ h ∈ c.co.groups, h.index ≠ c.gr.index ∧ h.fin = false) →
      ∃ t co' g' y, exec .exit s = .next t ∧ SameModule s t ∧ OnlyCohort s t c.who.co co' ∧ Stands t c.who co' g' y ∧ y.live = false ∧
        g'.fin = true ∧ Regs g' (sameV c) (sameS c) (sameP c) ∧ { co' with groups := c.co.groups, ctr := c.co.ctr } = c.co ∧
        ∀ k h, k ≠ c.who.gi → c.co.groups[k]? = some h → ∃ h', co'.groups[k]? = some h' ∧ { h' with splits := h.splits } = h))

/-- 11 R167: `barc`. The split waits while a group has not arrived; the last arrival lets every waiting split of the cohort go
on at its next word.
11 R168, R169, Table 11.4: an arrival of `barp.arrive` or `barp.sync` updates the barrier word and no other byte of the
window; `arrive` goes on, `sync` waits for the phase ends it awaits less those it makes; `wait` makes no arrival and waits for
one end when its parity is the open one. A trapping arrival leaves the word unchanged. 21 R295: a barrier word in error traps
ECC_UNCORRECTED (sectors of 32 bytes are the model's, log entry 59). -/
def Obligations.Barriers : Prop :=
  (∀ (s : State) (c : Ctx), Ready s c false false false {} [] → c.sp.handler = false → c.co.groups.length = c.co.ngroups → c.gr.fin = false →
      let arrived : Prop := (∀ j x, j ≠ c.who.si → c.gr.splits[j]? = some x → x.live = true → x.wait = .barc) ∧
        ∀ k h, k ≠ c.who.gi → c.co.groups[k]? = some h → h.fin = true ∨
          ((∃ x ∈ h.splits, x.live = true) ∧ ∀ x ∈ h.splits, x.live = true → x.wait = .barc)
      (¬ arrived → ∃ t co' g' x', exec .barc s = .next t ∧ SameModule s t ∧ OnlyCohort s t c.who.co co' ∧ OnlyGroup c co' g' ∧
        OnlySplit c g' x' ∧ SameLanes c.sp x' ∧ x'.pc = c.sp.pc ∧ x'.wait = .barc ∧ Regs g' (sameV c) (sameS c) (sameP c)) ∧
      (arrived → ∃ t co', exec .barc s = .next t ∧ SameModule s t ∧ OnlyCohort s t c.who.co co' ∧
        (∃ g' x', co'.groups[c.who.gi]? = some g' ∧ g'.splits[c.who.si]? = some x' ∧ SameLanes c.sp x' ∧ At x' (c.sp.pc + 4) ∧
          x'.wait = .none ∧ Regs g' (sameV c) (sameS c) (sameP c)) ∧
        ∀ k h j x, c.co.groups[k]? = some h → h.splits[j]? = some x → x.live = true → x.wait = .barc → k ≠ c.who.gi ∨ j ≠ c.who.si →
          ∃ h' x', co'.groups[k]? = some h' ∧ h'.splits[j]? = some x' ∧ x'.wait = .none ∧ x'.pc = x.pc + 4 ∧ x'.mask = x.mask)) ∧
  (∀ (s : State) (c : Ctx) (a q : BitVec 6), Ready s c false false false {} [] → c.sp.handler = false → Unwatched s c.co → c.sp.wait = .none →
      Sparse.rises 0 c.co.scratch = true →
      let off := (c.gr.getS a.toNat).toNat
      let w := barWord c.co off
      let qb := (c.gr.getS q.toNat).toNat % 2
      (∀ i ∈ [Instr.barpArrive a q, .barpSync a q, .barpWait a q],
        (off % 4 ≠ 0 → exec i s = .next (s.raise c (wordOf i) { code := ALIGNMENT, addr := BitVec.ofNat 64 off })) ∧
        (off % 4 = 0 → c.co.z < off + 4 → exec i s = .next (s.raise c (wordOf i) { code := SCRATCH_BOUNDS, addr := BitVec.ofNat 64 off }))) ∧
      (off % 4 = 0 → off + 4 ≤ c.co.z → (∃ b ∈ c.co.badScr, off < 32 * b + 32 ∧ 32 * b < off + 4) →
        ∀ i ∈ [Instr.barpArrive a q, .barpSync a q, .barpWait a q],
          exec i s = .next (s.raise c (wordOf i) { code := ECC_UNCORRECTED, addr := BitVec.ofNat 64 off })) ∧
      (off % 4 = 0 → off + 4 ≤ c.co.z → c.co.badScr = [] → c.co.cmdWords.contains off = false →
        (arriveSpec w qb = none → ∀ i ∈ [Instr.barpArrive a q, .barpSync a q],
          exec i s = .next (s.raise c (wordOf i) { code := BARRIER_OVERRUN, detail := w.setWidth 48 })) ∧
        (∀ r, arriveSpec w qb = some r → ∀ i, i = Instr.barpArrive a q ∨ i = .barpSync a q →
          ∃ t co' g' x', exec i s = .next t ∧ SameModule s t ∧ OnlyCohort s t c.who.co co' ∧ co'.groups[c.who.gi]? = some g' ∧
            g'.splits[c.who.si]? = some x' ∧ SameLanes c.sp x' ∧ Regs g' (sameV c) (sameS c) (sameP c) ∧
            (let w' := barWord co' off
             w'.toNat / 2 ^ 31 = r.2.2.1 ∧ w'.toNat / 2 ^ 20 % 2 ^ 10 = w.toNat / 2 ^ 20 % 2 ^ 10 ∧ w'.toNat % 2 ^ 10 = r.2.2.2 0 ∧
             w'.toNat / 2 ^ 10 % 2 ^ 10 = r.2.2.2 1) ∧
            (∀ b, b < off ∨ off + 4 ≤ b → Sparse.get 0 co'.scratch b = Sparse.get 0 c.co.scratch b) ∧
            (i = .barpArrive a q ∨ r.1 ≤ r.2.1 → At x' (c.sp.pc + 4) ∧ x'.wait = .none) ∧
            (i = .barpSync a q → r.2.1 < r.1 → x'.pc = c.sp.pc ∧ x'.wait = .barp off (r.1 - r.2.1))) ∧
        ∃ t co' g' x', exec (.barpWait a q) s = .next t ∧ SameModule s t ∧ OnlyCohort s t c.who.co co' ∧ OnlyGroup c co' g' ∧
          OnlySplit c g' x' ∧ SameLanes c.sp x' ∧ Regs g' (sameV c) (sameS c) (sameP c) ∧
          (qb ≠ w.toNat / 2 ^ 31 → At x' (c.sp.pc + 4) ∧ x'.wait = .none) ∧
          (qb = w.toNat / 2 ^ 31 → x'.pc = c.sp.pc ∧ x'.wait = .barp off 1)))

/-- 15 R215, R218, R219, 05 R72: `ldg` brings the bytes that each lane reads, as its cluster sees them (13 R204), into its
registers. Where the cluster holds translations and sectors, nothing else changes.
13 R179, 15 R221: `ldc` reads at ARGS plus the offset; outside 64 KiB it traps PROTECTION at that address.
15 R222: a prefetch that passes its checks completes and changes no register; `pref.home` changes nothing but the counters. -/
def Obligations.GlobalAndConstantLoads : Prop :=
  (∀ (s : State) (c : Ctx) (x : ML) (key : Nat → Nat), x.d.toNat % sizeRegs x.sz.toNat = 0 →
      Ready s c true false true { b8 := x.sz.toNat == 0, cp := true } (x.o.toNat :: dataRegs x.sz.toNat x.d.toNat) → Calm s c → Unwatched s c.co → dispFits c →
      let m := c.part x.g.toNat
      let w := sizeBytes x.sz.toNat c.h.b8
      let ea := gAddr c x.bp.toNat x.o.toNat
      Reach s c m .read w ea key →
      let val (i l : Nat) : Word := dataWord (fun j => s.laneByte (s.clusterOf c.co) (key l + j)) w i
      ∃ t co' g' x', exec (.ldg x) s = .next t ∧ Stands t c.who co' g' x' ∧ Returned c g' x' x.l.toNat x.d.toNat (sizeRegs x.sz.toNat) m val ∧
        (Warm s c m ea key → SamePath s t ∧ OnlyCohort s t c.who.co co' ∧ OnlyGroup c co' g' ∧ OnlySplit c g' x')) ∧
  (∀ (s : State) (c : Ctx) (g : BitVec 3) (d o : BitVec 7) (z : BitVec 2) (l : BitVec 4) (key : Nat → Nat), z ≠ 3 → d.toNat % sizeRegs z.toNat = 0 →
      Ready s c true false true { cp := true } (o.toNat :: dataRegs z.toNat d.toNat) → Calm s c → Unwatched s c.co → dispFits c →
      let m := c.part g.toNat
      let w := sizeBytes z.toNat false
      let ea (l : Nat) : Nat := (bits c.co.hdr 832 56 + cOff c o.toNat l).toNat
      ((∀ l, has m l = true → 0 ≤ cOff c o.toNat l ∧ cOff c o.toNat l + w ≤ 65536) → Reach s c m .read w ea key →
        ∃ t co' g' x', exec (.ldc g d o z l) s = .next t ∧ Stands t c.who co' g' x' ∧
          Returned c g' x' l.toNat d.toNat (sizeRegs z.toNat) m (fun i l => dataWord (fun j => s.laneByte (s.clusterOf c.co) (key l + j)) w i) ∧
          (Warm s c m ea key → SamePath s t ∧ OnlyCohort s t c.who.co co' ∧ OnlyGroup c co' g' ∧ OnlySplit c g' x')) ∧
      ∀ n, (ones m).head? = some n → cOff c o.toNat n < 0 ∨ 65536 < cOff c o.toNat n + w →
        exec (.ldc g d o z l) s = .next (s.raise c (wordOf (.ldc g d o z l))
          { code := PROTECTION, lane := some n, addr := BitVec.ofInt 64 (bits c.co.hdr 832 56 + cOff c o.toNat n) })) ∧
  (∀ (s : State) (c : Ctx) (g : BitVec 3) (o : BitVec 7) (b : BitVec 2),
      Ready s c true false true { cp := true } [o.toNat] → Calm s c → dispFits c → s.canonical = true →
      (∃ t co' g' x', exec (.prefHome g o b) s = .next t ∧ SamePath s t ∧ OnlyCohort s t c.who.co co' ∧ OnlyGroup c co' g' ∧ OnlySplit c g' x' ∧
        Passed c g' x') ∧
      ∃ t co' g' x', exec (.prefClu g o b) s = .next t ∧ Stands t c.who co' g' x' ∧ Passed c g' x' ∧
        (c.co.isHF = true → SamePath s t ∧ OnlyCohort s t c.who.co co' ∧ OnlyGroup c co' g' ∧ OnlySplit c g' x'))

/-- 15 R215, R218, R219: `lds` and `sts` on the cohort's scratch, in ascending lane order. -/
def Obligations.ScratchLoadStore : Prop :=
  (∀ (s : State) (c : Ctx) (x : ML), s.canonical = true → x.d.toNat % sizeRegs x.sz.toNat = 0 →
    Ready s c true false true { b8 := x.sz.toNat == 0, cp := true } (x.o.toNat :: dataRegs x.sz.toNat x.d.toNat) → Calm s c → Unwatched s c.co → dispFits c →
    let m := c.part x.g.toNat
    let w := sizeBytes x.sz.toNat c.h.b8
    let off (l : Nat) : Int := sAddr c x.bp.toNat x.o.toNat l
    (∀ l, has m l = true → 0 ≤ off l ∧ off l + w ≤ c.co.z ∧ off l % w = 0) →
    ∃ t co' g' x', exec (.lds x) s = .next t ∧ SamePath s t ∧ OnlyCohort s t c.who.co co' ∧ OnlyGroup c co' g' ∧ OnlySplit c g' x' ∧
      Returned c g' x' x.l.toNat x.d.toNat (sizeRegs x.sz.toNat) m fun i l => dataWord (fun j => Sparse.get 0 c.co.scratch ((off l).toNat + j)) w i) ∧
  ∀ (s : State) (c : Ctx) (x : MS), s.canonical = true → Sparse.rises 0 c.co.scratch = true → x.d.toNat % sizeRegs x.sz.toNat = 0 →
    Ready s c true false true { b8 := x.sz.toNat == 0, cp := true } (x.o.toNat :: dataRegs x.sz.toNat x.d.toNat) → Calm s c → Unwatched s c.co → dispFits c →
    let m := c.part x.g.toNat
    let w := sizeBytes x.sz.toNat c.h.b8
    let off (l : Nat) : Int := sAddr c x.bp.toNat x.o.toNat l
    (∀ l, has m l = true → 0 ≤ off l ∧ off l + w ≤ c.co.z ∧ off l % w = 0) →
    ∃ t co' g' x', exec (.sts x) s = .next t ∧ SamePath s t ∧ OnlyCohort s t c.who.co co' ∧ OnlyGroup c { co' with scratch := c.co.scratch } g' ∧
      OnlySplit c g' x' ∧ Passed c g' x' ∧
      ∀ b, Sparse.get 0 co'.scratch b = match lastOver m w (fun l => (off l).toNat) b with
        | none => Sparse.get 0 c.co.scratch b
        | some l => dataByte c x.d.toNat l (b - (off l).toNat)

/-- 15 R215, R219: `stg` stores each lane's bytes in ascending lane order: into the cluster's line, where its home memory does
not change, or, from a Headframe core, at home. No register changes. -/
def Obligations.GlobalStore : Prop :=
  ∀ (s : State) (c : Ctx) (x : MS) (key : Nat → Nat), x.d.toNat % sizeRegs x.sz.toNat = 0 →
    Ready s c true false true { b8 := x.sz.toNat == 0, cp := true } (x.o.toNat :: dataRegs x.sz.toNat x.d.toNat) → Calm s c → Unwatched s c.co → dispFits c →
    let m := c.part x.g.toNat
    let w := sizeBytes x.sz.toNat c.h.b8
    let ea := gAddr c x.bp.toNat x.o.toNat
    Reach s c m .write w ea key →
    ∃ t co' g' x', exec (.stg x) s = .next t ∧ Stands t c.who co' g' x' ∧ Passed c g' x' ∧
      (∀ k, Warm s c m ea key → s.clusterOf c.co = some k → s.dslotOf c.co = none →
        SamePath s { t with clusters := s.clusters } ∧ OnlyCohort s t c.who.co co' ∧ OnlyGroup c co' g' ∧ OnlySplit c g' x' ∧
        (∀ j, j ≠ k → t.cluster j = s.cluster j) ∧
        ∀ b, t.laneByte (some k) b = match lastOver m w key b with
          | none => s.laneByte (some k) b
          | some l => dataByte c x.d.toNat l (b - key l)) ∧
      ∀ l, c.co.isHF = true → c.co.root = .hf → Only m l → Memory.wf s.mem = true →
        { t with cohorts := s.cohorts, time := s.time, free := s.free, stalled := s.stalled, mem := s.mem, slices := s.slices, sent := s.sent } = s ∧
        ∀ b, Memory.read t.mem b = if key l ≤ b ∧ b < key l + w then dataByte c x.d.toNat l (b - key l) else Memory.read s.mem b

/-- 15 R216: the lowest lane whose access fails a check traps, with no effect: PROTECTION at 2^56 and above, ALIGNMENT, the code
of its translation; on scratch SCRATCH_BOUNDS, then ALIGNMENT. A displacement with payload bits above bit 31 traps ILLEGAL at
its first hint. 21 R295: a load of bytes in error traps ECC_UNCORRECTED for its lowest such lane (sectors of 32 bytes are the
model's, log entry 59). -/
def Obligations.MemoryTraps : Prop :=
  (∀ e ∈ [((fun x : MS => Instr.stg x), Access.write), (fun x => Instr.ldg ⟨x.g, x.d, x.o, x.sz, x.bp, 0⟩, Access.read)],
    ∀ (s : State) (c : Ctx) (x : MS), x.d.toNat % sizeRegs x.sz.toNat = 0 →
    Ready s c true false true { b8 := x.sz.toNat == 0, cp := true } (x.o.toNat :: dataRegs x.sz.toNat x.d.toNat) → Calm s c → Unwatched s c.co →
    let m := c.part x.g.toNat
    let w := sizeBytes x.sz.toNat c.h.b8
    let ea := gAddr c x.bp.toNat x.o.toNat
    (¬ dispFits c → exec (e.1 x) s = .next (s.raise c (wordOf (e.1 x)) { code := ILLEGAL, pc := some c.h.immPc })) ∧
    (dispFits c → ∀ l code, has m l = true → (∀ k, k < l → has m k = true → ea k < 2 ^ 56 ∧ ea k % w = 0 ∧
        ∃ p, s.laneXlate c.co (ea k) e.2 = .ok p ∧ isRegKey p.key = false) →
      (2 ^ 56 ≤ ea l ∧ code = PROTECTION ∨ ea l < 2 ^ 56 ∧ ea l % w ≠ 0 ∧ code = ALIGNMENT ∨
        ea l < 2 ^ 56 ∧ ea l % w = 0 ∧ s.laneXlate c.co (ea l) e.2 = .error code) →
      exec (e.1 x) s = .next (s.raise c (wordOf (e.1 x)) { code := code, lane := some l, addr := BitVec.ofNat 64 (ea l) }))) ∧
  (∀ (s : State) (c : Ctx) (x : ML), x.d.toNat % sizeRegs x.sz.toNat = 0 →
    Ready s c true false true { b8 := x.sz.toNat == 0, cp := true } (x.o.toNat :: dataRegs x.sz.toNat x.d.toNat) → s.sc = [] → s.ords = [] →
    Unwatched s c.co → dispFits c →
    let m := c.part x.g.toNat
    let w := sizeBytes x.sz.toNat c.h.b8
    let ea := gAddr c x.bp.toNat x.o.toNat
    let off (l : Nat) : Int := sAddr c x.bp.toNat x.o.toNat l
    let clean (k : Nat) : Prop := ea k < 2 ^ 56 ∧ ea k % w = 0 ∧ ∃ p, s.laneXlate c.co (ea k) .read = .ok p ∧ isRegKey p.key = false ∧
      ∀ j, j < w → (p.key + j) / 32 ∉ s.bad
    (∀ l p j, NoLines s c → l < 32 → has m l = true → (∀ k, k < l → has m k = true → clean k) → ea l < 2 ^ 56 → ea l % w = 0 →
      s.laneXlate c.co (ea l) .read = .ok p → isRegKey p.key = false → j < w → (p.key + j) / 32 ∈ s.bad →
      exec (.ldg x) s = .next (s.raise c (wordOf (.ldg x)) { code := ECC_UNCORRECTED, lane := some l, addr := BitVec.ofNat 64 (ea l) })) ∧
    ∀ l j, l < 32 → has m l = true → (∀ k, has m k = true → 0 ≤ off k ∧ off k + w ≤ c.co.z ∧ off k % w = 0) → j < w →
      ((off l).toNat + j) / 32 ∈ c.co.badScr → (∀ k i, k < l → has m k = true → i < w → ((off k).toNat + i) / 32 ∉ c.co.badScr) →
      exec (.lds x) s = .next (s.raise c (wordOf (.lds x)) { code := ECC_UNCORRECTED, lane := some l, addr := BitVec.ofInt 64 (off l) })) ∧
  ∀ e ∈ [(fun x : MS => Instr.sts x), fun x => Instr.lds ⟨x.g, x.d, x.o, x.sz, x.bp, 0⟩],
    ∀ (s : State) (c : Ctx) (x : MS), x.d.toNat % sizeRegs x.sz.toNat = 0 →
    Ready s c true false true { b8 := x.sz.toNat == 0, cp := true } (x.o.toNat :: dataRegs x.sz.toNat x.d.toNat) → Calm s c → dispFits c →
    let m := c.part x.g.toNat
    let w : Nat := sizeBytes x.sz.toNat c.h.b8
    let off (l : Nat) : Int := sAddr c x.bp.toNat x.o.toNat l
    ∀ l code, has m l = true → (∀ k, k < l → has m k = true → 0 ≤ off k ∧ off k + w ≤ c.co.z ∧ off k % w = 0) →
      ((off l < 0 ∨ (c.co.z : Int) < off l + w) ∧ code = SCRATCH_BOUNDS ∨ 0 ≤ off l ∧ off l + w ≤ c.co.z ∧ off l % w ≠ 0 ∧ code = ALIGNMENT) →
      exec (e x) s = .next (s.raise c (wordOf (e x)) { code := code, lane := some l, addr := BitVec.ofInt 64 (off l) })

/-- 15 R223, R224, Table 15.2, 13 R196 to R198: global atomics outside ORDERED launches. At home (device or system scope, or a
Headframe core) one lane's operation writes the new value there and no other byte, and returns the old one; at a cluster
atomic unit (cohort or cluster scope) it acts on the cluster's line, and home memory does not change. -/
def Obligations.GlobalAtomics : Prop :=
  ∀ e ∈ tableAtom, ∀ (s : State) (c : Ctx) (sc : BitVec 3) (d a : BitVec 7) (k : BitVec 4) (key : Nat → Nat), sc.toNat ≤ 3 → e.1.ok d.toNat a.toNat →
    Ready s c true true false { cp := true } (e.1.regs d.toNat a.toNat) → Calm s c → Unwatched s c.co → dispFits c →
    (c.co.isHF = true ∨ bit c.co.hdr 5 = false) → (2 ≤ sc.toNat → Backed s c) →
    let m := c.partH
    let ea := aAddr c a.toNat
    Reach s c m (if e.1.writes then .write else .read) e.1.bytes ea key → (∀ l, has m l = true → isHostKey (key l) = false) →
    ∃ t co' g' x', exec (e.2.1 sc d a k) s = .next t ∧ Stands t c.who co' g' x' ∧
      (∃ old, e.1.returned c g' x' (e.1.look k) d.toNat m old) ∧
      (∀ l, Only m l → 2 ≤ sc.toNat ∨ c.co.isHF = true → s.canonical = true → NoLines s c → InStep s c (key l) → TrackOff s (s.vdTag c.co.root) →
        let old := numOf (fun j => Memory.read s.mem (key l + j)) e.1.bytes
        let new := e.1.new old (e.1.dOf c d.toNat l) (e.1.xOf c d.toNat l)
        e.1.returned c g' x' (e.1.look k) d.toNat m (fun _ => old) ∧
        ∀ b, Memory.read t.mem b = if e.1.writes = true ∧ key l ≤ b ∧ b < key l + e.1.bytes then new.extractLsb' (8 * (b - key l)) 8
          else Memory.read s.mem b) ∧
      ∀ l n, Only m l → sc.toNat < 2 → s.clusterOf c.co = some n → key l < 2 ^ 40 → Warm s c m ea key → s.dslotOf c.co = none →
        let old := numOf (fun j => s.laneByte (some n) (key l + j)) e.1.bytes
        let new := e.1.new old (e.1.dOf c d.toNat l) (e.1.xOf c d.toNat l)
        e.1.returned c g' x' (e.1.look k) d.toNat m (fun _ => old) ∧
        SamePath s { t with clusters := s.clusters } ∧ OnlyCohort s t c.who.co co' ∧ OnlyGroup c co' g' ∧ OnlySplit c g' x' ∧
        ∀ b, t.laneByte (some n) b = if e.1.writes = true ∧ key l ≤ b ∧ b < key l + e.1.bytes then new.extractLsb' (8 * (b - key l)) 8
          else s.laneByte (some n) b

/-- 15 R224, R227: scratch atomics, one lane after another in ascending order.
15 R225, R226, 13 R208: an SC operation waits for its ticket, with its operands as of the issue, in a window that is not
ready; one of cohort or cluster scope is no instruction. -/
def Obligations.OtherAtomics : Prop :=
  (∀ e ∈ tableAtom, ∀ (s : State) (c : Ctx) (d a : BitVec 7) (k : BitVec 4), s.canonical = true → Sparse.rises 0 c.co.scratch = true →
      e.1.ok d.toNat a.toNat → Ready s c true true false { cp := true } (e.1.regs d.toNat a.toNat) → Calm s c → Unwatched s c.co → dispFits c →
      let m := c.partH
      let off (l : Nat) : Int := (pairV c a.toNat l).toNat + dispOf c
      (∀ l, has m l = true → 0 ≤ off l ∧ off l + e.1.bytes ≤ c.co.z ∧ off l % e.1.bytes = 0) →
      let r := e.1.run c d.toNat (fun l => (off l).toNat) (ones m) (Sparse.get 0 c.co.scratch)
      ∃ t co' g' x', exec (e.2.2 d a k) s = .next t ∧ SamePath s t ∧ OnlyCohort s t c.who.co co' ∧ OnlyGroup c { co' with scratch := c.co.scratch } g' ∧
        OnlySplit c g' x' ∧ e.1.returned c g' x' (e.1.look k) d.toNat m r.1 ∧ ∀ b, Sparse.get 0 co'.scratch b = r.2 b) ∧
  (∀ e ∈ [(rowAdd, fun s d a l => Instr.scAddS32 ⟨s, d, a, l⟩), (rowCas, fun s d a l => Instr.scCasB32 ⟨s, d, a, l⟩)],
      ∀ (s : State) (c : Ctx) (sc : BitVec 3) (d a : BitVec 7) (k : BitVec 4) (key : Nat → Nat), e.1.ok d.toNat a.toNat →
      Ready s c true true false { cp := true } (e.1.regs d.toNat a.toNat) → Calm s c → Unwatched s c.co →
      (sc.toNat < 2 ∨ 3 < sc.toNat → exec (e.2 sc d a k) s = .next (s.raise c (wordOf (e.2 sc d a k)) { code := ILLEGAL })) ∧
      (2 ≤ sc.toNat → sc.toNat ≤ 3 → dispFits c → (c.co.isHF = true ∨ bit c.co.hdr 5 = false) → s.kindOn c.co.die 3 = false → s.canonical = true → NoLines s c →
        let m := c.partH
        Reach s c m .write 4 (aAddr c a.toNat) key → (∀ l, has m l = true → isHostKey (key l) = false) →
        ∃ t co' g' x' ops, exec (e.2 sc d a k) s = .next t ∧ t.mem = s.mem ∧ OnlyCohort s t c.who.co co' ∧ Stands t c.who co' g' x' ∧
          Regs g' (sameV c) (sameS c) (sameP c) ∧ Moved c.sp { x' with windows := [] } ∧ t.sc = s.sc ++ ops ∧ ops.map (fun o => o.lane) = ones m ∧
          (∀ o ∈ ops, o.who = c.who ∧ o.sys = decide (sc.toNat = 3) ∧ o.key = key o.lane ∧ o.d = e.1.dOf c d.toNat o.lane ∧
            o.x = e.1.xOf c d.toNat o.lane ∧ o.dst = d) ∧
          (m ≠ 0 → ∃ w, x'.windows = [w] ∧ w.ready = false ∧ w.left = k.toNat ∧ w.dst = d ∧ w.nreg = 1 ∧ w.vals = [])))

/-- 15 R229, 13 R206: a fence of a split with no open window and of cohort or cluster scope goes on at once and changes no
memory; one of device or system scope writes the cluster's dirty bytes home, waiting for a link port where one needs it (25 R347). That it leaves the cluster without lines is the model's
way to meet R207, and no rule of the spec (log entry 55).
15 R230: `xfence` waits while a command of a class before it, issued by the group earlier, still runs; else it goes on. Where it
orders the lanes and has device or system scope or names an engine, the lanes' bytes go home; where it does not order them, has no such
reach, or comes from a Headframe core, nothing but the split changes. Masks that are empty or name class 5, and a scope above 3, are no instruction. -/
def Obligations.Fences : Prop :=
  (∀ (s : State) (c : Ctx) (sc : BitVec 3), sc.toNat ≤ 3 → Ready s c false false false {} [] → c.sp.wait = .none →
      (2 ≤ sc.toNat → ¬ Backed s c → exec (.fence sc) s = .next (s.stall c.who .other)) ∧
      ((2 ≤ sc.toNat → Backed s c) → ∃ t co' g' x', exec (.fence sc) s = .next t ∧ Stands t c.who co' g' x' ∧ Passed c g' x' ∧
        (sc.toNat < 2 ∨ c.co.isHF = true → SameModule s t ∧ OnlyCohort s t c.who.co co' ∧ OnlyGroup c co' g' ∧ OnlySplit c g' x') ∧
        ∀ k, 2 ≤ sc.toNat → s.clusterOf c.co = some k → s.canonical = true → LinesOk s k → (t.cluster k).lines = [] ∧ BackHome s t k)) ∧
  (∀ (s : State) (c : Ctx) (sc : BitVec 3) (a b : BitVec 6), Ready s c false false false {} [] → c.sp.wait = .none →
      (a.getLsbD 0 = true → Backed s c) →
      let runs : Prop := ∃ k ∈ s.cmds, k.co = some c.who.co ∧ k.gi = c.who.gi ∧ k.id < s.nextCmd ∧ k.done = false ∧
        a.getLsbD (match k.eng with | .copy => 1 | .matrix => 2 | .gather => 3 | .coll => 4) = true
      let legal : Prop := sc.toNat ≤ 3 ∧ a ≠ 0 ∧ b ≠ 0 ∧ a.getLsbD 5 = false ∧ b.getLsbD 5 = false
      (¬ legal → exec (.xfence sc a b) s = .next (s.raise c (wordOf (.xfence sc a b)) { code := ILLEGAL })) ∧
      let wide : Prop := 2 ≤ sc.toNat ∨ ∃ i, 1 ≤ i ∧ i ≤ 4 ∧ (a.getLsbD i = true ∨ b.getLsbD i = true)
      (legal → ∃ t co' g' x', exec (.xfence sc a b) s = .next t ∧ Stands t c.who co' g' x' ∧ Regs g' (sameV c) (sameS c) (sameP c) ∧
        (¬ runs → Moved c.sp { x' with mon := c.sp.mon }) ∧
        (runs → SameLanes c.sp { x' with mon := c.sp.mon } ∧ x'.pc = c.sp.pc ∧ x'.wait = .xfence sc.toNat s.nextCmd a b) ∧
        (c.co.isHF = true ∨ ¬ wide ∨ (a.getLsbD 0 = false ∧ b.getLsbD 0 = false) →
          SameModule s t ∧ OnlyCohort s t c.who.co co' ∧ OnlyGroup c co' g' ∧ OnlySplit c g' x') ∧
        ∀ k, wide → a.getLsbD 0 = true → s.clusterOf c.co = some k → s.canonical = true → LinesOk s k → BackHome s t k))

/-- 15 R231, R232, Table 15.4: `watch` arms the split's monitor at its word, or fires it at once where the condition holds
there; the condition code 7, an odd pair and a failed check trap; `watch.cancel` clears the record.
15 R233: `waitc` with no monitor writes 2, with a fired one 1 and clears it, with an armed one and no time 0 and clears it;
else it waits. -/
def Obligations.Monitors : Prop :=
  ((∀ e ∈ [((fun c a b => Instr.watchB32 c a b), false), ((fun c a b => Instr.watchB64 c a b), true)], ∀ (s : State) (c : Ctx) (cc : BitVec 3) (a b : BitVec 6),
      Ready s c false false false {} [] →
      let ea := (pairS c a.toNat).toNat
      let w : Nat := if e.2 then 8 else 4
      let cmp : BitVec 64 := if e.2 then pairS c b.toNat else (c.gr.getS b.toNat).setWidth 64
      let legal : Prop := cc.toNat ≤ 6 ∧ a.toNat % 2 = 0 ∧ (e.2 = true → b.toNat % 2 = 0)
      (¬ legal → exec (e.1 cc a b) s = .next (s.raise c (wordOf (e.1 cc a b)) { code := ILLEGAL })) ∧
      (legal → 2 ^ 56 ≤ ea → exec (e.1 cc a b) s = .next (s.raise c (wordOf (e.1 cc a b)) { code := PROTECTION, addr := pairS c a.toNat })) ∧
      (legal → ea < 2 ^ 56 → ea % w ≠ 0 → exec (e.1 cc a b) s = .next (s.raise c (wordOf (e.1 cc a b)) { code := ALIGNMENT, addr := pairS c a.toNat })) ∧
      ∀ p, legal → ea < 2 ^ 56 → ea % w = 0 → s.laneXlate c.co ea .read = .ok p → isRegKey p.key = false → s.noRoute p.key = false →
        ∃ t co' g' x', exec (e.1 cc a b) s = .next t ∧ SameModule s t ∧ OnlyCohort s t c.who.co co' ∧ OnlyGroup c co' g' ∧ OnlySplit c g' x' ∧
          Passed c g' x' ∧ x'.mon.key = p.key ∧ x'.mon.addr.toNat = ea ∧ x'.mon.cmp = cmp ∧ x'.mon.wide = e.2 ∧ x'.mon.cond = cc ∧
          x'.mon.st = if condMon cc.toNat e.2 (numOf (fun j => Memory.read s.mem (p.key + j)) w) cmp then .fired else .armed) ∧
    ∀ (s : State) (c : Ctx), Ready s c false false false {} [] → ∃ t co' g' x', exec .watchCancel s = .next t ∧ SameModule s t ∧
      OnlyCohort s t c.who.co co' ∧ OnlyGroup c co' g' ∧ OnlySplit c g' x' ∧ Passed c g' x' ∧ x'.mon.st = .none) ∧
  (∀ (s : State) (c : Ctx) (sc : BitVec 3) (d n : BitVec 6), sc.toNat ≤ 3 → Ready s c false false false {} [] → c.sp.wait = .none →
      s.kindOn c.co.die 5 = false → c.sp.wakeRsv = false → s.canonical = true → NoLines s c →
      let time := (c.gr.getS n.toNat).toNat
      let ends (v : Word) (st : MonState) : Prop := ∃ t co' g' x', exec (.waitc sc d n) s = .next t ∧ SameModule s t ∧ OnlyCohort s t c.who.co co' ∧
        OnlyGroup c co' g' ∧ OnlySplit c g' x' ∧ Regs g' (sameV c) (scaTo c d.toNat v) (sameP c) ∧ Moved c.sp { x' with mon := c.sp.mon } ∧ x'.mon.st = st
      (c.sp.mon.st = .none → ends 2 .none) ∧ (c.sp.mon.st = .fired → ends 1 .none) ∧ (c.sp.mon.st = .armed → time = 0 → ends 0 .none) ∧
      (c.sp.mon.st = .armed → time ≠ 0 → ∃ t co' g' x', exec (.waitc sc d n) s = .next t ∧ SameModule s t ∧ OnlyCohort s t c.who.co co' ∧
        OnlyGroup c co' g' ∧ OnlySplit c g' x' ∧ Regs g' (sameV c) (sameS c) (sameP c) ∧ SameLanes c.sp x' ∧ x'.pc = c.sp.pc ∧
        ∃ lim, x'.wait = .waitc sc.toNat d lim ∧ (lim = none ↔ time = 2 ^ 32 - 1)))

/-- 17 R253 to R255, Table 17.5: the copy and gather words make their commands. A block that starts at no multiple of 4 traps ILLEGAL;
an OPT that is not 0, a bad completion record address, a field that must be 0, an entry that is no valid descriptor and descriptors that
the word refuses trap ENGINE_FAULT; an arrival at a barrier word outside the window traps SCRATCH_BOUNDS (R239). That `gather` and `scatter` refuse a ring (log entry 22)
and that ENGINE_FAULT goes before SCRATCH_BOUNDS (log entry 90) are the model's choices. -/
def Obligations.CopyAndGather : Prop :=
  ∀ (s : State) (c : Ctx) (b : BitVec 6), Ready s c false false false {} [] →
    let p0 := blkP0 c b
    let entry (n : Nat) : Option Desc := c.co.tensor? n
    let td := entry (bits p0 0 6)
    let ts := entry (bits p0 6 6)
    let tx := entry (bits p0 12 6)
    let gathers : List (Instr × Nat) := [(.gather b, 0), (.scatter b, 1), (.scatterAdd b, 2)]
    let words : List Instr := [.copy b, .copyZero b, .gather b, .scatter b, .scatterAdd b]
    let faults (i : Instr) : Prop := exec i s = .next (s.raise c (wordOf i) { code := ENGINE_FAULT })
    (b.toNat % 4 ≠ 0 → ∀ i ∈ words, exec i s = .next (s.raise c (wordOf i) { code := ILLEGAL })) ∧
    (b.toNat % 4 = 0 → s.queueFull c.co 1 = false →
      (blkP1 c b ≠ 0 ∨ ¬ BlockFit c b ∨ td = none → ∀ i ∈ words, faults i) ∧
      (bits p0 12 6 ≠ 0 ∨ ts = none ∨ (∃ d t, td = some d ∧ ts = some t ∧ CopyRefuses c d t) → faults (.copy b)) ∧
      (bits p0 6 12 ≠ 0 ∨ (∃ d, td = some d ∧ (d.scm = 4 ∨ Unclaimed c d)) → faults (.copyZero b)) ∧
      ∀ e ∈ gathers, ts = none ∨ tx = none ∨ (∃ d t x, td = some d ∧ ts = some t ∧ tx = some x ∧ GatherRefuses e.2 d t x) → faults e.1) ∧
    ∀ d t x : Desc, s.queueFull c.co 1 = false → BlockFit c b → TensorAt c (bits p0 0 6) d → blkP1 c b = 0 →
      (bits p0 12 6 = 0 → TensorAt c (bits p0 6 6) t → ¬ CopyRefuses c d t → Makes s c b (.copy b) fun k =>
        k.eng = .copy ∧ k.fn = 0 ∧ k.p0 = p0 ∧ k.td = d ∧ k.ts = t ∧ k.crec = (blkRec c b).setWidth 56) ∧
      (bits p0 6 12 = 0 → d.scm ≠ 4 → Makes s c b (.copyZero b) fun k =>
        k.eng = .copy ∧ k.fn = 1 ∧ k.p0 = p0 ∧ k.td = d ∧ k.crec = (blkRec c b).setWidth 56) ∧
      ∀ e ∈ gathers, TensorAt c (bits p0 6 6) t → TensorAt c (bits p0 12 6) x → ¬ GatherRefuses e.2 d t x → Makes s c b e.1 fun k =>
        k.eng = .gather ∧ k.fn = e.2 ∧ k.p0 = p0 ∧ k.td = d ∧ k.ts = t ∧ k.tx = x ∧ k.crec = (blkRec c b).setWidth 56

/-- 17 R246, R248 to R251: the matrix loop words; `.grp` copies its group table, each group's first row and rows. -/
def Obligations.MatrixLoops : Prop :=
  ∀ (s : State) (c : Ctx) (ta tb : BitVec 6) (acc k : BitVec 5) (a b : Desc), Ready s c false false false {} [] → s.queueFull c.co 0 = false →
    let p0 := c.gr.getS (2 * k.toNat)
    let p1 := c.gr.getS (2 * k.toNat + 1)
    (∀ e ∈ [(Instr.mloop ⟨ta, tb, acc, k⟩, 0), (.mloopSm tb acc k, 1), (.mloopPro ⟨ta, tb, acc, k⟩, 2)],
      LoopOk c e.2 ta.toNat tb.toNat acc.toNat p0 p1 a b →
      ∃ u m, exec e.1 s = .next u ∧ MakesCmd s c u m ∧ m.eng = .matrix ∧ m.fn = e.2 ∧ m.p0 = p0 ∧ m.p1 = p1 ∧ m.td = a ∧ m.ts = b ∧
        m.acc = acc.toNat ∧ m.oh = bits p0 0 5 ∧ m.grp = [(0, 64, 0)]) ∧
    ∀ ns : List Nat, LoopOk c 3 ta.toNat tb.toNat acc.toNat p0 p1 a b →
      let off := 4 * bits p1 16 16
      1 ≤ ns.length → ns.length ≤ 64 → off + 4 + 4 * ns.length ≤ c.co.z → (c.co.scratchWord off).toNat = ns.length →
      (∀ i, i < ns.length → (c.co.scratchWord (off + 4 + 4 * i)).toNat = ns.getD i 0) →
      (∀ i, i < ns.length → ((ns.take i).sum + ns.getD i 0 ≤ 64 ∧ i < b.ext 2)) →
      ∃ u m, exec (.mloopGrp ⟨ta, tb, acc, k⟩) s = .next u ∧ MakesCmd s c u m ∧ m.eng = .matrix ∧ m.fn = 3 ∧ m.p0 = p0 ∧ m.p1 = p1 ∧
        m.td = a ∧ m.ts = b ∧ m.acc = acc.toNat ∧
        ∀ f n i, (f, n, i) ∈ m.grp ↔ (i < ns.length ∧ f = (ns.take i).sum ∧ n = ns.getD i 0 ∧ n ≠ 0)

/-- 17 R256, Tables 17.6, 17.7: a collective word counts in COUNT of its group descriptor and makes its command. -/
def Obligations.Collectives : Prop :=
  ∀ e ∈ [((fun b g => Instr.collAllred b g), 0), ((fun b g => Instr.collRedsc b g), 1), ((fun b g => Instr.collAllgat b g), 2), ((fun b g => Instr.collBcast b g), 3)],
    ∀ (s : State) (c : Ctx) (b g : BitVec 6) (d t : Desc) (x n : Nat) (p : Phys), Ready s c false false false {} [] → s.queueFull c.co 4 = false → BlockOk c b →
    g.toNat % 2 = 0 →
    let p0 := blkP0 c b
    let ga := (pairS c g.toNat).toNat
    let probe : Cmd := { id := 0, eng := .coll, fn := e.2, co := none, launch := none, root := c.co.root }
    bits p0 12 6 = 0 → ga % 64 = 0 → TensorAt c (bits p0 0 6) d → TensorAt c (bits p0 6 6) t →
    s.groupDesc c.co.root ga = .ok x → groupBad x = false → collBad e.2 d t (blkP1 c b) (fget x 0 16) = false →
    s.cmdRead probe (fget x 64 56 + 2 * fget x 16 16 : Nat) 2 = .ok n → n = s.modNum →
    s.cmdXlate probe (ga + 16 : Nat) .write = .ok p → TrackOff s (s.vdTag c.co.root) → Memory.wf s.mem = true →
    ∃ (u : State) (k : Cmd) (co' : Cohort) (g' : Group) (x' : Split), exec (e.1 b g) s = .next u ∧ Stands u c.who co' g' x' ∧ Passed c g' x' ∧ u.cmds = s.cmds ++ [k] ∧ u.nextCmd = s.nextCmd + 1 ∧
      k.id = s.nextCmd ∧ k.eng = .coll ∧ k.fn = e.2 ∧ k.co = some c.who.co ∧ k.p0 = p0 ∧ k.p1 = blkP1 c b ∧ k.td = d ∧ k.ts = t ∧ k.gdesc.toNat = ga ∧
      k.crec = (blkRec c b).setWidth 56 ∧
      ∀ a, Memory.read u.mem a = if p.key ≤ a ∧ a < p.key + 8 then BitVec.ofNat 8 ((fget x 128 64 + 1) / 256 ^ (a - p.key)) else Memory.read s.mem a

/-- 17 R242: `tidset` loads 64 bytes into an entry of the tensor table when they are a valid descriptor, and else traps
ENGINE_FAULT; `tidget` reads 64 bits of an entry, 0 of an invalid one. -/
def Obligations.TensorTable : Prop :=
  (∀ (s : State) (c : Ctx) (a n : BitVec 6) (key : Nat), a.toNat % 2 = 0 → Ready s c false false false {} [] → Calm s c → Sparse.rises 0 c.co.ttab = true →
    let ea := (pairS c a.toNat).toNat
    let d : Desc := BitVec.ofNat 512 (seenBytes s c key 64)
    ReadsAt s c .read 64 ea key →
    (d.valid = false → exec (.tidset a n) s = .next (s.raise c (wordOf (.tidset a n)) { code := ENGINE_FAULT })) ∧
    (d.valid = true → ∃ t co' g' x', exec (.tidset a n) s = .next t ∧ Stands t c.who co' g' x' ∧ Passed c g' x' ∧
      ∀ j, Sparse.get 0 co'.ttab j = if j = n.toNat then d else Sparse.get 0 c.co.ttab j)) ∧
  ∀ (s : State) (c : Ctx) (j : BitVec 3) (d n : BitVec 6), Ready s c false false false {} [] →
    (d.toNat % 2 = 1 → exec (.tidget j d n) s = .next (s.raise c (wordOf (.tidget j d n)) { code := ILLEGAL })) ∧
    (d.toNat % 2 = 0 →
      let v : BitVec 64 := ((c.co.tensor? n.toNat).getD 0).extractLsb' (64 * j.toNat) 64
      ∃ t, exec (.tidget j d n) s = .next t ∧ Writes s c t (sameV c)
        (fun r => if r = d.toNat then v.extractLsb' 0 32 else if r = d.toNat + 1 then v.extractLsb' 32 32 else c.gr.getS r) (sameP c))

/-- 17 R243: `aalloc` waits for its grant, or traps ENGINE_FAULT when a name is held; `afree` releases its names when no command
names them, waits while one does, and traps ENGINE_FAULT when one is not held.
17 R244: `aget` reads an element or a side value of a held accumulator into the participating lanes, at once or through a
window; a busy one gives its value later. -/
def Obligations.Accumulators : Prop :=
  (∀ (s : State) (c : Ctx) (n k : BitVec 6), Ready s c false false false {} [] → c.sp.handler = false →
      let legal : Prop := n.toNat < 32 ∧ 1 ≤ k.toNat ∧ n.toNat + k.toNat ≤ 32
      let free : Prop := ∀ j, Named n.toNat k.toNat j → c.co.aheld.getLsbD j = false
      let held : Prop := ∀ j, Named n.toNat k.toNat j → c.co.aheld.getLsbD j = true
      let busy : Prop := ∃ j, Named n.toNat k.toNat j ∧ s.accBusy c.who.co j = true
      (∀ i ∈ [Instr.aalloc n k, .afree n k], ¬ legal → exec i s = .next (s.raise c (wordOf i) { code := ILLEGAL })) ∧
      (legal → free → ∃ t co' g' x', exec (.aalloc n k) s = .next t ∧ SameModule s t ∧ OnlyCohort s t c.who.co co' ∧ OnlyGroup c co' g' ∧
        OnlySplit c g' x' ∧ Regs g' (sameV c) (sameS c) (sameP c) ∧ SameLanes c.sp x' ∧ x'.pc = c.sp.pc ∧ x'.wait = .aalloc n.toNat k.toNat) ∧
      (legal → ¬ free → exec (.aalloc n k) s = .next (s.raise c (wordOf (.aalloc n k)) { code := ENGINE_FAULT })) ∧
      (legal → held → ¬ busy → ∃ t co' g' x', exec (.afree n k) s = .next t ∧ SameModule s t ∧ OnlyCohort s t c.who.co co' ∧
        OnlyGroup c { co' with aheld := c.co.aheld } g' ∧ OnlySplit c g' x' ∧ Passed c g' x' ∧
        ∀ j, j < 32 → (co'.aheld.getLsbD j = true ↔ c.co.aheld.getLsbD j = true ∧ ¬ Named n.toNat k.toNat j)) ∧
      (legal → held → busy → exec (.afree n k) s = .next (s.stall c.who .engine)) ∧
      (legal → ¬ held → exec (.afree n k) s = .next (s.raise c (wordOf (.afree n k)) { code := ENGINE_FAULT }))) ∧
  (∀ e ∈ [((fun y => Instr.agetAcc y), (0 : Nat)), ((fun y => Instr.agetM y), 1), ((fun y => Instr.agetL y), 2)], ∀ (s : State) (c : Ctx) (y : AG),
      let d := 64 * y.h.toNat + y.sa.toNat
      let v := c.gr.getS y.sb.toNat
      let n := bits v 0 5
      Ready s c false true false {} [d] →
      (c.co.aheld.getLsbD n = false ∨ bits v 12 20 ≠ 0 ∨ (e.2 ≠ 0 ∧ bits v 5 6 ≠ 0) →
        exec (e.1 y) s = .next (s.raise c (wordOf (e.1 y)) { code := ENGINE_FAULT })) ∧
      (c.co.aheld.getLsbD n = true → bits v 12 20 = 0 → (e.2 = 0 ∨ bits v 5 6 = 0) →
        ∃ t co' g' x', exec (e.1 y) s = .next t ∧ SameModule s t ∧ OnlyCohort s t c.who.co co' ∧ OnlyGroup c co' g' ∧
          (s.accBusy c.who.co n = false → Returned c g' x' y.l.toNat d 1 c.partH (fun _ l =>
            let r := 32 * bits v 11 1 + l
            if e.2 = 0 then Sparse.get 0 c.co.accE (4096 * n + 64 * bits v 5 6 + r)
            else if e.2 = 1 then Sparse.get 0xFF800000#32 c.co.accM (64 * n + r) else Sparse.get 0 c.co.accL (64 * n + r))) ∧
          (s.accBusy c.who.co n = true → Regs g' (sameV c) (sameS c) (sameP c) ∧ Moved c.sp { x' with windows := [] } ∧
            ∃ w, x'.windows = [w] ∧ w.ready = false ∧ w.dst.toNat = d ∧ w.nreg = 1 ∧ w.left = y.l.toNat ∧ w.pmask = c.partH) ∧
          g'.splits[c.who.si]? = some x'))

/-- 17 R245, 13 R184: `fclaim` claims a bank in FIFO mode for the cohort, with nothing in it, waits while another cohort holds
it, and traps ENGINE_FAULT for a bank of another mode. That it traps ENGINE_FAULT on a Headframe core, which has no cluster, is the
model's choice (log entry 164).
17 R259: `chain` on a control block with TAIL 0 links its entry as head and tail and gives both the next sequence; a control block that no doorbell slot names and no walker knows gets one (01 R18, 13 R357); 17 R262:
`chwait` arms a monitor on the count and waits, or goes on at once when the count is there. -/
def Obligations.FifosAndChains : Prop :=
  (∀ (s : State) (c : Ctx) (b : BitVec 6), Ready s c false false false {} [] → c.sp.handler = false → s.canonical = true →
      let bank := (c.gr.getS b.toNat).toNat
      (c.co.isHF = true ∨ (∃ k, s.clusterOf c.co = some k ∧ (63 < bank ∨ s.bankMode k bank ≠ 2)) →
        exec (.fclaim b) s = .next (s.raise c (wordOf (.fclaim b)) { code := ENGINE_FAULT })) ∧
      ∀ k, s.clusterOf c.co = some k → bank ≤ 63 → s.bankMode k bank = 2 →
        (∀ o, (s.fifo k bank).owner = some o → o ≠ c.who.co → exec (.fclaim b) s = .next (s.stall c.who .engine)) ∧
        ((s.fifo k bank).owner = none → (∀ p ∈ (s.cluster k).change, p.1 ≠ bank) → bank ∉ c.co.fifos → Sparse.rises 0 (s.cluster k).fifo = true →
          ∃ t co' g' x', exec (.fclaim b) s = .next t ∧ SameModule s { t with clusters := s.clusters } ∧ OnlyCohort s t c.who.co co' ∧
            OnlyGroup c { co' with fifos := c.co.fifos } g' ∧ OnlySplit c g' x' ∧ Passed c g' x' ∧ co'.fifos = c.co.fifos ++ [bank] ∧
            (∀ j, j ≠ k → t.cluster j = s.cluster j) ∧ { t.cluster k with fifo := (s.cluster k).fifo } = s.cluster k ∧
            (t.fifo k bank).owner = some c.who.co ∧ (t.fifo k bank).entries = [] ∧ ∀ j, j ≠ bank → t.fifo k j = s.fifo k j)) ∧
  ((∀ (s : State) (c : Ctx) (a e : BitVec 6) (kc ke : Nat), a.toNat % 2 = 0 → e.toNat % 2 = 0 → Ready s c false false false {} [] → Calm s c → s.canonical = true → NoLines s c →
      let ccb := (pairS c a.toNat).toNat
      let ent := (pairS c e.toNat).toNat
      ReadsAt s c .write 64 ccb kc → ReadsAt s c .write 64 ent ke → (kc + 64 ≤ ke ∨ ke + 64 ≤ kc) → TrackOff s (s.vdTag c.co.root) → s.homeRead kc 7 = 0 →
      ∃ t co' g' x', exec (.chain a e) s = .next t ∧ Stands t c.who co' g' x' ∧ Passed c g' x' ∧
        t.homeRead kc 7 = ent ∧ t.homeRead (kc + 8) 8 = (s.homeRead (kc + 8) 8 + 1) % 2 ^ 64 ∧ t.homeRead (ke + 16) 8 = (s.homeRead (kc + 8) 8 + 1) % 2 ^ 64 ∧
        t.homeRead (ke + 8) 7 = 0 ∧ (s.homeRead (kc + 32) 7 = 0 → t.homeRead (kc + 32) 7 = ent) ∧
        (Slotless s → s.chains = [] → isRemoteKey kc = false → ∃ k, t.chains = [k] ∧ k.ccb.toNat = ccb ∧ k.root = c.co.root ∧ k.slot = none) ∧
        ∀ b, ¬ (kc ≤ b ∧ b < kc + 64) → ¬ (ke ≤ b ∧ b < ke + 64) → Memory.read t.mem b = Memory.read s.mem b) ∧
    ∀ (s : State) (c : Ctx) (sc : BitVec 3) (a n : BitVec 6) (key : Nat), sc = 2 ∨ sc = 3 → a.toNat % 2 = 0 → n.toNat % 2 = 0 → Ready s c false false false {} [] →
      Calm s c → c.sp.wakeRsv = false → c.sp.wait = .none → s.canonical = true → NoLines s c → s.kindOn c.co.die 5 = false → ReadsAt s c .read 16 (pairS c a.toNat).toNat key →
      let v := numOf (fun j => Memory.read s.mem (key + j)) 8
      ((pairS c n.toNat).toNat ≤ v.toNat → ∃ t co' g' x', exec (.chwait sc a n) s = .next t ∧ SameModule s t ∧ OnlyCohort s t c.who.co co' ∧
        OnlyGroup c co' g' ∧ OnlySplit c g' x' ∧ Passed c g' x' ∧ x'.mon.st = .none) ∧
      (v.toNat < (pairS c n.toNat).toNat → ∃ t co' g' x', exec (.chwait sc a n) s = .next t ∧ SameModule s t ∧ OnlyCohort s t c.who.co co' ∧
        OnlyGroup c co' g' ∧ OnlySplit c g' x' ∧ Regs g' (sameV c) (sameS c) (sameP c) ∧ SameLanes c.sp { x' with mon := c.sp.mon } ∧ x'.pc = c.sp.pc ∧
        x'.wait = .chwait sc.toNat ∧ x'.mon.st = .armed ∧ x'.mon.key = key ∧ x'.mon.cmp = pairS c n.toNat))

/-- 19 R268, R269, Table 19.2: a spawn word puts one item for each of its lanes into the Cradle of its die, in ascending lane
order, where the entry descriptor is good and no lane is at depth 8.
19 R273 to R275: `launch` of one lane with a good header and no stream offers that launch. That ALIGNMENT of the record's address goes
before every check of the header (log entry 115), and that the 1,024 launches outstanding count for the issuing die (log entry 116), are
the model's choices. -/
def Obligations.SpawnAndLaunch : Prop :=
  (∀ (s : State) (c : Ctx) (e a : BitVec 6) (L : Nat) (key : Nat → Nat), a.toNat % 2 = 0 → c.co.launch = some L → c.sp.mask ≠ 0 → c.h.mod? = none → Calm s c → Backed s c → Sparse.rises 0 s.cradle = true →
      let off := (c.gr.getS e.toNat).toNat
      off % 4 = 0 → 16 ≤ off → (∀ i, i < 4 → ReadsAt s c .read 4 (c.co.kb + off - 16 + 4 * i) (key i)) →
      let d := ((List.range 4).map fun i => seenBytes s c (key i) 4 * 2 ^ (32 * i)).sum
      fget d 5 27 = 0 → fget d 53 75 = 0 → 1 ≤ fget d 0 5 → fget d 0 5 ≤ 16 → fget d 32 21 ≤ 2 ^ 20 →
      let made (i : Instr) (ls : List Nat) (x y : Nat → Word) : Prop :=
        (∀ l ∈ ls, c.depth l + 1 ≤ 8) → (s.items c.co.die).length + ls.length ≤ 65536 →
        ∃ t co' g' x' its, exec i s = .next t ∧ Stands t c.who co' g' x' ∧ Passed c g' x' ∧ t.items c.co.die = s.items c.co.die ++ its ∧
          its.length = ls.length ∧ ∀ (j : Nat) l, ls[j]? = some l → ∃ it, its[j]? = some it ∧ it.launch = L ∧ it.entry = off ∧ it.arg0 = x l ∧ it.arg1 = y l ∧
            it.depth = c.depth l + 1 ∧ it.iid = Sparse.get 0 c.gr.iids l ∧ it.rb = fget d 0 5 ∧ it.scr = fget d 32 21
      (Ready s c false true false {} [a.toNat, a.toNat + 1] → made (.spawn e a) (ones c.partH) (c.gr.getV a.toNat) (c.gr.getV (a.toNat + 1))) ∧
      (Ready s c false false false {} [] → made (.spawnU e a) ((ones c.sp.mask).take 1) (fun _ => c.gr.getS a.toNat) fun _ => c.gr.getS (a.toNat + 1))) ∧
  (∀ (s : State) (c : Ctx) (a k : BitVec 6) (l key : Nat), a.toNat % 2 = 0 → k.toNat % 2 = 0 → Ready s c false true false {} [a.toNat, a.toNat + 1] → c.h.mod? = none → Calm s c → Backed s c →
      let crec := (pairS c k.toNat).toNat
      let h := (pairV c a.toNat l).toNat
      let hdr : BitVec 1024 := BitVec.ofNat 1024 (seenBytes s c key 128)
      (crec % 16 ≠ 0 → exec (.launch a k) s = .next (s.raise c (wordOf (.launch a k)) { code := ALIGNMENT, addr := pairS c k.toNat })) ∧
      (crec % 16 = 0 → crec < 2 ^ 56 → Only c.partH l → ReadsAt s c .read 128 h key → headerOk hdr = true → bit hdr 11 = false → s.children c.co.die + 1 ≤ 1024 →
        ∃ t co' g' x' n, exec (.launch a k) s = .next t ∧ Stands t c.who co' g' x' ∧ Passed c g' x' ∧ t.offers = s.offers ++ [n] ∧ n.hdr = hdr ∧
          n.haddr.toNat = h ∧ n.crec.toNat = crec ∧ n.die = c.co.die ∧ n.root = c.co.root))

/-- 19 R276, R277: `xpand` of a set of one group forms its expansion from the participating lanes and goes on; one that
waits for another member of its set records the contribution; a group with another live split traps ILLEGAL.
19 R278 to R280: `xnext` gives a receiver lane the next item of its share, or none; `sred` posts a value to each lane's
item; `sred.get` brings an owner's fold when the expansion is over; with no expansion they do nothing. -/
def Obligations.Expansions : Prop :=
  (∀ (s : State) (c : Ctx) (k : BitVec 3) (a o : BitVec 6), a.toNat % 2 = 0 → k.toNat ≤ 2 → o.toNat ≤ 5 → Ready s c false true false {} [a.toNat, a.toNat + 1] →
      c.sp.handler = false → c.h.mod? = none →
      let owner (l : Nat) : Owner := { g := c.gr.index, lane := l, start := c.gr.getV a.toNat l, len := (c.gr.getV (a.toNat + 1) l).toNat }
      (1 < c.gr.liveCount → exec (.xpand k a o) s = .next (s.raise c (wordOf (.xpand k a o)) { code := ILLEGAL })) ∧
      (k = 0 → c.gr.liveCount ≤ 1 → ((ones c.partH).map fun l => (c.gr.getV (a.toNat + 1) l).toNat).sum ≤ 2 ^ 24 →
        ∃ t co' g' x' st ex rest, exec (.xpand k a o) s = .next t ∧ SameModule s t ∧ Stands t c.who co' g' x' ∧ OnlyCohort s t c.who.co co' ∧ Passed c g' x' ∧
          co'.sets = st :: rest ∧ st.k = 1 ∧ st.first = c.gr.index ∧ st.exp = some ex ∧ ex.op = o.toNat ∧ ex.owners = (ones c.partH).map owner ∧
          ex.t = ((ones c.partH).map fun l => (owner l).len).sum ∧ ex.recvs.map (fun r => (r.g, r.lane)) = (ones c.partH).map fun l => (c.gr.index, l)) ∧
      (2 ^ 24 < ((ones c.partH).map fun l => (c.gr.getV (a.toNat + 1) l).toNat).sum → k = 0 → c.gr.liveCount ≤ 1 →
        exec (.xpand k a o) s = .next (s.raise c (wordOf (.xpand k a o)) { code := ENGINE_FAULT })) ∧
      (c.gr.liveCount ≤ 1 → c.lastMember (2 ^ k.toNat) = false →
        ∃ t co' g' x', exec (.xpand k a o) s = .next t ∧ SameModule s t ∧ Stands t c.who co' g' x' ∧ OnlyCohort s t c.who.co co' ∧
          Regs g' (sameV c) (sameS c) (sameP c) ∧ SameLanes c.sp x' ∧ x'.pc = c.sp.pc ∧ x'.wait = .xpand ∧
          ∃ st ∈ co'.sets, ∃ x ∈ st.contribs, x.g = c.gr.index ∧ x.op = o.toNat ∧ x.owners = (ones c.partH).map owner)) ∧
  (∀ (s : State) (c : Ctx), c.sp.handler = false → c.h.mod? = none → s.dslotOf c.co = none →
      (∀ p : BitVec 3, p ≠ 7 → Ready s c false true false {} [] →
        (c.co.sets = [] → ∃ t, exec (.xnext p) s = .next t ∧ Writes s c t (sameV c) (sameS c) (prdTo c c.partH p.toNat fun _ => false)) ∧
        ∀ st e l ix r, c.co.sets = [st] → c.co.setOf c.gr.index = some st → st.exp = some e → Only c.partH l →
          e.recvs.findIdx? (fun r => r.g == c.gr.index && r.lane == l) = some ix → e.recvs[ix]? = some r → r.cur = none →
          e.t = (e.owners.map fun o => o.len).sum →
          let n := ix + r.taken * e.recvs.length
          ∃ t co' g' x' st' e' r', exec (.xnext p) s = .next t ∧ SameModule s t ∧ OnlyCohort s t c.who.co co' ∧ Stands t c.who co' g' x' ∧ Moved c.sp x' ∧
            Regs g' (sameV c) (sameS c) (prdTo c c.partH p.toNat fun _ => decide (n < e.t)) ∧
            co'.sets = [st'] ∧ st'.exp = some e' ∧ e'.recvs[ix]? = some r' ∧
            (n < e.t → r'.taken = r.taken + 1 ∧ ∃ i j o, r'.cur = some (i, j) ∧ e.owners[i]? = some o ∧ j < o.len ∧ ((e.owners.take i).map fun o => o.len).sum + j = n) ∧
            (e.t ≤ n → r'.done = true ∧ r'.cur = none)) ∧
      (∀ a : BitVec 6, Ready s c false true false {} [a.toNat] → Calm s c → s.queueFull c.co 2 = false →
        (c.co.sets = [] → ∃ t, exec (.sred a) s = .next t ∧ Writes s c t (sameV c) (sameS c) (sameP c)) ∧
        ∀ st e, c.co.sets = [st] → c.co.setOf c.gr.index = some st → st.exp = some e →
          ∃ t co' g' x' st' e', exec (.sred a) s = .next t ∧ SameModule s t ∧ OnlyCohort s t c.who.co co' ∧ OnlyGroup c { co' with sets := c.co.sets } g' ∧
            OnlySplit c g' x' ∧ Passed c g' x' ∧ co'.sets = [st'] ∧ st'.exp = some e' ∧
            ∀ (ix : Nat) r, e.recvs[ix]? = some r → e'.recvs[ix]? = some
              (if r.g = c.gr.index ∧ has c.partH r.lane = true ∧ r.cur.isSome = true then { r with posted := some (c.gr.getV a.toNat r.lane) } else r)) ∧
      ∀ (d : BitVec 6) (l : BitVec 4), Ready s c false true false {} [d.toNat] →
        (c.co.setOf c.gr.index = none → ∃ t, exec (.sredGet d l) s = .next t ∧ Writes s c t (sameV c) (sameS c) (sameP c)) ∧
        ∀ st e, c.co.setOf c.gr.index = some st → st.exp = some e →
          ∃ t co' g' x', exec (.sredGet d l) s = .next t ∧ SameModule s t ∧ OnlyCohort s t c.who.co co' ∧ OnlyGroup c co' g' ∧
            g'.splits[c.who.si]? = some x' ∧
            (e.isOver = true → (∀ j, has c.partH j = true → (e.owners.any fun o => o.g == c.gr.index && o.lane == j) = true) →
              Returned c g' x' l.toNat d.toNat 1 c.partH fun _ j => match e.owners.find? fun o => o.g == c.gr.index && o.lane == j with
                | none => 0
                | some o => o.acc.getD (match e.op with | 2 => 0x7F800000#32 | 3 => 0xFF800000#32 | 4 => 0x7FFFFFFF#32 | 5 => 0x80000000#32 | _ => 0)) ∧
            (e.isOver = false → Regs g' (sameV c) (sameS c) (sameP c) ∧ Moved c.sp { x' with windows := [] } ∧ ∃ w, x'.windows = [w] ∧ w.ready = false ∧ w.dst.toNat = d.toNat))

/-- 19 R285, R287, R288: `recurse` starts a run of the Winze with the object's fields and waits; while a run goes on it waits to
issue; `wkids` of one lane gives its divide item the next free frames as children; `wret` of a whole split ends it, and of some
of its lanes lets the rest go on. -/
def Obligations.WinzeWords : Prop :=
  (∀ (s : State) (c : Ctx) (o : BitVec 6) (key hk : Nat), o.toNat % 2 = 0 → Ready s c false false false {} [] → c.sp.handler = false → c.h.mod? = none → Calm s c → Backed s c →
    let f (lo n : Nat) : Nat := fget (seenBytes s c key 64) lo n
    ReadsAt s c .read 64 (pairS c o.toNat).toNat key → objBad (seenBytes s c key 64) = false → ReadsAt s c .write 32 (f 128 56) hk →
    (∃ t co' g' x' w, exec (.recurse o) s = .next t ∧ Stands t c.who co' g' x' ∧ Regs g' (sameV c) (sameS c) (sameP c) ∧
      SameLanes c.sp { x' with mon := c.sp.mon } ∧ x'.pc = c.sp.pc ∧ x'.wait = .recurse ∧
      (c.co.run = none → co'.run = some w ∧ co'.queued = c.co.queued ∧ (NoLines s c → s.canonical = true → seenBytes t c hk 8 = 0x1_FFFF_FFFF)) ∧
      (c.co.run.isSome = true → co'.run = c.co.run ∧ co'.queued = c.co.queued ++ [w]) ∧ w.gi = c.who.gi ∧ w.si = c.who.si ∧
      w.div = f 0 32 ∧ w.bas = f 32 32 ∧ w.cmb = f 64 32 ∧ w.fsz = f 96 16 ∧ w.fan = f 112 3 ∧ w.maxd = f 120 7 ∧ w.arena = f 128 56 ∧ w.asize = f 192 64)) ∧
  (∀ (s : State) (c : Ctx) (a d : BitVec 6) (k : BitVec 4) (l fr : Nat) (i : WItem) (w : WinzeRun) (x : Frame),
    Ready s c false true false {} [a.toNat, d.toNat] → c.sp.handler = false → c.h.mod? = none → Only c.partH l → Sparse.get none c.gr.wz l = some i → i.rout = 0 → i.asked = false →
    i.frame = fr → c.co.run = some w → w.df = none → Sparse.rises 0 w.frames = true → w.frame? fr = some x → x.worker = none →
    (∀ g ∈ w.level, g < fr → ∃ y, w.frame? g = some y ∧ y.settled = true) →
    let n := (c.gr.getV a.toNat l).toNat
    (n = 0 → ∃ t co' g' x', exec (.wkids a d k) s = .next t ∧ Stands t c.who co' g' x' ∧ Returned c g' x' k.toNat d.toNat 1 c.partH fun _ _ => 0xFFFFFFFF#32) ∧
    (w.fan < n → exec (.wkids a d k) s = .next (s.raise c (wordOf (.wkids a d k)) { code := ENGINE_FAULT, lane := some l })) ∧
    (1 ≤ n → n ≤ w.fan → w.maxd ≤ x.depth + 1 → exec (.wkids a d k) s = .next (s.raise c (wordOf (.wkids a d k))
      { code := DEPTH_OVERFLOW, lane := some l, detail := BitVec.ofNat 48 x.depth })) ∧
    (1 ≤ n → n ≤ w.fan → x.depth + 1 < w.maxd → w.n < w.b + n → exec (.wkids a d k) s = .next (s.raise c (wordOf (.wkids a d k))
      { code := ARENA_FULL, lane := some l, detail := BitVec.ofNat 48 w.b })) ∧
    (1 ≤ n → n ≤ w.fan → x.depth + 1 < w.maxd → w.b + n ≤ w.n → (∀ g, g = fr ∨ (w.b ≤ g ∧ g < w.b + n) → ∃ hk, ReadsAt s c .write 32 (w.arena + g * (32 + w.fsz)) hk) →
      ∃ t co' g' x' w', exec (.wkids a d k) s = .next t ∧ Stands t c.who co' g' x' ∧ Returned c g' x' k.toNat d.toNat 1 c.partH (fun _ _ => BitVec.ofNat 32 w.b) ∧
        co'.run = some w' ∧ w'.b = w.b + n ∧ ∀ j, j < n → ∃ y, w'.frame? (w.b + j) = some y ∧ y.parent = some fr ∧ y.cidx = j ∧ y.depth = x.depth + 1)) ∧
  ∀ (s : State) (c : Ctx), Ready s c false true false {} [] → c.sp.handler = false → c.h.mod? = none → Calm s c → OnTime s c → c.sp.wait = .none → c.gr.stack = [] → DisjointMasks c →
    (∀ j x, c.partH = c.sp.mask → j ≠ c.who.si → c.gr.splits[j]? = some x → x.live = true → x.wait = .none →
      ∃ t co' g' y, exec .wret s = .next t ∧ Stands t c.who co' g' y ∧ y.live = false) ∧
    (c.partH ≠ c.sp.mask → ∃ t co' g' x', exec .wret s = .next t ∧ Stands t c.who co' g' x' ∧ x'.live = true ∧ x'.mask = c.sp.mask &&& ~~~c.partH ∧
      Moved c.sp { x' with mon := c.sp.mon, mask := c.sp.mask } ∧ Regs g' (sameV c) (sameS c) (sameP c))

/-- 21 R313, R314, 23 R334: the system and debug words.
05 R62 to R70, R76: a hint word that is legal, and repeats no hint of its chain but the second of two adjacent `hint.imm`,
joins the chain, and the split goes to the next word; else it traps ILLEGAL. No register changes.
05 R79 to R81: a pair word in DICT mode, after no hint, makes the codes of its entries the next to issue; an entry with bit 31
set, and one that was not supplied, issues as it is; in REP mode or after a hint it traps ILLEGAL. 05 R59: a word that is no
instruction traps ILLEGAL. -/
def Obligations.SystemAndHintWords : Prop :=
  ((∀ (s : State) (c : Ctx) (d a : BitVec 6) (n : BitVec 10), a.toNat % 2 = 0 → Ready s c false false false {} [] → s.canonical = true → NoLines s c →
      ∃ t co' g' x' iid la, exec (.svc d a n) s = .next t ∧ SameModule s { t with signals := s.signals } ∧ OnlyCohort s t c.who.co co' ∧ OnlyGroup c co' g' ∧
        OnlySplit c g' x' ∧ Regs g' (sameV c) (sameS c) (sameP c) ∧ SameLanes c.sp x' ∧ x'.pc = c.sp.pc ∧ x'.wait = .svc d ∧
        t.signals = s.signals ++ [Signal.svc c.who n (pairS c a.toNat) la iid] ∧ (∀ l, (ones c.sp.mask).head? = some l → iid = Sparse.get 0 c.gr.iids l) ∧
        ∀ L x, c.co.launch = some L → s.launch? L = some x → la = x.haddr) ∧
    (∀ (s : State) (c : Ctx) (n : BitVec 8), Ready s c false false false {} [] →
      (c.sp.handler = false → exec (.escal n) s = .next (s.raise c (wordOf (.escal n)) { code := ILLEGAL })) ∧
      ∀ r, c.sp.handler = true → c.gr.trap = some r → ∃ t co' g' x' r', exec (.escal n) s = .next t ∧ Stands t c.who co' g' x' ∧ Passed c g' x' ∧
        co'.status = .saving 5 (some c.who.gi) ∧ (∀ h ∈ co'.groups, h.halt = true) ∧ g'.trap = some r' ∧ r'.cause = 6 ∧ r'.escn = n ∧ r'.code = r.code ∧
        r'.detail = r.detail ∧ t.signals = s.signals ++ [Signal.escalation c.who.co c.who.gi 6] ∧ t.mem = s.mem) ∧
    (∀ (s : State) (c : Ctx) (n : BitVec 16), Ready s c false false false {} [] →
      (c.sp.handler = true → exec (.brk n) s = .next (s.raise c (wordOf (.brk n)) { code := BREAK, detail := n.setWidth 48 })) ∧
      (c.sp.handler = false → c.gr.halt = false → c.co.tvec ≠ 0 → c.gr.stack.length < 64 → c.sp.last = true →
        (∀ k, s.clusterOf c.co = some k → (s.reg (cluReg k 0x0480)).getLsbD 0 = false) →
        ∃ t co' g' x' e r, exec (.brk n) s = .next t ∧ SameModule s t ∧ Stands t c.who co' g' x' ∧ x'.pc = BitVec.ofNat 56 (c.co.kb + c.co.tvec.toNat) ∧ x'.pos = 0 ∧
          x'.handler = true ∧ x'.mask = c.sp.mask ∧ g'.stack = e :: c.gr.stack ∧ e.kind = .trap ∧ e.mask = c.sp.mask ∧ e.pc = c.sp.pc + 4 ∧ e.pos = 0 ∧
          g'.trap = some r ∧ r.code = BREAK ∧ r.detail = n.setWidth 48 ∧ r.split = c.who.si ∧ (∀ h ∈ co'.groups, h.halt = true) ∧
          Regs g' (sameV c) (sameS c) (sameP c))) ∧
    (∀ (s : State) (c : Ctx) (a : BitVec 7), Ready s c false false false {} [a.toNat] →
      (s.dslotOf c.co = none → ∃ t, exec (.dfold a) s = .next t ∧ Writes s c t (sameV c) (sameS c) (sameP c)) ∧
      ((s.dslotOf c.co).isSome = true → Sparse.rises 0 c.gr.dg = true → ∃ t co' g' x', exec (.dfold a) s = .next t ∧ SameModule s t ∧ OnlyCohort s t c.who.co co' ∧
        OnlyGroup c co' g' ∧ OnlySplit c { g' with dg := c.gr.dg } x' ∧ Passed c g' x' ∧
        ∀ l, Sparse.get none g'.dg l = if has c.sp.mask l then (Sparse.get none c.gr.dg l).map fun k => k.fold 0 0 (c.gr.getV a.toNat l).toNat
          else Sparse.get none c.gr.dg l)) ∧
    ∀ (s : State) (c : Ctx) (a : BitVec 6) (n : BitVec 16), a.toNat % 2 = 0 → Ready s c false false false {} [] →
      (s.kindOn c.co.die 7 = false → ∃ t, exec (.lmark a n) s = .next t ∧ Writes s c t (sameV c) (sameS c) (sameP c)) ∧
      (s.kindOn c.co.die 7 = true → s.logFree c.co.die < 1 → exec (.lmark a n) s = .next (s.raise c (wordOf (.lmark a n))
        { code := LOG_FULL, detail := BitVec.ofNat 48 (7 + (s.logFree c.co.die).toNat % 2 ^ 32 * 2 ^ 16) })) ∧
      (s.kindOn c.co.die 7 = true → 1 ≤ s.logFree c.co.die → s.canonical = true → c.co.die < 4 →
        let size := bits (s.reg (dieReg c.co.die 0x0408)) 0 32
        let w := (s.reg (dieReg c.co.die 0x0410)).toNat
        size ≠ 0 → ∃ t co' g' x', exec (.lmark a n) s = .next t ∧ Stands t c.who co' g' x' ∧ Passed c g' x' ∧
          t.reg (dieReg c.co.die 0x0410) = BitVec.ofNat 64 (w + 1) ∧
          t.homeRead (bits (s.reg (dieReg c.co.die 0x0400)) 0 56 + 32 * (w % size)) 32 =
            w + 7 * 2 ^ 64 + c.co.die * 2 ^ 68 + c.co.lcell % 2 ^ 10 * 2 ^ 70 + c.co.ltag.toNat * 2 ^ 80 +
              ((pairS c a.toNat).toNat + n.toNat * 2 ^ 64 + c.co.cseq % 2 ^ 48 * 2 ^ 80) * 2 ^ 96)) ∧
  (∀ (s : State) (c : Ctx), s.ctx? = some c → c.sp.pc.toNat + 4 < 2 ^ 56 → c.sp.windows = [] → c.gr.tidy = true →
      ∀ i k, (∃ h, i = Instr.hintImm h ∧ k = 0) ∨ (∃ e m sa o b p l, i = .hintMod e m sa o b p l ∧ k = 1) ∨ (∃ n, i = .hintGuard n ∧ k = 2) ∨
          (∃ y u, i = .hintSched y u ∧ k = 3) ∨ (∃ n d a b, i = .hintRep n d a b ∧ k = 4) ∨ (∃ h, i = .hintNop h ∧ k = 5) →
        let legal : Prop := (∀ e m sa o b p l, i = .hintMod e m sa o b p l → (e = 1 ∨ m = 0) ∧ p.toNat ≤ 3) ∧ (∀ n, i = .hintGuard n → n ≠ 7) ∧
          (∀ y u, i = .hintSched y u → y = 1 ∨ u = 1) ∧ (∀ n d a b, i = .hintRep n d a b → c.co.isHF = true ∨ bit c.co.hdr 10 = false)
        let kinds := c.sp.chain.map fun w => bits w 22 3
        let again : Prop := if k = 0 then 2 ≤ kinds.count 0 ∨ (kinds.count 0 = 1 ∧ kinds.getLast? ≠ some 0) else k ∈ kinds
        (¬ legal ∨ again → exec i s = .next (s.raise c (wordOf i) { code := ILLEGAL })) ∧
        (legal → ¬ again → ∃ t co' g' x', exec i s = .next t ∧ SameModule s t ∧ OnlyCohort s t c.who.co co' ∧ OnlyGroup c co' g' ∧ OnlySplit c g' x' ∧
          Regs g' (sameV c) (sameS c) (sameP c) ∧ { x' with chain := c.sp.chain, chainPc := c.sp.chainPc, pc := c.sp.pc, landed := c.sp.landed, boosted := c.sp.boosted, why := c.sp.why } = c.sp ∧
          x'.chain = c.sp.chain ++ [BitVec.ofNat 32 (wordOf i)] ∧ x'.pc = c.sp.pc + 4 ∧ x'.chainPc = if c.sp.chain = [] then c.sp.pc else c.sp.chainPc)) ∧
  ((∀ (s : State) (c : Ctx) (i : BitVec 10) (r : BitVec 5) (j : BitVec 10) (t : BitVec 5), s.ctx? = some c →
      let dict : List Word := match (s.cell (s.pcell c.co.lcell)).cfg with | some f => f.dict | none => []
      let code (i : BitVec 10) : Word := dict.getD i.toNat 0xFFFFFFFF#32
      (c.co.isHF = true ∨ bit c.co.hdr 10 = false ∨ c.sp.chain ≠ [] →
        ∀ w ∈ [Instr.dpair i r j t, .dpairSingle i r], exec w s = .next (s.raise c (wordOf w) { code := ILLEGAL })) ∧
      (c.co.isHF = false → bit c.co.hdr 10 = true → c.sp.chain = [] →
        (c.sp.pos.toNat < 2 → ∃ u co' g' x', exec (.dpair i r j t) s = .next u ∧ SameModule s u ∧ OnlyCohort s u c.who.co co' ∧ OnlyGroup c co' g' ∧ OnlySplit c g' x' ∧
          { x' with codes := c.sp.codes, landed := c.sp.landed } = c.sp ∧ x'.codes.length = 2 ∧
          ((code i).getLsbD 31 = true ∨ r = 0 → x'.codes[0]? = some (code i)) ∧ ((code j).getLsbD 31 = true ∨ t = 0 → x'.codes[1]? = some (code j))) ∧
        (c.sp.pos.toNat < 1 → ∃ u co' g' x', exec (.dpairSingle i r) s = .next u ∧ SameModule s u ∧ OnlyCohort s u c.who.co co' ∧ OnlyGroup c co' g' ∧ OnlySplit c g' x' ∧
          { x' with codes := c.sp.codes, landed := c.sp.landed } = c.sp ∧ x'.codes.length = 1 ∧
          ((code i).getLsbD 31 = true ∨ r = 0 → x'.codes[0]? = some (code i))))) ∧
    (∀ (s : State) (c : Ctx) (w : BitVec 32), s.ctx? = some c → exec (.encodingNotAnInstruction w) s = .next (s.raise c w.toNat { code := ILLEGAL })) ∧
    ∀ (t r : BitVec 32) (rb : BitVec 5), t.toNat / 2 ^ 25 ≤ 0x0F → r.toNat = t.toNat - t.toNat % 2 ^ 22 + t.toNat % 2 +
        ((t.toNat / 2 ^ 15 % 128 + 4 * rb.toNat) % 128) * 2 ^ 15 + ((t.toNat / 2 ^ 8 % 128 + 4 * rb.toNat) % 128) * 2 ^ 8 + ((t.toNat / 2 % 128 + 4 * rb.toNat) % 128) * 2 →
      dictCode [t] 0 rb = r)

/-- The waits end (05 R68, R72; 07 R116; 11 R161; 13 R199; 15 R229, R230, R233; 17 R262; 21 R313): a ready result is written in
its registers and its window closes; a polling monitor whose condition holds fires; a fired monitor ends its wait with 1; the
time runs out, with 0; `waitj` runs out, with its predicate false and its lanes no longer arrived; a fence ends when the
results have come and the commands have ended; a split that has been ready for 256 cycles is boosted; a pause ends when its cycles have
passed; the reply of a service comes. That nothing arrives any more in the cycle in which a `waitj` leaves, and that the module issues after
it, is the model's reading of the tie (log entry 51); a cohort that the Loupe holds counts no time (23 R318). -/
def Obligations.WaitsEnd : Prop :=
  (∀ (s : State) (c : Ctx) (v : Window), Here s c → c.gr.tidy = true → HasWindow c v → v.re = false → v.saved = false → v.ready = true → v.left = 0 →
    ∃ t g' x', exec (.resultWriteback c.who v.ord) s = .next t ∧ InGroup s c t g' x' ∧
      x' = { c.sp with windows := c.sp.windows.filter fun y => y.ord != v.ord } ∧ (∀ r, g'.getS r = c.gr.getS r) ∧ (∀ p, g'.getP p = c.gr.getP p) ∧
      (∀ k x, (k, x) ∈ v.vals → (∀ y, (k, y) ∈ v.vals → y = x) → Sparse.get 0 g'.v k = x) ∧
      ∀ k, (∀ x, (k, x) ∉ v.vals) → Sparse.get 0 g'.v k = Sparse.get 0 c.gr.v k) ∧
  (∀ (s : State) (c : Ctx), Here s c → WaitsRun s c → c.sp.mon.st = .armed → c.sp.mon.poll = true →
    condMon c.sp.mon.cond.toNat c.sp.mon.wide (homeNum s c.sp.mon.key (if c.sp.mon.wide then 8 else 4)) c.sp.mon.cmp = true →
    ∃ t g' x', exec (.monitorPoll c.who) s = .next t ∧ InGroup s c t g' x' ∧ Regs g' (sameV c) (sameS c) (sameP c) ∧
      x' = { c.sp with mon := { c.sp.mon with st := .fired, poll := false } }) ∧
  (∀ (s : State) (c : Ctx), Here s c → WaitsRun s c → c.gr.tidy = true → s.canonical = true → NoLines s c → s.kindOn c.co.die 5 = false → c.sp.wakeRsv = false →
    (∀ sc d lim, c.sp.wait = .waitc sc d lim → c.sp.mon.st = .fired → ∃ t, exec (.waitcWake c.who) s = .next t ∧ WaitOver s c t (scaTo c d.toNat 1) {}) ∧
    (∀ sc, c.sp.wait = .chwait sc → c.sp.mon.st = .fired → ∃ t, exec (.waitcWake c.who) s = .next t ∧ WaitOver s c t (sameS c) {}) ∧
    (∀ sc d lim, c.sp.wait = .waitc sc d (some lim) → c.sp.mon.st ≠ .fired →
      ∃ t, exec (.waitcTimeout c.who) s = .next t ∧ WaitOver s c t (scaTo c d.toNat 0) {} ∧ t.time = max s.time lim) ∧
    (∀ d v, c.sp.wait = .svc d → c.sp.owed = none → ∃ t, exec (.svcReply c.who v) s = .next t ∧ WaitOver s c t (scaTo c d.toNat v) c.sp.mon) ∧
    ((∀ w ∈ c.sp.windows, w.ready = true) → (∃ sc, c.sp.wait = .fence sc) ∨ (∃ sc bound a b, c.sp.wait = .xfence sc bound a b ∧ NoneRuns s c bound a) →
      ∃ t, exec (.fenceComplete c.who) s = .next t ∧ WaitOver s c t (sameS c) c.sp.mon) ∧
    (∀ p lim e, c.sp.wait = .waitj p lim → c.gr.join? c.who.si = some e → WaitsAt c.gr e c.who.si → ∃ t co' g' x',
      exec (.waitjTimeout c.who) s = .next t ∧ SameModule s { t with after := s.after } ∧ t.after = max s.after (lim + 1) ∧ OnlyCohort s t c.who.co co' ∧ OnlyGroup c co' g' ∧ OnlyFlow c g' ∧
      g'.splits[c.who.si]? = some x' ∧ SameLanes c.sp x' ∧ At x' (c.sp.pc + 4) ∧ x'.wait = .none ∧ t.time = max s.time lim ∧
      Regs g' (sameV c) (sameS c) (prdTo c c.sp.mask p.toNat fun _ => false) ∧
      g'.stack = c.gr.stack.replace e { e with arr := e.arr &&& ~~~c.sp.mask } ∧ ∀ j, j ≠ c.who.si → g'.splits[j]? = c.gr.splits[j]?)) ∧
  (∀ (s : State) (c : Ctx), Here s c → c.sp.boosted = false →
    (256 ≤ s.starved c.who → ∃ t g' x', exec (.splitBoost c.who) s = .next t ∧ InGroup s c t g' x' ∧ Regs g' (sameV c) (sameS c) (sameP c) ∧
      x' = { c.sp with boosted := true } ∧ t.time = s.time) ∧
    (s.starved c.who < 256 → exec (.splitBoost c.who) s = .next s)) ∧
  ∀ (s : State) (c : Ctx), Here s c →
    (s.stopped c.co = false → s.time < c.sp.pauseEnd → exec (.yieldPauseEnd c.who) s = .next { s with time := c.sp.pauseEnd, stalled := [] }) ∧
    (s.stopped c.co = true ∨ c.sp.pauseEnd ≤ s.time → exec (.yieldPauseEnd c.who) s = .next s)

/-- 13 R197, R198, R208, R211, 15 R226: a request whose sequence is next is performed once, and its result kept; one performed
before, or ahead of its turn, changes no memory; a retry changes nothing; a cluster atomic unit reads and stores in its cluster
cache; a ticket is granted, the operation performed and its value returned; an epoch ends when every live split waits; an
ordered operation that is due is applied. -/
def Obligations.HomeOperations : Prop :=
  (∀ (s : State) (q : SliceReq), s.canonical = true → TrackOff s q.vd →
    let r := s.sliceRec (sliceOf q.key) q.src
    let n := BitVec.ofNat 32 q.seq
    (∀ bs, q.op = .write bs → n = r.last + 1 → r.early = [] → ∃ t, exec (.homeSliceRequest q) s = .next t ∧
      (t.sliceRec (sliceOf q.key) q.src).last = n ∧ (∀ j b, bs[j]? = some b → Memory.read t.mem (q.key + j) = b) ∧
      ∀ a, a < q.key ∨ q.key + bs.length ≤ a → Memory.read t.mem a = Memory.read s.mem a) ∧
    (∀ d x, q.op = .atom 0 d x → n = r.last + 1 → r.early = [] → ∃ t, exec (.homeSliceRequest q) s = .next t ∧
      Stored s t q.key 4 (sum32 (homeNum s q.key 4) d) ∧
      (t.sliceRec (sliceOf q.key) q.src).last = n ∧ (t.sliceRec (sliceOf q.key) q.src).results.head? = some (n, homeNum s q.key 4)) ∧
    (n ≠ r.last + 1 → (∃ p ∈ r.results, p.1 = n) → exec (.homeSliceRequest q) s = .next { s with stalled := [] }) ∧
    (n ≠ r.last + 1 → (∀ p ∈ r.results, p.1 ≠ n) → (n - r.last).toNat ≤ 16 → ∃ t, exec (.homeSliceRequest q) s = .next t ∧ t.mem = s.mem ∧
      (t.sliceRec (sliceOf q.key) q.src).last = r.last ∧ q ∈ (t.sliceRec (sliceOf q.key) q.src).early)) ∧
  (∀ (s : State) (src seq : Nat), (∀ r ∈ s.slices, ∀ q ∈ r.early, q ∈ (s.sliceRec (sliceOf q.key) q.src).early ∧
      BitVec.ofNat 32 q.seq ≠ (s.sliceRec (sliceOf q.key) q.src).last + 1) → exec (.requestRetry src seq) s = .next s) ∧
  (∀ (s : State) (k : Nat) (q : AtomReq), s.canonical = true → q.op = 0 → q.key % 4 = 0 → ((s.cluster k).lines.map fun x => x.key).Nodup →
    (∀ x ∈ (s.cluster k).lines, Sparse.rises 0 x.bytes = true) → ((s.cluster k).line? (q.key / 128)).isSome = true →
    let old := numOf (fun j => s.laneByte (some k) (q.key + j)) 4
    ∃ t, exec (.clusterAtomicApply k q) s = .next t ∧ t.mem = s.mem ∧
      numOf (fun j => t.laneByte (some k) (q.key + j)) 4 = sum32 old q.d ∧
      (∀ a, a < q.key ∨ q.key + 4 ≤ a → t.laneByte (some k) a = s.laneByte (some k) a) ∧ ∀ j, j ≠ k → t.cluster j = s.cluster j) ∧
  (∀ (s : State) (c : Ctx) (o : ScOp) (rest : List ScOp) (v : Window), Here s c → s.canonical = true → NoLines s c → s.sc = o :: rest → o.who = c.who →
    o.op = 14 → TrackOff s o.vd → (∀ l, o.launch.bind s.launch? = some l → bit l.hdr 6 = false) → bits (s.reg 0x0008) 16 15 = bits (s.reg 0x0008) 0 15 →
    s.noRoute o.key = false → s.kindOn o.die 3 = false → TurnOf s o.key o.src → HasWindow c v → v.ord = o.ord → v.ready = false → v.vals = [] →
    (∀ p ∈ rest, p.who = c.who → p.ord ≠ o.ord) →
    ∃ t co' g' x' v', exec (.scTicketGrant o.sys) s = .next t ∧ t.sc = rest ∧ (t.ticketDev = if o.sys then s.ticketDev else s.ticketDev + 1) ∧
      (t.ticketSys = if o.sys then s.ticketSys + 1 else s.ticketSys) ∧
      Stored s t o.key 4 (sum32 (homeNum s o.key 4) o.d) ∧ Stands t c.who co' g' x' ∧ HasWindow { c with sp := x' } v' ∧
      v'.ord = o.ord ∧ v'.ready = true ∧ v'.vals = [(32 * o.dst.toNat + o.lane, (homeNum s o.key 4).setWidth 32)]) ∧
  (∀ (s : State) (c : Cohort), s.cohort? c.id = some c → c.isHF = false → c.kind = .cut → bit c.hdr 5 = true →
    (∃ o ∈ s.ords, o.who.co = c.id ∧ o.e = c.epoch ∧ atomReturns o.op = true) → (∀ o ∈ s.ords, o.who.co = c.id → c.epoch ≤ o.e) →
    (∀ g ∈ c.groups, ∀ x ∈ g.splits, x.live = true → x.wait = .barc ∨ x.wait = .join ∨ (∃ a b, x.wait = .barp a b) ∨ (∃ a b, x.wait = .waitj a b) ∨
      ∃ a b d, x.wait = .waitc a b d) →
    ∃ t co', exec (.epochEnd c.id) s = .next t ∧ { t with cohorts := s.cohorts } = s ∧ OnlyCohort s t c.id co' ∧ co' = { c with epoch := c.epoch + 1 }) ∧
  ∀ (s : State) (o : OrdOp), s.canonical = true → s.ords = [o] → s.cohort? o.who.co = none → o.op = 9 → TrackOff s o.vd → s.noRoute o.key = false → s.kindOn o.die 4 = false →
    (∀ c ∈ s.cohorts, c.launch = some o.launch → c.kind = .cut → c.status = .held ∨ o.k ≤ c.cseq) →
    (∀ l sh, s.launch? o.launch = some l → l.share? o.die = some sh → o.k < sh.cseq ∧ ∀ p ∈ sh.waiting, o.k ≤ p.1) → TurnOf s o.key o.src →
    ∃ t, exec (.orderedApply o.launch) s = .next t ∧ t.ords = [] ∧
      Stored s t o.key 4 (sum32 (homeNum s o.key 4) o.d)

/-- 13 R182, R185, R192 to R194, 25 R342: a line's dirty bytes go home and stay clean; a bank enters its new mode, with every granule
free, its FIFO empty and unclaimed, and
BUSY clears with the last change; a walk's translation is kept and a walk that faults keeps nothing; a write of GO asks for an
invalidation, which drops the entries it covers and no other, puts a device's root in force and clears GO. That the root in force is
VDROOT's at the completion, and which bits of INVLEN count, is the model's choice (log entry 132). -/
def Obligations.CacheAndTranslation : Prop :=
  (∀ (s : State) (k n : Nat) (l : Line), s.canonical = true → (s.cluster k).line? n = some l → Sparse.rises 0 l.bytes = true →
    ((s.cluster k).lines.map fun x => x.key).Nodup → (∀ p ∈ l.bytes, p.1 < 128 ∧ ∀ b v, p.2 = some b → b.dirty = some v → TrackOff s v) →
    (∃ p ∈ l.bytes, ∃ b v, p.2 = some b ∧ b.dirty = some v) → s.noRoute (128 * n) = false →
    ∃ t, exec (.dirtyWritebackDeadline k n) s = .next t ∧
      (∀ a, Memory.read t.mem a = match (if a / 128 = n then s.cached? k a else none).bind fun b => b.dirty.map fun _ => b.v with
        | some v => v
        | none => Memory.read s.mem a) ∧
      (∀ a, t.laneByte (some k) a = s.laneByte (some k) a) ∧ ∀ a b, a / 128 = n → t.cached? k a = some b → b.dirty = none) ∧
  (∀ (s : State) (k bank code : Nat), s.canonical = true → k < 64 → bank < 64 → code < 3 → ((s.cluster k).change.find? fun p => p.1 == bank) = some (bank, code) →
    Sparse.rises 0 (s.cluster k).grans = true → Sparse.rises 0 (s.cluster k).fifo = true → (s.bankMode k bank = 0 → s.unbacked k = false) →
    ∃ t, exec (.bankModeChangeDone k bank) s = .next t ∧ Sparse.get 0 (t.cluster k).grans bank = 0 ∧ t.fifo k bank = {} ∧ t.bankMode k bank = code ∧
      (∀ b, b < 64 → b ≠ bank → t.bankMode k b = s.bankMode k b) ∧
      (t.cluster k).change = (s.cluster k).change.filter (fun p => p.1 != bank) ∧
      ((∀ p ∈ (s.cluster k).change, p.1 = bank) → (t.reg (cluReg k 0x0010)).getLsbD 1 = false)) ∧
  (∀ (s : State) (k va : Nat) (r : Root), k < 64 → va < 2 ^ 56 → s.canonical = true →
    (∀ p, s.xlate (s.cluster k).tlb r va .read false = .ok p → ∃ t, exec (.pageWalk k r va) s = .next t ∧ t.mem = s.mem ∧
      (∃ e ∈ (t.cluster k).tlb, e.root = r ∧ e.base = p.base ∧ e.size = p.size) ∧
      ((s.cluster k).tlb.length ≤ 4096 → (t.cluster k).tlb.length ≤ 4096)) ∧
    ∀ e, s.xlate (s.cluster k).tlb r va .read false = .error e → exec (.pageWalk k r va) s = .next s) ∧
  (∀ (s : State) (v : BitVec 64), s.canonical = true → v.getLsbD 63 = true →
    ∃ t, exec (.translationInvalidate v) s = .next t ∧ { t with regs := s.regs } = s ∧ t.reg 0x0C18 = 0x8000000000000000#64 ∧
      ∀ o, o ≠ 0x0C18 → t.reg o = s.reg o) ∧
  ∀ (s : State), s.canonical = true → Sparse.rises 0 s.roots = true → (s.reg 0x0C18).getLsbD 63 = true → s.sc = [] → s.ords = [] →
    (∀ k, k < 64 → s.unbacked k = false) → ∃ t, exec .invalidationComplete s = .next t ∧ t.reg 0x0C18 = 0 ∧ (∀ o, o ≠ 0x0C18 → t.reg o = s.reg o) ∧
      (∀ k, k < 64 → ∀ e, e ∈ (t.cluster k).tlb ↔ (e ∈ (s.cluster k).tlb ∧ ¬ Dropped s e)) ∧
      ∀ n, bits (s.reg 0x0C00) 0 5 = n → n < 16 → Sparse.get 0 t.roots n = s.reg (0x0A00 + 16 * n)

/-- 17 R248, R252, R254 to R257: a copy writes one element not yet written, and each once; a gather commits one row, in order,
and faults on an index out of range; a matrix engine performs one row of one K-step, and changes no other accumulator element;
a collective waits for every member, faults without a link, and else writes its results. -/
def Obligations.EnginesRun : Prop :=
  (∀ (s : State) (m : Cmd) (c : Cohort), CmdOf s m c → m.eng = .copy →
    (Desc.count m.td ≤ m.prog.toNat → exec (.copyEngineRun m.id) s =
      .next { s with cmds := s.cmds.map fun k => if k.id = m.id then { k with done := true } else k }) ∧
    (m.prog.toNat < Desc.count m.td → Desc.loc m.td ≠ 2 → m.fn = 1 ∨ Desc.loc m.ts ≠ 2 → Desc.count m.td < 2 ^ 48 → m.ahead.Nodup →
      (∀ i ∈ m.ahead, m.prog.toNat < i ∧ i < Desc.count m.td) →
      let s0 : State := { s with free := s.free + 1 }
      let kept (i : Nat) : State := if m.fn = 1 then s0 else s0.keepElem m m.ts (Desc.fmt m.td != Desc.fmt m.ts) (Desc.index m.td i)
      (∀ i, i < Desc.count m.td → ∃ x s1, s0.copySource m i 1 = some (.ok [x]) ∧ (kept i).putElem m m.td (Desc.index m.td i) x = .ok s1) →
      ∃ t j x s1 m', exec (.copyEngineRun m.id) s = .next t ∧ j < Desc.count m.td ∧ ¬ WrittenIn m j ∧ s0.copySource m j 1 = some (.ok [x]) ∧
        (kept j).putElem m m.td (Desc.index m.td j) x = .ok s1 ∧ t.mem = s1.mem ∧ t.cohorts = s1.cohorts ∧ t.cmd? m.id = some m' ∧
        (∀ i, WrittenIn m' i ↔ WrittenIn m i ∨ i = j) ∧ (m'.done = true ↔ m'.prog.toNat = Desc.count m.td))) ∧
  (∀ (s : State) (m : Cmd) (c : Cohort), CmdOf s m c → m.eng = .gather →
    (Desc.ext m.tx 0 ≤ m.prog.toNat → exec (.gatherUnitRun m.id) s =
      .next { s with cmds := s.cmds.map fun k => if k.id = m.id then { k with done := true } else k }) ∧
    (∀ idx, m.prog.toNat < Desc.ext m.tx 0 → s.elemRaw m m.tx [m.prog.toNat] = .ok idx → (if m.fn = 0 then Desc.ext m.ts 1 else Desc.ext m.td 1) ≤ idx →
      ∃ t, exec (.gatherUnitRun m.id) s = .next t ∧ CmdFaulted s m c t (ENGINE_FAULT, 0)) ∧
    ∀ idx src dst, m.prog.toNat < Desc.ext m.tx 0 → s.elemRaw m m.tx [m.prog.toNat] = .ok idx → m.fn = 0 → idx < Desc.ext m.ts 1 →
      Desc.fmt m.td = 8 → Desc.fmt m.ts = 8 → Desc.loc m.td = 1 → Desc.loc m.ts = 1 → Desc.ext m.td 0 = 1 → Desc.ext m.ts 0 = 1 →
      m.prog.toNat < Desc.ext m.td 1 → Sparse.rises 0 c.scratch = true →
      (Desc.base m.ts + 4 * idx * Desc.str m.ts 1 : Int) = (src : Nat) → (Desc.base m.td + 4 * m.prog.toNat * Desc.str m.td 1 : Int) = (dst : Nat) →
      src + 4 ≤ c.z → dst + 4 ≤ c.z →
      ∃ t co', exec (.gatherUnitRun m.id) s = .next t ∧ t.mem = s.mem ∧ OnlyCohort s t c.id co' ∧ barWord co' dst = barWord c src ∧
        (∀ b, b < dst ∨ dst + 4 ≤ b → Sparse.get 0 co'.scratch b = Sparse.get 0 c.scratch b) ∧
        OnlyCmd s t m { m with prog := BitVec.ofNat 48 (m.prog.toNat + 1), done := decide (m.prog.toNat + 1 = Desc.ext m.tx 0) }) ∧
  (∀ (s : State) (m : Cmd) (c : Cohort) (rest : List Cmd) (kappa : Nat) (int : Bool) (xs : List Word), CmdOf s m c → s.cmds = m :: rest →
    (∀ k ∈ rest, k.id ≠ m.id) → m.eng = .matrix → m.fn = 0 → m.grp = [(0, 64, 0)] → Desc.loc m.td ≠ 2 → Desc.loc m.ts ≠ 2 →
    rowOf 0 m.td m.ts = some (kappa, int) → Sparse.rises 0 c.accE = true →
    let step := bits m.prog 0 16
    let i := bits m.prog 16 6
    let steps := bits m.p0 0 16
    step < steps → (bit m.p0 16 = false ∨ step ≠ 0 ∨ i ≠ 0) →
    (List.range 64).mapM (fun j => s.stepElem m kappa int [] [] step i j none (c.accElem m.acc i j)) = .ok xs →
    ∃ t co', exec (.matrixEngineRun (s.engCell c)) s = .next t ∧ t.mem = s.mem ∧ OnlyCohort s t c.id co' ∧ { co' with accE := c.accE } = c ∧
      (∀ j, j < 64 → some (co'.accElem m.acc i j) = xs[j]?) ∧
      (∀ n r j, r < 64 → j < 64 → n ≠ m.acc ∨ r ≠ i → co'.accElem n r j = c.accElem n r j) ∧
      OnlyCmd s t m (if i + 1 < 64 then { m with prog := BitVec.ofNat 48 (step + (i + 1) * 2 ^ 16) }
        else if step + 1 < steps then { m with prog := BitVec.ofNat 48 (step + 1) } else { m with done := true })) ∧
  ∀ (s : State) (m : Cmd) (c : Cohort) (peers : List Peer) (x : Nat), CmdOf s m c → m.eng = .coll → s.cmdRead m m.gdesc.toNat 4 = .ok x →
    let np := x % 2 ^ 16
    let rank := x / 2 ^ 16 % 2 ^ 16
    ((∀ p, p < 18 → (s.reg (0x0D00 + 8 * p)).getLsbD 0 = false) →
      ∃ t, exec (.collectiveEngineRun m.id peers) s = .next t ∧ CmdFaulted s m c t (ECC_UNCORRECTED, 0)) ∧
    ((∃ p, p < 18 ∧ (s.reg (0x0D00 + 8 * p)).getLsbD 0 = true) →
      ((∃ r, r < np ∧ r ≠ rank ∧ ∀ p ∈ peers, p.rank ≠ r) → exec (.collectiveEngineRun m.id peers) s = .next s) ∧
      ((∀ r, r < np → r ≠ rank → ∃ p ∈ peers, p.rank = r) → (∃ p ∈ peers, p.rank ≠ rank ∧ (p.fn ≠ m.fn ∨ p.opt ≠ m.p1)) →
        ∃ t, exec (.collectiveEngineRun m.id peers) s = .next t ∧ CmdFaulted s m c t (ENGINE_FAULT, 0)) ∧
      ((∀ r, r < np → r ≠ rank → ∃ p ∈ peers, p.rank = r) → (∀ p ∈ peers, p.rank ≠ rank → peerMatches m p = true) → m.fn ≠ 3 →
        let kept : State := (List.range (Desc.count m.ts)).foldl (fun (u : State) k =>
          u.keepElem m m.ts (Desc.fmt m.ts != Desc.fmt m.td || Desc.scm m.ts != 0) (Desc.index m.ts k)) (s.cmdKeep m m.gdesc.toNat)
        ∀ own s1, s.collData m = .ok own →
        (List.range (Desc.count m.td)).foldlM (fun (u : State) k => u.putElem m m.td (Desc.index m.td k) (collResult m.fn m.td m.ts m.p1 rank
          ((List.range np).map fun r => if r = rank then own else ((peers.find? fun p => p.rank == r).map fun p => p.data.map BitVec.toNat).getD [])
          (Desc.index m.td k))) kept = .ok s1 →
        ∃ t, exec (.collectiveEngineRun m.id peers) s = .next t ∧ t.mem = s1.mem ∧ OnlyCmd s1 t m { m with prog := BitVec.ofNat 48 np, done := true }))

/-- 07 R122, 17 R239, R243, R261: a command whose work is done goes; its record's SEQ rises by 1; it arrives at its barrier word
as a split does. The handles of the one request of a cell are granted when enough are free, each in its initial state. -/
def Obligations.CompletionAndGrant : Prop :=
  (∀ (s : State) (m : Cmd) (c : Cohort), s.cmd? m.id = some m → m.stopped = false → m.done = true → m.co = some c.id → s.cohort? c.id = some c →
    c.status = .resident → m.node = none → s.waits = [] → s.canonical = true → m.root = .hf →
    let sync : Bool := if m.eng = .matrix then bit m.p0 17 else bit m.p0 18
    (sync = false → m.crec = 0 → ∃ t, exec (.commandComplete m.id) s = .next t ∧ t.mem = s.mem ∧ t.cohorts = s.cohorts ∧
      t.cmds = s.cmds.filter fun k => k.id != m.id) ∧
    (∀ k, sync = false → m.crec ≠ 0 → s.agentXlate m.root m.crec.toNat .write = .ok k → ∃ t, exec (.commandComplete m.id) s = .next t ∧
      Put s t k 8 ((s.homeRead k 8 + 1) % 2 ^ 64) ∧ t.cmds = s.cmds.filter fun k => k.id != m.id) ∧
    (∀ r, sync = true → m.crec = 0 → c.isHF = true ∨ (∀ k, s.clusterOf c = some k → (s.cluster k).lines = []) → Sparse.rises 0 c.scratch = true →
      let off := 4 * bits m.p0 20 12
      let q : Nat := if m.eng = .matrix then bits m.p0 18 1 else bits m.p0 19 1
      arriveSpec (barWord c off) q = some r → ∃ t co', exec (.commandComplete m.id) s = .next t ∧ t.mem = s.mem ∧ OnlyCohort s t c.id co' ∧
        (let w' := barWord co' off
         w'.toNat / 2 ^ 31 = r.2.2.1 ∧ w'.toNat / 2 ^ 20 % 2 ^ 10 = (barWord c off).toNat / 2 ^ 20 % 2 ^ 10 ∧ w'.toNat % 2 ^ 10 = r.2.2.2 0 ∧
         w'.toNat / 2 ^ 10 % 2 ^ 10 = r.2.2.2 1) ∧
        (∀ b, b < off ∨ off + 4 ≤ b → Sparse.get 0 co'.scratch b = Sparse.get 0 c.scratch b) ∧ t.cmds = s.cmds.filter fun k => k.id != m.id)) ∧
  ∀ (s : State) (c : Ctx) (n k : Nat), Here s c → c.co.status = .resident → s.cohorts.filter (fun d => s.engCell d == s.engCell c.co) = [c.co] →
    c.gr.tidy = true → c.sp.wait = .aalloc n k → 1 ≤ k → n + k ≤ 32 → (∀ i, n ≤ i → i < n + k → c.co.aheld.getLsbD i = false) →
    (ones c.co.aheld).length + k ≤ 32 →
    (∀ gi g si x, c.co.groups[gi]? = some g → g.splits[si]? = some x → x.live = true → (∃ a b, x.wait = .aalloc a b) → gi = c.who.gi ∧ si = c.who.si) →
    ∃ t co' g' x', exec (.accumulatorGrant (s.engCell c.co)) s = .next t ∧ SameModule s t ∧ OnlyCohort s t c.who.co co' ∧ Stands t c.who co' g' x' ∧
      Regs g' (sameV c) (sameS c) (sameP c) ∧ Moved c.sp x' ∧ x'.wait = .none ∧
      (∀ i, i < 32 → (co'.aheld.getLsbD i = true ↔ c.co.aheld.getLsbD i = true ∨ (n ≤ i ∧ i < n + k))) ∧
      ∀ i r j, n ≤ i → i < n + k → r < 64 → j < 64 → co'.accElem i r j = 0 ∧ co'.accSideM i r = 0xFF800000#32 ∧ co'.accSideL i r = 0

/-- 01 R18, 07 R98, R104, 17 R260, 19 R274: a walker reads the entry that WALK names and sets WALK to its NEXT; the walker of
a chain whose WALK is 0 is the hub for an enabled slot that names it (the lowest of several, the model's choice: log entry 75), else a
Faceter; a node whose PRED is 0 starts,
with STARTED written, and a launch node takes the next launch number; a launch whose parts have ended has its node's result;
a node whose turn it is publishes its record; a device-side launch is accepted. That a launch runs by the header as it is read when its
node starts is the model's reading (log entry 76). -/
def Obligations.ChainsGoOn : Prop :=
  (∀ (s : State) (k kc : Nat) (c : Chain), s.canonical = true → ChainAt s k c → s.agentXlate c.root c.ccb.toNat .write = .ok kc →
    let e := s.homeRead (kc + 32) 7
    (e = 0 → exec (.chainEntryRead k) s = .next s) ∧
    ∀ ke, e ≠ 0 → s.agentXlate c.root e .read = .ok ke →
      let x : BitVec 512 := BitVec.ofNat 512 (s.homeRead ke 64)
      ∃ t : State, exec (.chainEntryRead k) s = .next t ∧ Put s t (kc + 32) 7 (bits x 64 56) ∧ (x.getLsbD 16 = true → t.nodes = s.nodes) ∧
        (x.getLsbD 16 = false → ∃ y : Node, t.nodes = s.nodes ++ [y] ∧ y.chain = k ∧ y.addr.toNat = e ∧ y.entry = x ∧ y.started = false ∧ y.published = false ∧
          (4 < bits x 0 4 ∨ 4 < bits x 4 3 → y.result = some (1, 0, 0)) ∧ (bits x 0 4 = 0 → entBad x = false → y.result = none) ∧
          (bits x 0 4 = 1 → entBad x = false → bits x 192 56 % 128 ≠ 0 → y.result = some (1, ALIGNMENT, 0)) ∧
          ∀ h, bits x 0 4 = 1 → entBad x = false → bits x 192 56 % 128 = 0 → s.header c.root (bits x 192 56) = .ok h →
            y.result = if headerOk h then none else some (1, 0, 0))) ∧
  (∀ (s : State) (k kc : Nat) (c : Chain), s.chains[k]? = some c → s.agentXlate c.root c.ccb.toNat .read = .ok kc →
    (s.homeRead (kc + 32) 7 ≠ 0 → exec (.walkerHandover k) s = .next s) ∧
    (s.homeRead (kc + 32) 7 = 0 → (∀ f j, f < 17 → j < 16 → ¬ SlotNames s f j kc) →
      exec (.walkerHandover k) s = .next { s with chains := s.chains.set k { c with slot := none } }) ∧
    ∀ f j, s.homeRead (kc + 32) 7 = 0 → f < 17 → j < 16 → SlotNames s f j kc → (∀ g i, i < 16 → 16 * g + i < 16 * f + j → ¬ SlotNames s g i kc) →
      let y : Chain := { ccb := (s.reg (fnReg f (0x100 + 16 * j))).extractLsb' 0 56, root := (if f = 0 then .hf else .vd (f - 1)), slot := some (f, j) }
      exec (.walkerHandover k) s = .next { s with chains := s.chains.set k y }) ∧
  (∀ (s : State) (n key : Nat) (x : Node) (c : Chain), s.canonical = true → NodeAt s n x c → x.started = false → x.result = none →
    s.agentXlate c.root x.addr.toNat .write = .ok key →
    (s.homeRead (key + 1) 1 ≠ 0 → exec (.nodeStart n) s = .next s) ∧
    (s.homeRead (key + 1) 1 = 0 → bits x.entry 0 4 = 0 → ∃ t : State, exec (.nodeStart n) s = .next t ∧ Put s t (key + 2) 1 1 ∧
      t.nodes[n]? = some { x with started := true, result := some (0, 0, 0) }) ∧
    (∀ h, s.homeRead (key + 1) 1 = 0 → bits x.entry 0 4 = 1 → bits x.entry 192 56 % 128 = 0 → s.header c.root (bits x.entry 192 56) = .ok h →
      headerOk h = true → bit h 11 = false → bit h 6 = false → bit h 5 = false → (∀ i, i < 4 → (s.reg (0x0610 + 32 * i)).getLsbD 0 = false) →
      ∃ (t : State) (l : Launch), exec (.nodeStart n) s = .next t ∧ Put s t (key + 2) 1 1 ∧ t.nodes[n]? = some { x with started := true } ∧
        t.launches = s.launches ++ [l] ∧ l.num = s.nextLaunch ∧ t.nextLaunch = s.nextLaunch + 1 ∧ l.hdr = h ∧ l.node = some n ∧ l.result = none ∧
        (∀ d, (∃ sh ∈ l.shares, sh.die = d) ↔ d < 4 ∧ bits h 12 4 / 2 ^ d % 2 = 1))) ∧
  (∀ (s : State) (n : Nat) (x : Node) (l : Launch) (r : Nat × Code × BitVec 48), s.nodes[n]? = some x → x.result = none →
    (s.launches.find? fun l => l.node == some n) = some l → l.result = some r → bit l.hdr 6 = false → (∀ c ∈ s.cohorts, c.launch ≠ some l.num) →
    (∀ p ∈ s.cradle, ∀ i ∈ p.2, i.launch ≠ l.num) → (∀ o ∈ s.ords, o.launch ≠ l.num) → (∀ o ∈ s.sc, o.launch ≠ some l.num) →
    (∀ m ∈ s.cmds, m.launch ≠ some l.num) →
    exec (.nodeComplete n) s = .next { s with nodes := s.nodes.modify n fun y => { y with result := some r } }) ∧
  (∀ (s : State) (n k : Nat) (x : Node) (c : Chain) (r : Nat × Code × BitVec 48), s.canonical = true → NodeAt s n x c → x.published = false →
    x.recorded = false → x.result = some r → (∀ j, (s.cluster j).lines = []) → s.agentRead c.root (c.ccb.toNat + 32) 7 = .ok 0 →
    (∀ j y, j ≠ n → s.nodes[j]? = some y → y.chain = x.chain → y.published = true ∨ bits x.entry 128 64 < bits y.entry 128 64) →
    (∀ l ∈ s.launches, l.node ≠ some n) → bits x.entry 4 3 = 0 → x.entry.getLsbD 7 = false → r.1 < 16 → r.2.1 < 256 →
    s.agentXlate c.root (c.ccb + 16).toNat .write = .ok k →
    ∃ t : State, exec (.nodePublish n) s = .next t ∧
      Put s t k 16 (bits x.entry 128 64 + (r.1 + r.2.1 * 2 ^ 8 + r.2.2.toNat * 2 ^ 16) * 2 ^ 64) ∧
      ∃ y : Node, t.nodes[n]? = some y ∧ y.published = true) ∧
  ∀ (s : State) (l : Launch) (rest : List Launch), s.offers = l :: rest → l.root = .hf → bit l.hdr 11 = false → bit l.hdr 6 = false → bit l.hdr 5 = false →
    (∀ i, i < 4 → (s.reg (0x0610 + 32 * i)).getLsbD 0 = false) →
    ∃ (t : State) (k : Launch), exec (.deviceLaunchAccept 0) s = .next t ∧ t.offers = rest ∧ t.launches = s.launches ++ [k] ∧ k.num = s.nextLaunch ∧ k.hdr = l.hdr ∧
      k.ltag.toNat = s.nextLaunch % 2 ^ 16 ∧ k.cid = some s.nextCmd ∧ t.nextCmd = s.nextCmd + 1 ∧ t.nextLaunch = s.nextLaunch + 1 ∧ t.mem = s.mem

/-- 07 R103 to R109, R113, R114, 19 R270, R286, 23 R324: a Faceter sends the first cut of its tiling to the cell it chooses,
with every register 0; it sends a task group of the first 32 items, or of those released by age; a window of W cohorts that ends keeps the
tiling where no pair of an envelope shape and an allowed order costs less, and else takes the pair of least cost, of these the larger
V(S), then the earlier order, then the lower envelope index, with its tiling of the remainder; items that have waited are released; a cut waits for granules; log entries free again end a stall;
a Winze group starts with up to 32 items, on a cell where it has a slot and the registers for it. That a task group's sequence is its
number in its launch and die (log entry 109), and that a Winze's divide items start before its base and combine items (log entry 119), is the
model's choice. -/
def Obligations.FaceterDispatches : Prop :=
  (∀ (s : State) (l : Launch) (sh : Share) (b : Box) (rest : List Box) (x : Nat), Served s l sh → sh.tiles = b :: rest → s.canonical = true →
    let c := mkCut s.nextCohort l sh b sh.cseq sh.shape.prod 1
    Chosen s (c.needs true) x → s.poolHead sh.die c.cls ≠ 0 →
    ∃ (t : State) (d : Cohort) (l' : Launch), exec (.cohortDispatch l.num sh.die) s = .next t ∧ t.cohorts = (s.cohorts.filter fun k => k.id != s.nextCohort) ++ [d] ∧ t.launches = [l'] ∧
      l'.share? sh.die = some { sh with tiles := rest, cuts := sh.cuts ++ [b], cseq := sh.cseq + 1, running := sh.running + 1 } ∧
      t.nextCohort = s.nextCohort + 1 ∧ d.id = s.nextCohort ∧ d.launch = some l.num ∧ d.kind = .cut ∧ d.lcell = x ∧ d.cseq = sh.cseq ∧ d.status = .resident ∧
      d.vol = sh.shape.prod ∧ d.scratch = [] ∧ d.tvec = 0 ∧ d.aheld = 0 ∧ d.ctx.toNat = s.poolHead sh.die c.cls ∧ d.since = s.time ∧
      t.homeRead d.ctx.toNat 1 = 1 ∧ t.homeRead (d.ctx.toNat + 1) 1 % 2 = 0 ∧ t.homeRead (d.ctx.toNat + 1) 1 / 16 = 0 ∧
      (∀ a, a < d.ctx.toNat ∨ d.ctx.toNat + 256 ≤ a → Memory.read t.mem a = Memory.read s.mem a) ∧
      ∀ g ∈ d.groups, g.v = [] ∧ g.s = [] ∧ g.p = [] ∧ g.stack = [] ∧ ∃ y : Split, g.splits[0]? = some y ∧ y.live = true ∧ y.pc.toNat = hEntry l.hdr ∧
        y.mask = g.valid) ∧
  (∀ (s : State) (l : Launch) (sh : Share), s.launch? l.num = some l → l.share? sh.die = some sh → bit l.hdr 6 = false → bit l.hdr 3 = false →
    hWin l.hdr ≤ sh.hm.length → s.kindOn sh.die 0 = false → (s.reg (dieReg sh.die 0x0428)).getLsbD 0 = false → sh.tiles ≠ [] →
    let cur := cost l sh sh.shape sh.order
    let ends (f : Share → Share) : Prop := ∃ (t : State) (l' : Launch), exec (.windowEnd l.num sh.die) s = .next t ∧ { t with launches := s.launches } = s ∧
      t.launch? l.num = some l' ∧ l'.share? sh.die = some (f { sh with hm := sh.hm.drop (hWin l.hdr), open_ := true, wave := 0 })
    (envelope l.hdr ≠ [] → hOrders l.hdr ≠ [] → (∀ e ∈ envelope l.hdr, ∀ o ∈ hOrders l.hdr, cur ≤ cost l sh e o) → ends id) ∧
    ∀ (i j : Nat) (e : List Nat) (o : Nat), (envelope l.hdr)[i]? = some e → (hOrders l.hdr)[j]? = some o → cost l sh e o < cur →
      (∀ e' ∈ envelope l.hdr, e'.prod < 2 ^ 20) →
      (∀ (i' j' : Nat) (e' : List Nat) (o' : Nat), (envelope l.hdr)[i']? = some e' → (hOrders l.hdr)[j']? = some o' →
        cost l sh e o < cost l sh e' o' ∨ (cost l sh e o = cost l sh e' o' ∧ (e'.prod < e.prod ∨ (e'.prod = e.prod ∧ (j < j' ∨ (j = j' ∧ i ≤ i')))))) →
      ends fun y => { y with shape := e, order := o, tiles := tiling l sh e o }) ∧
  (∀ (s : State) (l : Launch) (die e x : Nat) (c : Cohort), s.launch? l.num = some l → l.root = .hf → l.rerun = none → s.recovery = false → die < 4 →
    s.canonical = true → Sparse.rises 0 s.cradle = true →
    let its := s.packable die l.num e
    (32 ≤ its.length ∨ (its ≠ [] ∧ (die, l.num, e) ∈ s.aged)) → mkTask s.nextCohort l die e (its.take 32) = some c → Chosen s (c.needs true) x →
    s.poolHead die c.cls ≠ 0 →
    ∃ (t : State) (d : Cohort) (g : Group) (y : Split), exec (.taskGroupDispatch die l.num e) s = .next t ∧ t.packable die l.num e = its.drop 32 ∧ t.cohort? s.nextCohort = some d ∧ d.kind = .task ∧
      d.lcell = x ∧ d.status = .resident ∧ d.cseq = l.tasks ∧ d.groups = [g] ∧ g.v = [] ∧ g.s = [] ∧ g.p = [] ∧ g.splits[0]? = some y ∧ y.live = true ∧
      y.pc = BitVec.ofNat 56 (hEntry l.hdr + e) ∧ (∀ i, i < 32 → (has y.mask i = true ↔ i < its.length)) ∧
      ∀ i, i < 32 → i < its.length → (g.items.find? fun p => p.1 == i) = some (i, its[i]?)) ∧
  (∀ (s : State) (die l e : Nat), s.packable die l e ≠ [] → (die, l, e) ∉ s.aged →
    exec (.cradleAgeExpiry die l e) s = .next { s with time := s.time + 320, aged := s.aged ++ [(die, l, e)] }) ∧
  (∀ (s : State) (l : Launch) (sh : Share) (w : Nat × Box × Nat), s.launch? l.num = some l → l.share? sh.die = some sh → w ∈ sh.waiting →
    bit l.hdr 5 = true → sh.stopped = false → s.orderedCells l sh.die ≠ [] →
    let cells := s.orderedCells l sh.die
    let p := s.pcell (cells.getD (w.1 % cells.length) 0)
    s.occupied p = false → s.granFree (p / 8) < (hFootprint l.hdr + 4095) / 4096 →
    ∃ t : State, exec (.orderedCellWaitStall l.num sh.die) s = .next t ∧ t.signals = s.signals ++ [Signal.orderedWait l.num sh.die] ∧
      { t with signals := s.signals, time := s.time } = s ∧ t.time = s.time + 5 * 2 ^ 22) ∧
  (∀ (s : State) (die : Nat), s.canonical = true → (s.reg (dieReg die 0x0428)).getLsbD 0 = true → 0 < s.logFree die →
    ∃ t : State, exec (.faceterLogResume die) s = .next t ∧ { t with regs := s.regs } = s ∧ (t.reg (dieReg die 0x0428)).getLsbD 0 = false ∧
      ∀ o, o ≠ dieReg die 0x0428 → t.reg o = s.reg o) ∧
  ∀ (s : State) (c : Cohort) (w : WinzeRun) (items : List (Nat × Nat)), s.cohort? c.id = some c → c.run = some w → items = (w.ready 0).take 32 → items ≠ [] →
    c.status = .resident → s.stopped c = false → (∀ g ∈ c.groups, g.halt = false) → ((c.groups.drop c.ngroups).filter fun g => !g.fin).length < w.gw →
    (c.isHF = true ∨ ((s.cellGroups (s.pcell c.lcell)).length < 48 ∧ ((s.cellGroups (s.pcell c.lcell)).map fun g => g.budget).sum + c.rb ≤ 512)) →
    ∃ (t : State) (d : Cohort) (g : Group) (y : Split) (w' : WinzeRun), exec (.winzeGroupStart c.id) s = .next t ∧ t.cohort? c.id = some d ∧ d.run = some w' ∧
      ((d.groups = c.groups ++ [g] ∧ ∀ h ∈ c.groups.drop c.ngroups, h.fin = false) ∨
        ∃ p h, c.ngroups ≤ p ∧ c.groups[p]? = some h ∧ h.fin = true ∧ d.groups = c.groups.set p g) ∧ g.fin = false ∧ g.splits[0]? = some y ∧
      y.live = true ∧ y.pc = BitVec.ofNat 56 (c.kb + w.div % 2 ^ 32) ∧ (∀ i, i < 32 → (has y.mask i = true ↔ i < items.length)) ∧
      (∀ i f k, items[i]? = some (f, k) → (g.wz.find? fun p => p.1 == i) = some (i, some { rout := 0, frame := f, kid := k })) ∧ t.mem = s.mem

/-- 07 R117, R118, R120, R121: the latency level of a cell from its last 4,096 cycles; a die's temperatures; the end of a
quantum saves the cell's cohort for a launch with another configuration, which the cell loads once every one is saved and whose cohorts it
takes first; a hot cell and the coolest
exchange places. That TSTAT names the lowest of equally hot cells is the model's choice (log entry 74), and that a quantum which has
ended is looked at whenever such a launch has come (log entry 73). -/
def Obligations.CellsAdapt : Prop :=
  (∀ (s : State) (k : Nat), s.canonical = true →
    let x := s.cell k
    let rests : Prop := x.h = 0 ∧ x.m = 0 ∧ x.lls = 0 ∧ ∀ p ∈ x.hist, p = (0, 0)
    let now := max s.time (x.llsAt + 256)
    let n := (now - x.llsAt) / 256
    let hist := (List.replicate (n - 1) (0, 0) ++ (x.h, x.m) :: x.hist).take 16
    let h := (hist.map Prod.fst).sum
    let m := (hist.map Prod.snd).sum
    (rests → exec (.llsUpdate k) s = .next s) ∧
    (¬ rests → ∃ t, exec (.llsUpdate k) s = .next t ∧ { t with cells := s.cells, time := s.time, stalled := s.stalled } = s ∧ t.time = now ∧
      (∀ j, j ≠ k → t.cell j = s.cell j) ∧
      t.cell k = { x with h := 0, m := 0, hist := hist, llsAt := x.llsAt + 256 * n, lls := if m = 0 then 0 else min 4 (1024 * h / m / 128) })) ∧
  (∀ (s : State) (die : Nat) (temps : List Nat), s.canonical = true → die < 4 → temps.length = 128 → (∀ x ∈ temps, x < 4096) →
    ∃ t b, exec (.temperatureCheck die temps) s = .next t ∧ t.mem = s.mem ∧ t.cohorts = s.cohorts ∧
      (∀ (i x : Nat), temps[i]? = some x → (t.cell (128 * die + i)).temp = x) ∧ b < 128 ∧ (∀ (i x : Nat), temps[i]? = some x → x ≤ temps.getD b 0) ∧
      (∀ i, i < b → temps.getD i 0 < temps.getD b 0) ∧ t.reg (dieReg die 0x0370) = BitVec.ofNat 64 (b + temps.getD b 0 * 2 ^ 16) ∧
      ∀ (i x : Nat), temps[i]? = some x → (128 * die + i ∈ t.hot ↔ bits (s.reg (dieReg die 0x0368)) 0 12 < x)) ∧
  (∀ (s : State) (k : Nat) (l : Launch) (c : Cohort), s.canonical = true → Light s c → s.residents k = [c] → c.status = .resident → (s.cell k).qlen ≠ 0 →
    (s.cell k).switch = none → s.launch? l.num = some l → l.result = none → (s.reg (cluReg (k / 8) 0x0488)).getLsbD 0 = false → s.successor k = some l → s.kindOn (k / 128) 2 = false → (s.cell k).cfg ≠ none →
    ((s.cell k).cfg.any fun g => g.same (configOf l.root l.hdr)) = false →
    ∃ t d f, exec (.quantumEnd k) s = .next t ∧ t.cohort? c.id = some d ∧ d.status = .saved 2 none ∧
      s.time ≤ t.time ∧ (s.cell k).quantum + 2500 * (s.cell k).qlen ≤ t.time ∧ (t.cell k).cfg = some f ∧ f.same (configOf l.root l.hdr) = true ∧ (t.cell k).due = true ∧
      t.signals = s.signals ++ [Signal.configuration k]) ∧
  (∀ (s : State) (k : Nat) (l : Launch), s.canonical = true → (s.cell k).switch = some l.num →
    (s.residents k ≠ [] → exec (.quantumEnd k) s = .next s ∧ ∀ n x, s.pcell x = k → s.eligible n x = false) ∧
    (s.residents k = [] → s.launch? l.num = some l → l.result = none → ∃ t f, exec (.quantumEnd k) s = .next t ∧ (t.cell k).switch = none ∧
      (t.cell k).cfg = some f ∧ f.same (configOf l.root l.hdr) = true ∧ (t.cell k).due = true)) ∧
  ∀ (s : State) (hot y : Nat), s.lmap.Nodup → s.kindOn (hot / 128) 2 = false → (∀ c ∈ s.cohorts, c.status ≠ .held) → hot ∈ s.hot → hot ∈ s.lmap → s.residents hot = [] → s.coolest hot = some y → s.residents (s.pcell y) = [] →
    ∃ t, exec (.thermalMove (hot / 128) hot) s = .next t ∧ t.hot = s.hot.filter (fun c => c != hot) ∧
      (∀ x, x < s.lmap.length → s.pcell x = hot → t.pcell x = s.pcell y ∧ t.pcell y = hot) ∧
      ∀ z, z < s.lmap.length → s.pcell z ≠ hot → z ≠ y → t.pcell z = s.pcell z

/-- 21 R300, R301, R309 to R311, 25 Table 21.11: a request halts the cohorts it names, to be saved; a save writes the context
header with STOP, and the cohort is saved; a block that fails a check is refused, with CTXSTAT; a saved cohort returns with what
its block holds; a pushed page or block is the head of its list, and a bad address sets PERR. -/
def Obligations.SaveAndRestore : Prop :=
  (∀ (s : State) (die : Nat) (v : BitVec 64), s.canonical = true → (s.reg (dieReg die 0x0338)).getLsbD 63 = false → v.getLsbD 63 = true → bits v 56 2 = 2 →
    ∃ t, exec (.preemptRequest die v) s = .next t ∧ t.mem = s.mem ∧ t.reg (dieReg die 0x0338) = v &&& 0x83FFFFFFFFFFFFFF#64 ∧
      ∀ c ∈ s.cohorts, (∀ d ∈ s.cohorts, d.id = c.id → d = c) → c.isHF = false → c.die = die → c.status = .resident → c.kind = .task ∨ bit c.hdr 3 = false →
        ∃ d, t.cohort? c.id = some d ∧ d.status = .saving 1 none ∧ ∀ g ∈ d.groups, g.halt = true) ∧
  (∀ (s : State) (c : Cohort) (stop : Nat) (esc : Option Nat), s.canonical = true → Light s c → c.status = .saving stop esc → stop < 16 →
    ∃ t d, exec (.cohortSave c.id) s = .next t ∧ t.cohort? c.id = some d ∧ d.status = .saved stop esc ∧ d.grans = [] ∧
      (let h := t.homeRead c.ctx.toNat 256
       h % 2 ^ 8 = 1 ∧ h / 2 ^ 8 % 2 = 1 ∧ h / 2 ^ 12 % 2 ^ 4 = stop ∧ h / 2 ^ 608 % 2 ^ 32 = c.aheld.toNat ∧ h / 2 ^ 640 % 2 ^ 32 = c.tvec.toNat ∧
       h / 2 ^ 160 % 2 ^ 64 = c.cseq % 2 ^ 64 ∧ h / 2 ^ 226 % 2 ^ 10 = c.lcell % 2 ^ 10)) ∧
  (∀ (s : State) (c : Cohort) (n : Nat), s.canonical = true → Light s c → c.status = .saved n none → n ≠ 5 → s.homeRead c.ctx.toNat 1 ≠ 1 → s.outcomeOf c ≠ 3 → c.die < 4 →
    ∃ t, exec (.cohortRestore c.id) s = .next t ∧ t.signals = s.signals ++ [Signal.restoreRefused c.ctx] ∧ t.cohorts.map Cohort.id = s.cohorts.map Cohort.id ∧
      bits (t.reg (dieReg c.die 0x0340)) 0 56 = c.ctx.toNat ∧ (t.reg (dieReg c.die 0x0340)).getLsbD 63 = true) ∧
  (∀ (s : State) (c : Cohort) (n : Nat), s.canonical = true → Light s c → c.status = .saved n none → n ≠ 5 → s.refused c = false → s.outcomeOf c ≠ 3 → s.mayRestore c = true →
    (s.reg (dieReg c.die 0x0428)).getLsbD 0 = false → c.alog = [] →
    (∀ g ∈ (s.cohortAt c).groups, g.trap = none ∧ g.pend = none ∧ g.queued = [] ∧ ∀ x ∈ g.splits, x.windows = []) →
    ∃ t d, exec (.cohortRestore c.id) s = .next t ∧ t.cohort? c.id = some d ∧ d.status = .resident ∧ d.alog = [] ∧
      d.tvec = BitVec.ofNat 32 (s.homeRead (c.ctx.toNat + 80) 4) ∧ d.aheld = BitVec.ofNat 32 (s.homeRead (c.ctx.toNat + 76) 4) ∧
      ∀ i g, c.groups[i]? = some g → bits (BitVec.ofNat 8 (s.homeRead (c.ctx.toNat + c.sect 1 + 1024 * c.slotOf i g) 1)) 0 1 = 1 →
        ∃ h, d.groups[i]? = some h ∧ ∀ r, r < 64 → h.getS r = BitVec.ofNat 32 (s.homeRead (c.ctx.toNat + c.sect 1 + 1024 * c.slotOf i g + 320 + 4 * r) 4)) ∧
  ∀ (s : State) (die : Nat) (v : BitVec 64), s.canonical = true → ∀ i k, (i = Instr.extpoolPush die v ∧ k = 5) ∨ (k < 5 ∧ i = .ctxpoolPush die k v) →
    let a := bits v 0 56
    let off := dieReg die (0x0300 + 8 * k)
    (0 < a → a < 0x59_682F_0000 → a % 4096 = 0 → ∃ t, exec i s = .next t ∧ t.reg off = BitVec.ofNat 64 a ∧ Put s t a 8 (bits (s.reg off) 0 56) ∧
      ∀ o, o ≠ off → t.reg o = s.reg o) ∧
    (a = 0 ∨ 0x59_682F_0000 ≤ a ∨ a % 4096 ≠ 0 → ∃ t, exec i s = .next t ∧ t.mem = s.mem ∧ (t.reg (dieReg die 0x0340)).getLsbD 62 = true ∧
      ∀ o, o ≠ dieReg die 0x0340 → t.reg o = s.reg o)

/-- 13 R211, R357, R358, 21 R291, R295, R297, 23 R326, 25 R347: the traps and escalations that no word of the split raises: a
word that cannot be fetched; an ordered launch, and a replayed one, whose operations stall; a remote request that no port
carries; a handler that has spent its budget; state lost in a cell; and an access that a Headframe core serves. -/
def Obligations.TrapsByEvents : Prop :=
  (∀ (s : State) (c : Ctx) (e : Code), Here s c → c.sp.codes = [] → s.fetch c.co c.sp.pc = .error e →
    exec (.instructionFetchFault c.who) s = .next ({ s with focus := some c.who }.raise c 0 { code := e, addr := c.sp.pc.setWidth 64 })) ∧
  (∀ (s : State) (c : Ctx) (o : OrdOp) (l : Nat), Here s c → LowestSplit c → s.ords = [o] → o.launch = l →
    s.cohorts.filter (fun d => d.launch == some l && d.kind == .cut && d.status != .held) = [c.co] → c.co.status = .resident → s.stopped c.co = false →
    (∃ d, s.cohort? o.who.co = some d ∧ d.epoch ≤ o.e ∧ d.status ≠ .held) →
    let u := { s with time := s.time + 2 ^ 24 }
    exec (.orderStall l) s = .next { u.raise c 0 { code := ORDER_STALL, after := true, detail := BitVec.ofNat 48 c.co.cseq } with focus := s.focus }) ∧
  (∀ (s : State) (c : Ctx) (o : ScOp) (l : Launch), Here s c → LowestSplit c → s.sc = [o] → s.ords = [] → o.launch = some l.num → s.launch? l.num = some l →
    bit l.hdr 6 = true → s.mayGrant o = false → o.who.co = c.who.co → c.co.status = .resident → s.stopped c.co = false →
    let u := { s with time := s.time + 2 ^ 24 }
    exec (.replayScStall l.num) s = .next { u.raise c 0 { code := ORDER_STALL, after := true, detail := BitVec.ofNat 48 c.co.cseq } with focus := s.focus }) ∧
  (∀ (s : State) (c : Ctx) (x : ML) (l : Nat), Here s c → s.free? c.co c.gr c.sp = true → s.nextWord c = .word (wordOf (.ldg x)) → dispFits c →
    let ea := gAddr c x.bp.toNat x.o.toNat
    let m := c.part x.g.toNat
    let w := sizeBytes x.sz.toNat c.h.b8
    (∀ k, has m k = true → k < 32 → ∃ p, s.laneAccess c.co .read w (ea k) = .ok p) →
    NoLines s c → (∀ o ∈ s.sc, o.who ≠ c.who) → (∀ o ∈ s.ords, o.who ≠ c.who) → c.who ∈ s.stalled → l < 32 → has m l = true → (∃ p, s.laneAccess c.co .read w (ea l) = .ok p ∧ s.noRoute p.key = true) →
    (∀ k p, k < l → has m k = true → s.laneAccess c.co .read w (ea k) = .ok p → s.noRoute p.key = false) →
    let u := { s with time := s.time + 5 * 2 ^ 22, focus := some c.who }
    exec (.linkRequestTimeout c.who) s = .next { u.raise c (wordOf (.ldg x)) { code := ECC_UNCORRECTED, lane := some l, addr := BitVec.ofNat 64 (ea l) } with
      focus := s.focus }) ∧
  (∀ (s : State) (c : Cohort) (gi : Nat) (g : Group) (r : TrapRec), s.cohort? c.id = some c → c.groups[gi]? = some g → g.trap = some r →
    (∃ x ∈ g.splits, x.live = true ∧ x.handler = true) → c.status = .resident → s.stopped c = false → c.isHF = false →
    let budget := bits (s.reg (dieReg c.die 0x0330)) 0 32
    budget ≠ 0 → g.hcyc ≤ budget → ∃ t co' g' r', exec (.handlerBudgetSpent c.id gi) s = .next t ∧ t.mem = s.mem ∧ OnlyCohort s t c.id co' ∧
      co'.status = .saving 5 (some gi) ∧ (∀ h ∈ co'.groups, h.halt = true) ∧ co'.groups[gi]? = some g' ∧ g'.trap = some r' ∧ r'.cause = 4 ∧ r'.code = r.code ∧
      budget ≤ r'.hcyc ∧ t.signals = s.signals ++ [Signal.escalation c.id gi 4]) ∧
  (∀ (s : State) (c : Cohort) (gi : Nat) (g : Group), s.canonical = true → s.cohort? c.id = some c → c.groups[gi]? = some g → g.trap = none →
    c.status = .resident → c.isHF = false → ∃ t co' g' r, exec (.eccUncorrectedCell c.id [gi]) s = .next t ∧ t.cohort? c.id = some co' ∧
      co'.status = .saving 5 (some gi) ∧ (∀ h ∈ co'.groups, h.halt = true) ∧ co'.groups[gi]? = some g' ∧ g'.poison = true ∧ g'.trap = some r ∧
      r.code = 21 ∧ r.cause = 7 ∧ t.signals = s.signals ++ [Signal.escalation c.id gi 7] ∧ EventIn s t 0 ((5 * 2 ^ 64) + 21 * 2 ^ 72) (otherVec s 0)) ∧
  ∀ (s : State) (n : Nat) (w : AgentWait), s.canonical = true → s.waits[n]? = some w → w.root = .hf →
    ((∀ k, w.act ≠ .walker k) → ∃ t, exec (.agentFaultService n true) s = .next t ∧ t.waits = s.waits.eraseIdx n ∧ t.mem = s.mem) ∧
    (∀ va k, w.act = .decr va → s.agentXlate .hf va.toNat .write = .ok k → ∃ t, exec (.agentFaultService n false) s = .next t ∧
      t.waits = s.waits.eraseIdx n ∧ Put s t (k + 1) 1 (s.homeRead (k + 1) 1 - 1)) ∧
    ∀ va e, w.act = .decr va → s.agentXlate .hf va.toNat .write = .error e → ∃ t, exec (.agentFaultService n false) s = .next t ∧
      t.waits = s.waits.set n { w with va := va, code := e } ∧ t.mem = s.mem ∧ t.signals = s.signals ++ [Signal.agentFault va e]

/-- 07 R119, 13 R185, R188, 23 R315, R321, 25 R336 to R338: a write of a bank's mode is refused, with REFUSED and RBANK, or
under way, with BUSY; a write of RRCn, QCFGq, WPAn or WPCn, or of a log register, that breaks its limits is ignored and sets its
error bit, and else is stored without reserved bits; other registers keep the bits of their fields, or none; a virtual function reaches its own
page alone. That a write of BOOTST, REPST or TSTAT changes nothing is the model's choice (log entry 129). -/
def Obligations.ConfigurationRegisters : Prop :=
  (∀ (s : State) (k i : Nat) (hi : Bool) (v : BitVec 64), s.canonical = true → k < 64 → i < 32 → (s.cluster k).change = [] →
    let base := if hi then 32 else 0
    let code := bits v (2 * i) 2
    let stat := cluReg k 0x0010
    code ≠ s.bankMode k (base + i) → (∀ j, j < 32 → j ≠ i → bits v (2 * j) 2 = s.bankMode k (base + j)) →
    ∃ t x, exec (.csmodeWrite k hi v) s = .next t ∧ RegTo s t stat x ∧ t.mem = s.mem ∧
      (BankRefuses s k (base + i) code → x.getLsbD 0 = true ∧ bits x 2 6 = base + i ∧ x.getLsbD 1 = (s.reg stat).getLsbD 1 ∧ t.cluster k = s.cluster k) ∧
      (¬ BankRefuses s k (base + i) code → x = s.reg stat ||| 2 ∧ t.cluster k = { s.cluster k with change := [(base + i, code)] })) ∧
  (∀ (s : State) (die n : Nat) (v : BitVec 64), s.canonical = true → die < 4 → n < 16 →
    let x := v &&& 0x000000FFFFFFFFFF#64
    let err := dieReg die 0x0200
    (RangesRefuse s die n x → ∃ t, exec (.rrcWrite die n v) s = .next t ∧ SetsReg s t err (s.reg err ||| 1)) ∧
    (¬ RangesRefuse s die n x → ∃ t, exec (.rrcWrite die n v) s = .next t ∧ SetsReg s t (dieReg die (0x0108 + 16 * n)) x)) ∧
  (∀ (s : State) (cell q : Nat) (v : BitVec 64), s.canonical = true → cell < 512 → q < 5 →
    let x := v &&& 0x0000000001FF01FF#64
    let err := cellReg cell 0x0028
    let bad : Prop := 512 < ((List.range 5).map fun i => bits (if i = q then x else s.reg (cellReg cell (8 * i))) 0 9).sum ∨ bits x 16 9 < bits x 0 9
    (bad → ∃ t, exec (.qcfgWrite cell q v) s = .next t ∧ SetsReg s t err (s.reg err ||| 1)) ∧
    (¬ bad → ∃ t, exec (.qcfgWrite cell q v) s = .next t ∧ SetsReg s t (cellReg cell (8 * q)) x)) ∧
  (∀ (s : State) (k n : Nat) (ctl : Bool) (v : BitVec 64), s.canonical = true → k < 64 → n < 8 →
    let ra := cluReg k (0x0400 + 16 * n)
    let rc := cluReg k (0x0408 + 16 * n)
    let err := cluReg k 0x0488
    let a := if ctl then s.reg ra else v &&& 0x00FFFFFFFFFFFFFF#64
    let c := if ctl then v &&& 0xFFFFF00000003FFD#64 else s.reg rc
    (WatchRefuses a c → ∃ t, exec (.watchpointWrite k n ctl v) s = .next t ∧ SetsReg s t err (s.reg err ||| 2)) ∧
    (¬ WatchRefuses a c → ∃ t, exec (.watchpointWrite k n ctl v) s = .next t ∧ SetsReg s t (if ctl then rc else ra) (if ctl then c else a))) ∧
  (∀ (s : State) (die : Nat) (v : BitVec 64), s.canonical = true → die < 4 →
    let err := dieReg die 0x0428
    (LogsFit s die → ∃ t, exec (.assayLogConfig die 0x0420 v) s = .next t ∧ SetsReg s t (dieReg die 0x0420) (v &&& 0xFF)) ∧
    (∀ off x, (off = 0x0400 ∧ x = v &&& 0x00FFFFFFFFFFFFFF#64) ∨ (off = 0x0408 ∧ x = v &&& 0xFFFFFFFF#64) ∨ (off = 0x0410 ∧ x = v) →
      (bits (s.reg (dieReg die 0x0420)) 0 8 ≠ 0 ∧ x ≠ s.reg (dieReg die off)) ∨ (off = 0x0400 ∧ bits x 0 56 % 4096 ≠ 0) ∨ (off = 0x0408 ∧ bits x 0 32 < 128) →
      ∃ t, exec (.assayLogConfig die off v) s = .next t ∧ SetsReg s t err (s.reg err ||| 2)) ∧
    (v.getLsbD 1 = true → ∃ t, exec (.assayLogConfig die 0x0428 v) s = .next t ∧ SetsReg s t err (s.reg err &&& ~~~2))) ∧
  ∀ (s : State) (m : Master) (v : BitVec 64), s.canonical = true → s.power = true →
    (∀ e ∈ plainRegs, Reaches m e.1 → ∃ t, exec (.registerWrite m e.1 v) s = .next t ∧ SetsReg s t e.1 (v &&& e.2)) ∧
    (∀ off ∈ fixedRegs, exec (.registerWrite m off v) s = .next s) ∧
    (Reaches m 0x0F00 → (1 ≤ bits v 0 12 ∧ bits v 0 12 ≤ 2600 → ∃ t, exec (.registerWrite m 0x0F00 v) s = .next t ∧ SetsReg s t 0x0F00 (v &&& 0xFFF)) ∧
      (bits v 0 12 = 0 ∨ 2600 < bits v 0 12 → exec (.registerWrite m 0x0F00 v) s = .next s)) ∧
    ((s.reg 0x0008).getLsbD 63 = true → exec (.registerWrite m 0x0008 v) s = .next s) ∧
    (Reaches m 0x0008 → (s.reg 0x0008).getLsbD 63 = false →
      ∃ t, exec (.registerWrite m 0x0008 v) s = .next t ∧ SetsReg s t 0x0008 (v &&& 0x800000007FFF7FFF#64)) ∧
    ∀ f off, 0 < f → (off < 0x1_0000 + 0x1000 * f ∨ 0x1_0000 + 0x1000 * (f + 1) ≤ off) → exec (.registerWrite (.host f) off v) s = .next s

/-- 23 R318 to R320: a stop sets STOPPED and halts every cohort resident in the cluster, each group with its skid; GO clears
STOPPED, ends the traps that the Loupe took and lets the halted groups issue, with pauses and timeouts that the stop has put off; SAVE has the halted cohorts saved with STOP 7; a step
of a group has its lowest ready split issue next, or, with none ready, sets STEPPED and raises STEP; it is ignored while the
cluster runs. That the stop puts pauses and timeouts off by its length (log entry 106), and that GO acts on a cluster with STOPPED 0 as
well (log entry 133), is the model's reading. -/
def Obligations.LoupeControl : Prop :=
  (∀ (s : State) (k : Nat), s.canonical = true → k < 64 →
    ∃ t, exec (.clusterStop k) s = .next t ∧ t.mem = s.mem ∧ RegTo s t (cluReg k 0x0488) (s.reg (cluReg k 0x0488) ||| 1) ∧
      ∀ c, OnCluster s k c → ∃ d, t.cohort? c.id = some d ∧ d.status = .resident ∧ ∀ (i : Nat) (g : Group), c.groups[i]? = some g →
        ∃ h, d.groups[i]? = some h ∧ h.halt = true ∧ { h with halt := g.halt, left := g.left, skid := g.skid, splits := g.splits } = g ∧
          Splits SameSplit g h ∧ (g.halt = false → h.left ≤ 4 ∧ h.skid = 0)) ∧
  (∀ (s : State) (k : Nat) (c : Cohort), s.canonical = true → k < 64 → s.cohorts = [c] → OnCluster s k c → ¬ Handles c →
    (∀ g ∈ c.groups, g.pend = none ∧ g.queued = [] ∧ ∀ r, g.trap = some r → r.code = 18 ∨ r.code = 19 ∨ r.code = 20) →
    let late : Nat := if (s.reg (cluReg k 0x0488)).getLsbD 0 then s.time - max (s.cluster k).stopAt c.since else 0
    ∃ t d, exec (.loupeGo k) s = .next t ∧ t.mem = s.mem ∧ RegTo s t (cluReg k 0x0488) (s.reg (cluReg k 0x0488) &&& ~~~1) ∧ t.cohorts = [d] ∧
      { d with groups := c.groups } = c ∧ ∀ (i : Nat) (g : Group), c.groups[i]? = some g → ∃ h, d.groups[i]? = some h ∧ h.halt = false ∧ h.trap = none ∧ h.left = 0 ∧
        h.stack = g.stack ∧ h.v = g.v ∧ h.s = g.s ∧ h.p = g.p ∧ Splits (Later late) g h) ∧
  (∀ (s : State) (k : Nat), k < 64 →
    ((s.reg (cluReg k 0x0488)).getLsbD 0 = true → ∃ t, exec (.loupeSave k) s = .next t ∧ t.mem = s.mem ∧ ∀ c, OnCluster s k c →
      c.kind = .task ∨ bit c.hdr 3 = false → ∃ d, t.cohort? c.id = some d ∧ d.status = .saving 7 none ∧ ∀ g ∈ d.groups, g.halt = true) ∧
    ((s.reg (cluReg k 0x0488)).getLsbD 0 = false → exec (.loupeSave k) s = .next s)) ∧
  (∀ (s : State) (k : Nat) (v : BitVec 64), s.canonical = true → k < 64 → v.getLsbD 9 = false ∨ (s.reg (cluReg k 0x0488)).getLsbD 0 = false →
    ∃ t, exec (.loupeStep k v) s = .next t ∧ SetsReg s t (cluReg k 0x0490) (v &&& 0x1FF)) ∧
  (∀ (s : State) (k : Nat) (v : BitVec 64) (c : Cohort) (g : Group) (x : Split) (rest : List Split), s.canonical = true → k < 64 → v.getLsbD 9 = true →
    (s.reg (cluReg k 0x0488)).getLsbD 0 = true → s.cohorts = [c] → OnCluster s k c → s.pcell c.lcell = 8 * k + bits v 0 3 → c.groups = [g] →
    g.slot = bits v 3 6 → g.fin = false → ¬ Handles c → g.pend = none → g.splits = x :: rest → x.live = true → x.wait = .none → x.pauseEnd ≤ max (s.cluster k).stopAt c.since →
    (s.cell (s.pcell c.lcell)).lls = 0 →
    ∃ t d h, exec (.loupeStep k v) s = .next t ∧ t.pick = some ⟨c.id, 0, 0⟩ ∧ t.cohorts = [d] ∧ d.groups = [h] ∧ h.stepped = true ∧ h.splits = g.splits ∧
      t.mem = s.mem) ∧
  ∀ (s : State) (k : Nat) (v : BitVec 64) (c : Cohort) (g : Group) (x : Split) (rest : List Split), s.canonical = true → k < 64 → v.getLsbD 9 = true →
    (s.reg (cluReg k 0x0488)).getLsbD 0 = true → (s.reg (cluReg k 0x0480)).getLsbD 0 = true → s.cohorts = [c] → OnCluster s k c →
    s.pcell c.lcell = 8 * k + bits v 0 3 → c.groups = [g] → g.slot = bits v 3 6 → g.fin = false → ¬ Handles c → g.pend = none → g.trap = none →
    g.splits = x :: rest → x.live = true → (∀ y ∈ g.splits, y.live = true → y.wait ≠ .none) →
    ∃ t d h r, exec (.loupeStep k v) s = .next t ∧ t.cohorts = [d] ∧ d.groups = [h] ∧ h.halt = true ∧ h.skid = 0 ∧ h.splits = g.splits ∧ h.trap = some r ∧
      r.code = 19 ∧ r.split = 0 ∧ r.detail.toNat = g.slot + 64 * bits v 0 3 + 512 ∧ (t.reg (cluReg k 0x0488)).getLsbD 2 = true ∧
      t.signals = s.signals ++ [Signal.loupe c.id 0] ∧ t.mem = s.mem

/-- 25 R338 to R340, R344, R345: an append through HTAILj to an empty chain writes APPN, SEQ, NEXT, TAIL and WALK, and the slot's
walker follows it; it is ignored with EN = 0; a read through BAR2 returns the home slices' values, and with every bit set when it
faults, with an event; one through BAR0 a register's value (offsets past BAR2's: log entry 78); a write
through BAR2 is performed at home; a write of STOP stops a virtual device, the record is written when its saves are done, and
RESUME lets it go on, unless the record's VER is not 1 (that its reserved words are 0 is 00 R4). That MIGREC is a local physical address
(log entry 141), and that a write which faults has an event as a read has (log entry 143), is the model's reading. -/
def Obligations.HostAndMigration : Prop :=
  (∀ (s : State) (f j kc ke : Nat) (v : BitVec 64), s.canonical = true → s.power = true → f ≤ 16 → j < 16 →
    let h := s.reg (page f (0x100 + 16 * j))
    let ccb := bits h 0 56
    let e := bits v 0 56
    (h.getLsbD 63 = false → exec (.hostAppend f j v) s = .next s) ∧
    (h.getLsbD 63 = true → ccb % 64 = 0 → e % 64 = 0 → s.waits = [] → fnXlate s f ccb .write = .ok kc → fnXlate s f e .write = .ok ke →
      kc + 64 ≤ ke ∨ ke + 64 ≤ kc → TrackOff s (s.vdTag (if f = 0 then .hf else .vd (f - 1))) → s.homeRead kc 7 = 0 → s.homeRead (kc + 32) 7 = 0 → e ≠ 0 →
      let n := (s.homeRead (kc + 8) 8 + 1) % 2 ^ 64
      ∃ t, exec (.hostAppend f j v) s = .next t ∧ t.homeRead (kc + 8) 8 = n ∧ t.homeRead (ke + 16) 8 = n ∧ t.homeRead (ke + 8) 7 = 0 ∧
        t.homeRead kc 7 = e ∧ t.homeRead (kc + 32) 7 = e ∧
        (∀ a, (a < kc ∨ kc + 40 ≤ a) → (a < ke + 8 ∨ ke + 24 ≤ a) → Memory.read t.mem a = Memory.read s.mem a) ∧
        (s.chains = [] → isRemoteKey kc = false → SlotNames t f j kc → (∀ g i, i < 16 → 16 * g + i < 16 * f + j → ¬ SlotNames t g i kc) →
          ∃ k, t.chains = [k] ∧ k.ccb.toNat = ccb ∧ k.root = (if f = 0 then .hf else .vd (f - 1)) ∧ k.slot = some (f, j)))) ∧
  (∀ (s : State) (f off n : Nat), s.canonical = true → s.power = true → f ≤ 16 → off + n ≤ 2 ^ 36 → 0 < n →
    let va := (s.reg (page f 0x30)).toNat + off
    ((∀ i, i < n → ∃ key, fnXlate s f (va + i) .read = .ok key) → ∃ t, exec (.hostWindowRead f off n) s = .next t ∧ { t with hostData := s.hostData } = s ∧
      t.hostData.length = n ∧ ∀ i key, i < n → fnXlate s f (va + i) .read = .ok key → t.hostData[i]? = some (Memory.read s.mem key)) ∧
    ∀ e, fnXlate s f va .read = .error e → ∃ t, exec (.hostWindowRead f off n) s = .next t ∧ t.hostData = List.replicate n 0xFF#8 ∧
      EventIn s t f ((6 * 2 ^ 64) + e % 2 ^ 8 * 2 ^ 72 + va % 2 ^ 56 * 2 ^ 96) (otherVec s f)) ∧
  (∀ (s : State) (e : Nat × BitVec 64), s.power = true → e ∈ plainRegs → ∃ t, exec (.hostWindowRead 0 (2 ^ 36 + e.1) 8) s = .next t ∧
    { t with hostData := s.hostData } = s ∧ t.hostData.length = 8 ∧ ∀ i, i < 8 → t.hostData[i]? = some ((s.reg e.1).extractLsb' (8 * i) 8)) ∧
  (∀ (s : State) (f off : Nat) (bs : List (BitVec 8)), s.canonical = true → s.power = true → f ≤ 16 → off + bs.length ≤ 2 ^ 36 → bs ≠ [] →
    let va := (s.reg (page f 0x30)).toNat + off
    va % 128 + bs.length ≤ 128 → TrackOff s (s.vdTag (if f = 0 then .hf else .vd (f - 1))) →
    (∀ key, fnXlate s f va .write = .ok key → ∃ t, exec (.hostWindowWrite f off bs) s = .next t ∧ Holds s t key bs ∧ t.regs = s.regs) ∧
    ∀ e, fnXlate s f va .write = .error e → ∃ t, exec (.hostWindowWrite f off bs) s = .next t ∧
      EventIn s t f ((6 * 2 ^ 64) + e % 2 ^ 8 * 2 ^ 72 + va % 2 ^ 56 * 2 ^ 96) (otherVec s f)) ∧
  (∀ (s : State) (n : Nat), s.canonical = true → n < 16 →
    ((s.reg 0x0C40).getLsbD 63 = true → exec (.vdStop n) s = .next s) ∧
    ((s.reg 0x0C40).getLsbD 63 = false → ∃ t, exec (.vdStop n) s = .next t ∧ t.mem = s.mem ∧ RegTo s t 0x0C40 (BitVec.ofNat 64 (n + 2 ^ 63)) ∧
      n ∈ t.vdstopped ∧ (∀ m ∈ s.cmds, m.node ≠ none → m.root = .vd n → { m with stopped := true } ∈ t.cmds) ∧
      ∀ c ∈ s.cohorts, (∀ d ∈ s.cohorts, d.id = c.id → d = c) → c.root = .vd n → c.isHF = false → c.status = .resident → c.kind = .task ∨ bit c.hdr 3 = false →
        ∃ d, t.cohort? c.id = some d ∧ d.status = .saving 6 none ∧ ∀ g ∈ d.groups, g.halt = true)) ∧
  (∀ (s : State) (n : Nat), s.canonical = true → (s.reg 0x0C40).getLsbD 63 = true → bits (s.reg 0x0C40) 0 4 = n →
    let mine (c : Cohort) : Prop := c.root = .vd n ∧ c.isHF = false
    ((∃ c ∈ s.cohorts, mine c ∧ ∀ st e, c.status ≠ .saved st e) → exec .vdStopDone s = .next s) ∧
    ((∀ c ∈ s.cohorts, mine c → ∃ st e, c.status = .saved st e) → (∀ k, k < 64 → (s.cluster k).lines = []) →
      ∃ t, exec .vdStopDone s = .next t ∧ RegTo s t 0x0C40 (BitVec.ofNat 64 n) ∧ t.homeRead (migBase s) 8 = 1 + n * 2 ^ 8 ∧
        t.homeRead (migBase s + 8) 8 = (s.cmds.filter fun m => m.node.isSome && m.root == .vd n).length % 2 ^ 64 ∧
        t.homeRead (migBase s + 16) 8 = (s.cohorts.filter fun c => c.root == .vd n && !c.isHF).length % 2 ^ 64 ∧
        t.homeRead (migBase s + 24) 8 = 0 ∧
        ∀ j, j < 16 → t.homeRead (migBase s + 0x20 + 32 * j) 8 = (s.reg (page (n + 1) (0x100 + 16 * j))).toNat)) ∧
  ∀ (s : State) (n : Nat), s.canonical = true → n < 16 → (s.reg 0x0C40).getLsbD 63 = false → s.homeRead (migBase s + 8) 8 = 0 → s.homeRead (migBase s + 16) 8 = 0 →
    (s.homeRead (migBase s) 1 = 1 → s.homeRead (migBase s + 1) 1 % 16 = n →
      s.homeRead (migBase s) 8 / 2 ^ 12 = 0 → s.homeRead (migBase s + 0x18) 8 = 0 →
      (∀ j, j < 16 → s.homeRead (migBase s + 0x20 + 32 * j) 8 / 2 ^ 62 = 0 ∧ s.homeRead (migBase s + 0x38 + 32 * j) 8 = 0) →
      ∃ t, exec (.vdResume n) s = .next t ∧ t.mem = s.mem ∧ n ∉ t.vdstopped ∧ (∀ v, v ≠ n → (v ∈ t.vdstopped ↔ v ∈ s.vdstopped)) ∧
        t.reg 0x0C40 = BitVec.ofNat 64 n ∧
        ∀ j, j < 16 → (t.reg (page (n + 1) (0x100 + 16 * j))).toNat = s.homeRead (migBase s + 0x20 + 32 * j) 8) ∧
    (s.homeRead (migBase s) 1 ≠ 1 → ∃ t, exec (.vdResume n) s = .next t ∧ t.vdstopped = s.vdstopped ∧ t.reg 0x0C40 = BitVec.ofNat 64 n ∧
      EventIn s t 0 (2 * 2 ^ 64) (otherVec s 0))

/-- 25 R346, R354, R355, 01 R12: FORCE and a failing lane set SPUSED, with BADLANE and an event; a port goes down and comes up
with an event; a repair with a spare left is under way, with PEND, and one with none sets ERR and does nothing; a repair that
ends has an event, and PEND clears with the last: a slice takes its spare, a fenced cell leaves the logical cells, one whose fence
is lifted becomes the last of them, and KVID is rewritten. The ADDR of a port's event (log entry 138), and that repairs end in the order
asked for, with PEND until the last (log entry 139), are the model's choices. -/
def Obligations.LinksAndRepair : Prop :=
  (∀ (s : State) (p : Nat), s.canonical = true → p < 18 →
    let r := s.reg (port p)
    (∃ t, exec (.linkLaneForce p) s = .next t ∧ SetsReg s t (port p) (r ||| 2)) ∧
    (r.getLsbD 0 = true → ∃ t, exec (.linkPortDown p) s = .next t ∧ t.reg (port p) = r &&& ~~~1 ∧ PortEvent s t p) ∧
    (r.getLsbD 0 = false → exec (.linkPortDown p) s = .next s) ∧
    (r.getLsbD 0 = false → ∃ t, exec (.linkPortUp p) s = .next t ∧ t.reg (port p) = r ||| 1 ∧ PortEvent s t p) ∧
    (r.getLsbD 0 = true → exec (.linkPortUp p) s = .next s) ∧
    ∀ lane, lane < 9 →
      (r.getLsbD 0 = true → r.getLsbD 1 = false → ∃ t, exec (.linkLaneFailure p lane) s = .next t ∧ (t.reg (port p)).getLsbD 0 = true ∧
        (t.reg (port p)).getLsbD 1 = true ∧ bits (t.reg (port p)) 2 4 = lane ∧ bits (t.reg (port p)) 16 16 = bits r 16 16 ∧ PortEvent s t p) ∧
      (r.getLsbD 0 = false ∨ r.getLsbD 1 = true → exec (.linkLaneFailure p lane) s = .next s)) ∧
  (∀ (s : State) (i : Instr) (kind n : Nat), s.canonical = true → Repairable s i kind n →
    ∃ t, exec i s = .next t ∧ t.repairs = s.repairs ++ [({ kind := kind, index := n } : Repair)] ∧ t.lmap = s.lmap ∧ t.spares = s.spares ∧ t.mem = s.mem ∧
      t.reg 0x0F10 = BitVec.ofNat 64 (kind + 16 * n) ∧ (t.reg 0x0F18).getLsbD 1 = true ∧ (t.reg 0x0F18).getLsbD 0 = (s.reg 0x0F18).getLsbD 0 ∧
      (kind ≠ 3 → bits (t.reg 0x0F18) 8 8 = min 255 ((spares s kind n).2 - (spares s kind n).1 - 1)) ∧ ∀ o, o ≠ 0x0F10 → o ≠ 0x0F18 → t.reg o = s.reg o) ∧
  (∀ (s : State) (i : Instr) (kind n : Nat), s.canonical = true → Spent s i kind n →
    ∃ t, exec i s = .next t ∧ OnlyRegs s t ∧ (t.reg 0x0F18).getLsbD 0 = true ∧ (t.reg 0x0F18).getLsbD 1 = (s.reg 0x0F18).getLsbD 1 ∧
      ∀ o, o ≠ 0x0F10 → o ≠ 0x0F18 → t.reg o = s.reg o) ∧
  ∀ (s : State) (r : Repair) (rest : List Repair), s.canonical = true → s.repairs = r :: rest → r.index < 4096 → s.launches = [] → s.cohorts = [] →
    ∃ t, exec .repairComplete s = .next t ∧ t.repairs = rest ∧ EventIn s t 0 (3 * 2 ^ 64) (otherVec s 0) ∧
      (rest = [] → (t.reg 0x0F18).getLsbD 1 = false) ∧
      (r.kind = 0 → t.lmap = s.lmap.erase r.index ∧ t.fenced = s.fenced ++ [r.index] ∧ bits (t.reg 0) 26 10 = (s.lmap.erase r.index).length % 2 ^ 10 ∧
        bits (t.reg 0) 19 7 = ((s.lmap.erase r.index).filter fun p => p % 8 == 0).length % 2 ^ 7) ∧
      (r.kind = 1 → t.spares = s.spares ++ [r.index] ∧ t.lmap = s.lmap) ∧
      (r.kind = 2 → t.channels = s.channels ++ [r.index] ∧ t.lmap = s.lmap) ∧
      (r.kind = 3 → t.lmap = s.lmap ++ [r.index] ∧ t.fenced = s.fenced.erase r.index ∧ bits (t.reg 0) 26 10 = (s.lmap.length + 1) % 2 ^ 10) ∧
      (r.kind = 4 → r.index < 288 → (t.reg (port (r.index / 16))).getLsbD 1 = true ∧ bits (t.reg (port (r.index / 16))) 2 4 = r.index % 16)

/-- 25 R348 to R353: a block held back by the power cap raises an event; a reset runs the boot ROM, which starts Headframe core
0 at the entry of an image that passes its checks and else stays in recovery; power off leaves only what answers on auxiliary
power; the Adit port's messages are answered; a report is written for ATTREQ and sent to a requester, whole or in chunks. What the
carrying formats hold is not the spec's (log entry 13). That memory outlives a reset and not a loss of power (log entry 140), that ATTREQ
holds a local physical address (log entry 141), that the other seven cores have registers and run nothing (log entry 81), and the reset
values that no table gives (log entries 9 and 11) are the model's choices. -/
def Obligations.BootAndAdit : Prop :=
  (∀ (s : State) (b : Nat), s.canonical = true → ∃ t, exec (.powerLimitReached b) s = .next t ∧ t.cohorts.length = s.cohorts.length ∧
    EventIn s t 0 (7 * 2 ^ 64) (otherVec s 0)) ∧
  (∀ (s : State), s.canonical = true →
    (s.power = true → ∃ t, exec .moduleReset s = .next t ∧ AfterBoot s t s.mem) ∧ (s.power = false → exec .moduleReset s = .next s) ∧
    (s.power = false → ∃ t, exec (.mainPowerChange true) s = .next t ∧ AfterBoot s t []) ∧
    (s.power = true → ∃ t, exec (.mainPowerChange false) s = .next t ∧ t.power = false ∧ t.mem = [] ∧ t.cohorts = [] ∧ t.flash = s.flash ∧
      t.reg 0x0E00 = s.reg 0x0E00 ∧ ∀ o, o ≠ 0x0E00 → t.reg o = State.reset.reg o) ∧
    exec (.mainPowerChange s.power) s = .next s) ∧
  (∀ (s : State) (image : List (BitVec 8)) (whole : Bool), s.canonical = true →
    let u : State := { s with flash := image, flashPart := !whole }
    (whole = false ∨ s.power = false ∨ bits (s.reg 0x0E00) 0 4 ≠ 3 → exec (.pldmFirmwareUpdate image whole) s = .next u) ∧
    (whole = true → s.power = true → bits (s.reg 0x0E00) 0 4 = 3 → ∃ t, exec (.pldmFirmwareUpdate image whole) s = .next t ∧ AfterBoot u t s.mem)) ∧
  (∀ (s : State) (v : BitVec 64), (s.reg 0x0E10).getLsbD 63 = true → exec (.attestationRequest v) s = .next s) ∧
  (∀ (s : State) (v : BitVec 64), s.canonical = true → (s.reg 0x0E10).getLsbD 63 = false →
    let a := bits v 12 44 * 4096
    (v.getLsbD 63 = true → a + 8 * 4096 ≤ 0x59_682F_0000 → ∃ t, exec (.attestationRequest v) s = .next t ∧
      RegTo s t 0x0E10 (BitVec.ofNat 64 a) ∧ t.homeRead a 8 = 0x0401 ∧ t.homeRead (a + 8) 8 = (s.reg 0x0E08).toNat ∧
      t.homeRead (a + 16) 8 = (s.reg 0).toNat ∧ t.homeRead (a + 24) 8 = (s.reg 0x0E00).toNat ∧ t.homeRead (a + 0x120) 32 = 0 ∧
      (∀ j b, (shake256 64 Config.rom)[j]? = some b → Memory.read t.mem (a + 0x20 + j) = b) ∧
      (∀ j b, (slhKeygen (shake256 96 Config.deviceSecret)).pub[j]? = some b → Memory.read t.mem (a + 0x140 + j) = b) ∧
      (∃ r : List Byte, r.length = 32 ∧ ∀ (j : Nat) b, (slhSign (slhKeygen (shake256 96 Config.deviceSecret)) r ((List.range 384).map fun i => Memory.read t.mem (a + i)))[j]? = some b →
        Memory.read t.mem (a + 384 + j) = b) ∧
      ∀ b, b < a ∨ a + 30176 ≤ b → Memory.read t.mem b = Memory.read s.mem b) ∧
    (v.getLsbD 63 = false → ∃ t, exec (.attestationRequest v) s = .next t ∧ SetsReg s t 0x0E10 (BitVec.ofNat 64 a))) ∧
  ∀ (s : State), s.canonical = true →
    (s.power = true →
      (∀ msg, Answers s (.mctpControl msg) (.other (Config.replyBytes 0 msg)) ∧ Answers s (.pldmPlatformMonitor msg) (.other (Config.replyBytes 1 msg))) ∧
      Answers s .getVersion (.version [(1, 2)]) ∧ Answers s .getCapabilities (.capabilities 1 true false false false false false) ∧
      Answers s .negotiateAlgorithms (.algorithms true true none none) ∧
      (∀ e ∈ measureTypes, ∃ bs, bs.length = 64 ∧ Answers s (.getMeasurements e.1) (.measurements [(e.1, e.2, bs)]) ∧
        (e.1 = 1 → bs = shake256 64 Config.rom) ∧ (e.1 = 2 → bs = shake256 64 (Config.imageSigned s.image)) ∧ (e.1 = 3 → bs = shake256 64 Config.fuses)) ∧
      (∃ bs, Answers s (.getMeasurements 0xFF) (.measurements bs) ∧ bs.map (fun b => (b.1, b.2.1)) = measureTypes) ∧
      (∀ n, n ≠ 0xFF → n ∉ measureTypes.map Prod.fst → Answers s (.getMeasurements n) (.error .invalidRequest)) ∧
      (∀ nonce xfer, ∃ bs, bs.length = 30176 ∧ (30176 ≤ xfer → Answers s (.vendorDefinedRequest nonce xfer) (.report bs)) ∧
        (0 < xfer → xfer < 30176 → ∃ t, exec (.vendorDefinedRequest nonce xfer) s = .next t ∧ t.chunks = some (bs, xfer, 0) ∧
          { t with chunks := s.chunks, adit := s.adit } = s)) ∧
      (s.chunks = none → Answers s .chunkGet (.error .unexpectedRequest)) ∧
      (∀ bs x n, s.chunks = some (bs, x, n) → exec .chunkGet s = .next { s with
        adit := s.adit ++ [AditMsg.chunk n (bs.take x) (decide (bs.length ≤ x))], chunks := if bs.length ≤ x then none else some (bs.drop x, x, n + 1) }) ∧
      (∀ e ∈ plainRegs, ∀ v, Answers s (.aditRegisterRead e.1) (.register (s.reg e.1)) ∧
        ∃ t, exec (.aditRegisterWrite e.1 v) s = .next t ∧ SetsReg s t e.1 (v &&& e.2))) ∧
    (s.power = false → ∀ off v, Answers s (.aditRegisterRead off) (.register (if onAuxPower off then s.reg off else 0)) ∧
      exec (.aditRegisterWrite off v) s = .next s)

/-- 21 R291, R292, R294, R296: a class C trap with `%tvec` not 0 pushes a TRAP entry with the resume point and the active mask,
writes the record, halts every group of the cohort, and the split goes on as the handler at KB + `%tvec`; a trap in a group that
a halt has reached is kept pending. -/
def Obligations.TrapsAreTaken : Prop :=
  (∀ (s : State) (c : Ctx) (w : Nat) (tr : Trap), s.ctx? = some c → c.sp.windows = [] → tr.after = false → c.sp.handler = false → c.gr.halt = false →
    tr.code ∉ [3, 4, 17, 18, 19, 20, 21] → c.co.tvec ≠ 0 → c.gr.stack.length < 64 →
    ∃ co' g' x' e r, SameModule s (s.raise c w tr) ∧ OnlyCohort s (s.raise c w tr) c.who.co co' ∧ { co' with groups := c.co.groups } = c.co ∧ HaltsAll c co' ∧
      co'.groups[c.who.gi]? = some g' ∧ g'.stack = e :: c.gr.stack ∧ e.kind = .trap ∧ e.mask = c.sp.mask ∧ e.pc = resumePc c.sp ∧ e.pos = c.sp.pos ∧
      e.owner = pushOwner c ∧ g'.trap = some r ∧ Records c w tr r ∧ r.cause = 0 ∧ g'.splits[c.who.si]? = some x' ∧ x'.live = true ∧ x'.handler = true ∧
      x'.mask = c.sp.mask ∧ x'.pc = BitVec.ofNat 56 (c.co.kb + c.co.tvec.toNat) ∧ x'.pos = 0 ∧ x'.wait = .none ∧ x'.chain = [] ∧
      Regs g' (sameV c) (sameS c) (sameP c) ∧ ∀ j, j ≠ c.who.si → g'.splits[j]? = c.gr.splits[j]?) ∧
  ∀ (s : State) (c : Ctx) (w : Nat) (tr : Trap), s.ctx? = some c → tr.after = false → c.sp.handler = false → c.gr.halt = true →
    c.gr.stepped = false → c.gr.pend = none → tr.code ∉ [18, 19, 20] ∨ s.stopped c.co = false →
    ∃ co' g' x' r, SameModule s (s.raise c w tr) ∧ OnlyCohort s (s.raise c w tr) c.who.co co' ∧ OnlyGroup c co' g' ∧ g'.pend = some r ∧ Records c w tr r ∧
      g'.left = 0 ∧ g'.trap = c.gr.trap ∧ g'.stack = c.gr.stack ∧ Regs g' (sameV c) (sameS c) (sameP c) ∧ g'.splits[c.who.si]? = some x' ∧ x'.live = true ∧
      x'.handler = false ∧ x'.mask = c.sp.mask ∧ x'.pc = resumePc c.sp ∧ x'.pos = c.sp.pos

/-- 21 R293, R296, R297, R303: a class H trap escalates with cause 1, a class C trap with `%tvec` = 0 with cause 2, a trap in a handler
with cause 3, its own trap's record kept and the signal naming the trap it met (log entry 46), and a trap that finds 64 stack entries with cause 5, with no push. -/
def Obligations.TrapsEscalate : Prop :=
  (∀ (s : State) (c : Ctx) (w : Nat) (tr : Trap), s.ctx? = some c → tr.after = false → c.sp.handler = false → c.gr.halt = false → tr.code ∉ [18, 19, 20] →
    let t := s.raise c w tr
    (tr.code ∈ [3, 4, 17, 21] → ∃ r, Escalates s c t 1 none r ∧ Records c w tr r) ∧
    (tr.code ∉ [3, 4, 17, 21] → c.co.tvec = 0 → ∃ r, Escalates s c t 2 none r ∧ Records c w tr r) ∧
    (tr.code ∉ [3, 4, 17, 21] → c.co.tvec ≠ 0 → 64 ≤ c.gr.stack.length → ∃ r, Escalates s c t 5 none r ∧ Records c w tr r)) ∧
  ∀ (s : State) (c : Ctx) (w : Nat) (tr : Trap) (r : TrapRec), s.ctx? = some c → tr.after = false → c.sp.handler = true → c.gr.trap = some r →
    ∃ r', Records c w tr r' ∧ Escalates s c (s.raise c w tr) 3 (some r') { r with cause := 3, hcyc := c.gr.hcyc + (s.nowOf c.who.co - c.gr.hstart) }

/-- 05 R59, R60, 07 R116, 13 R358: the picked split, when it is ready, issues the word it stands at: the instruction that the word
decodes to is executed, with that split as the issuing one; a word that decodes to nothing traps ILLEGAL_INSTRUCTION, and one that
cannot be fetched takes the fault of its fetch. An event at the head of the agenda happens. The issue keeps the translation of its
fetch (13 R193), and every step the counts of how long a ready split has not issued (07 R116). Where the time of a step would pass the
end of a dirty byte's period (13 R182) or of a cell's 256 cycles (07 R117), what falls due happens instead. A step of the Loupe whose
group has gone sets STEPPED (23 R320). The agenda and the pick are the model's own (log entry 1). -/
def Obligations.StepRunsDecodedWord : Prop :=
  (∀ (s : State) (w : Who) (c : Ctx), s.agenda = [] → s.pick = some w → s.ready w = true → s.ctxOf w = some c →
    let u : State := { s with pick := none }
    let v : State := { s with pick := none, focus := some w }
    let issued (o : Host.Outcome State Fault Refusal) : Prop := step s = inTime s (starving u (some w) (stepped? u w o))
    (∀ x i, s.nextWord c = .word x → decode x = .ok i → issued (exec i (v.keepFetch c))) ∧
    (∀ x e, s.nextWord c = .word x → decode x = .error e → issued (.next ((v.keepFetch c).raise c (x % 2 ^ 32) { code := 1 }))) ∧
    (∀ x tr, s.nextWord c = .trap x tr → issued (.next ((v.keepFetch c).raise c x tr))) ∧
    ∀ e, s.nextWord c = .fault e → issued (.next (v.raise c 0 { code := e, addr := c.sp.pc.setWidth 64 }))) ∧
  (∀ (u t : State) (i : Option Who), ∃ n, starving u i (.next t) = .next { t with starve := n }) ∧
  (∀ (s : State) (c : Ctx), { s.keepFetch c with clusters := s.clusters, free := s.free } = s) ∧
  (∀ (s t : State), s.canonical = true → (∀ k, ∀ l ∈ (s.cluster k).lines, l.isDirty = true → t.time ≤ s.lineDue l) →
    (∀ n, (s.cell n).quiet = true ∨ t.time ≤ (s.cell n).llsAt + 256) → inTime s (.next t) = .next t) ∧
  (∀ (u t : State) (w : Who), (∀ g, t.group? w.co w.gi = some g → g.stepped = false) → (∀ g, u.group? w.co w.gi = some g → g.stepped = false) →
    stepped? u w (.next t) = .next t) ∧
  (∀ (u t : State) (w : Who) (c : Cohort) (k : Nat) (g : Group), t.canonical = true → t.group? w.co w.gi = none → u.cohort? w.co = some c →
    u.clusterOf c = some k → u.group? w.co w.gi = some g → g.stepped = true →
    ∃ v, stepped? u w (.next t) = .next v ∧ SetsReg t v (cluReg k 0x0488) (t.reg (cluReg k 0x0488) ||| 4)) ∧
  (∀ (s : State) (c : Ctx) (p : Phys), c.sp.codes = [] → c.h.rep = none → c.sp.landed = false → s.bad = [] → s.laneXlate c.co c.sp.pc.toNat .fetch = .ok p →
    s.nextWord c = .word (s.homeRead p.key 4)) ∧
  ∀ (s : State) (e : Instr) (rest : List Instr), s.agenda = e :: rest → e.isWord = false →
    let v : State := { s with agenda := rest }
    step s = inTime s (starving v none (exec e v))

/-- 05 R60: the word 0 is `iadd v0 <- v0, v0 when p0`, and it does not trap: it answers a next state in which the lanes of p0 hold
the doubled v0. -/
def Obligations.ZeroWord : Prop :=
  decode 0 = .ok (.iadd ⟨0, 0, 0, 0⟩) ∧
  ∀ (s : State) (c : Ctx), Ready s c false false true { s := true } [0] →
    ∃ t, exec (.iadd ⟨0, 0, 0, 0⟩) s = .next t ∧ Writes s c t
      (vecTo c 0 0 fun l => wrapSat c.h.sat ((c.gr.getV 0 l).toInt + (c.gr.getV 0 l).toInt)) (sameS c) (sameP c)

/-- Words that the spec writes out field by field decode to the lines they stand for (05, 06, 09, 11, 15, 17, 19, 21). -/
def Obligations.SampleWords : Prop := ∀ e ∈ sampleWords, decode e.1 = .ok e.2

/-- 05 R52 to R60, 09, 11, 15, 17, 19, 21, 23: decoding an encoded well-formed instruction gives it back, with every operand at
every value that its word admits. -/
def Obligations.DecodeOfEncode : Prop := ∀ i : Instr, i.isWord = true → i.wf = true → encode i < 2 ^ 32 ∧ decode (encode i) = .ok i

/-- 05 R52, R59: a word that decodes is the word of the instruction it decodes to, which is well formed: no two words stand for one
instruction, and a reserved bit that is 1 decodes to nothing. -/
def Obligations.EncodeOfDecode : Prop :=
  ∀ (w : Nat) (i : Instr), w < 2 ^ 32 → decode w = .ok i → i.isWord = true ∧ i.wf = true ∧ encode i = w

/-- 13 R181, 07 R119, R121, 21 Table 21.11, 25 Table 25.1, 01 Table 1.4: after reset the registers hold the values their tables give; nothing is
resident, no launch has started, and the module's maps are in canonical form. The identity cell map and memory's contents are the model's
choices (log entries 3 and 9). -/
def Obligations.ResetState : Prop :=
  State.reset.canonical = true ∧ State.reset.cohorts = [] ∧ State.reset.launches = [] ∧ State.reset.cmds = [] ∧
  (∀ o ∈ zeroAtReset, State.reset.reg o = 0) ∧ State.reset.reg 0x0F00 = 2600 ∧
  bits (State.reset.reg 0) 26 10 = 512 ∧ bits (State.reset.reg 0) 19 7 = 64 ∧
  (∀ k, k < 64 → ∀ b, b < 64 → State.reset.bankMode k b = if b < 32 then 0 else 1) ∧
  (∀ d, d < 4 → State.reset.reg (dieReg d 0x0330) = 1048576 ∧ State.reset.reg (dieReg d 0x0360) = 10000 ∧ State.reset.reg (dieReg d 0x0368) = 1520) ∧
  ∀ c, c < 512 → ∀ e ∈ [(0, 64, 256), (1, 64, 256), (2, 32, 128), (3, 32, 128), (4, 16, 64)],
    bits (State.reset.reg (cellReg c (8 * e.1))) 0 9 = e.2.1 ∧ bits (State.reset.reg (cellReg c (8 * e.1))) 16 9 = e.2.2

/-- 13 R180, R203: every step keeps the canonical form of memory, of the register region, of clusters and cells, and of every cohort's
scratch and registers, so that reading a byte or a register after it has been written gives what was written. -/
def Obligations.StepKeepsCanonical : Prop :=
  ∀ (s t : State), s.canonical = true → step s = .next t → t.canonical = true

/-- 03 R28, R30 to R33: a value of a format rounds to its own code in every rounding mode; zeros keep their signs, infinities stay
infinities, and every NaN gives the format's canonical NaN. -/
def Obligations.FloatRoundTrip : Prop :=
  ∀ f ∈ [(F32, 0x7FC00000), (F16, 0x7E00), (BF16, 0x7FC0)], ∀ (rm : Nat) (sat : Bool) (x : Nat), x < 2 ^ (1 + f.1.eb + f.1.mb) →
    (f.1.value x ≠ .nan → f.1.round rm sat (f.1.value x) = x) ∧ (f.1.value x = .nan → f.1.round rm sat (f.1.value x) = f.2)

/-- 13 R190 to R192: a translation that no cache holds walks the five levels; the Headframe's root is HFROOT's, and a device whose root is not
enabled has no table. -/
def Obligations.TranslationWalk : Prop :=
  (∀ (s : State) (va : Nat) (k : Access) (hf : Bool),
    (s.xlate [] .hf va k hf).map (fun p => p.key) =
      (walkRule s va k hf [4, 3, 2, 1, 0] (bits (s.reg 0x0B00) 12 28 * 4096)).map fun q => byteAt s q.1 q.2) ∧
  (∀ (s : State) (n va : Nat) (k : Access) (hf : Bool), n < 16 →
    let r : BitVec 64 := Sparse.get 0 s.roots n
    (r.getLsbD 0 = true → (s.xlate [] (.vd n) va k hf).map (fun p => p.key) =
      (walkRule s va k hf [4, 3, 2, 1, 0] (bits r 12 28 * 4096)).map fun q => byteAt s q.1 q.2) ∧
    (r.getLsbD 0 = false → s.xlate [] (.vd n) va k hf = .error 3)) ∧
  ∀ (s : State) (va : Nat) (k : Access) (hf : Bool) (p : Phys), s.xlate [] .hf va k hf = .ok p →
    p.base ≤ va ∧ va < p.base + p.size ∧ p.base % p.size = 0

end
end

