-- ==== Sys2Proof/Laws/Maps.lean ====
section
/-! SUPPORT. Laws of the sparse maps and of memory: read after write, and the canonical form. -/
namespace Sys2Proof.Machine

variable {α : Type} [DecidableEq α] (d : α)

theorem Sparse.rises_of_wfFrom (m : Sparse α) (lo : Nat) (h : Sparse.wfFrom d lo m = true) : Sparse.rises lo m = true := by
  induction m generalizing lo with
  | nil => rfl
  | cons p t ih =>
    simp only [Sparse.wfFrom, Sparse.rises, Bool.and_eq_true, decide_eq_true_eq] at h ⊢
    exact ⟨h.1.1, ih _ h.2⟩

omit [DecidableEq α] in
theorem Sparse.get_below (m : Sparse α) (lo i : Nat) (h : Sparse.rises lo m = true) (hi : i < lo) :
    Sparse.get d m i = d := by
  cases m with
  | nil => rfl
  | cons p t =>
    obtain ⟨k, v⟩ := p
    simp only [Sparse.rises, Bool.and_eq_true, decide_eq_true_eq] at h
    have h1 : ¬ i = k := by omega
    have h2 : i < k := by omega
    simp [Sparse.get, h1, h2]

theorem Sparse.wfFrom_mono (m : Sparse α) (lo lo' : Nat) (hl : lo' ≤ lo) (h : Sparse.wfFrom d lo m = true) :
    Sparse.wfFrom d lo' m = true := by
  cases m with
  | nil => rfl
  | cons p t =>
    obtain ⟨k, v⟩ := p
    simp only [Sparse.wfFrom, Bool.and_eq_true, decide_eq_true_eq] at h ⊢
    exact ⟨⟨by omega, h.1.2⟩, h.2⟩

theorem Sparse.set_wfFrom (m : Sparse α) (lo i : Nat) (v : α) (hi : lo ≤ i) (h : Sparse.wfFrom d lo m = true) :
    Sparse.wfFrom d lo (Sparse.set d m i v) = true := by
  induction m generalizing lo with
  | nil => by_cases hv : v = d <;> simp [Sparse.set, Sparse.wfFrom, hv, hi]
  | cons p t ih =>
    obtain ⟨k, w⟩ := p
    simp only [Sparse.wfFrom, Bool.and_eq_true, decide_eq_true_eq] at h
    obtain ⟨⟨h1, h2⟩, h3⟩ := h
    unfold Sparse.set
    split
    · rename_i hik
      split
      · simp [Sparse.wfFrom, h1, h2, h3]
      · rename_i hv
        simp [Sparse.wfFrom, h2, h3, hi, hv]
        omega
    · split
      · rename_i hik
        subst hik
        split
        · exact Sparse.wfFrom_mono d t _ _ (by omega) h3
        · rename_i hv
          simp [Sparse.wfFrom, hi, hv, h3]
      · simp only [Sparse.wfFrom, Bool.and_eq_true, decide_eq_true_eq]
        exact ⟨⟨h1, h2⟩, ih (k + 1) (by omega) h3⟩

/-- Setting a key keeps the canonical form. -/
theorem Sparse.set_wf (m : Sparse α) (i : Nat) (v : α) (h : Sparse.wf d m = true) : Sparse.wf d (Sparse.set d m i v) = true :=
  Sparse.set_wfFrom d m 0 i v (Nat.zero_le _) h

theorem Sparse.get_set_same_from (m : Sparse α) (lo i : Nat) (v : α) (h : Sparse.rises lo m = true) :
    Sparse.get d (Sparse.set d m i v) i = v := by
  induction m generalizing lo with
  | nil => by_cases hv : v = d <;> simp [Sparse.set, Sparse.get, hv]
  | cons p t ih =>
    obtain ⟨k, w⟩ := p
    simp only [Sparse.rises, Bool.and_eq_true, decide_eq_true_eq] at h
    unfold Sparse.set
    split
    · rename_i hik
      split
      · rename_i hv
        have : ¬ i = k := by omega
        simp [Sparse.get, this, hik, hv]
      · simp [Sparse.get]
    · split
      · rename_i hik
        subst hik
        split
        · rename_i hv
          rw [hv]
          exact Sparse.get_below d t (i + 1) i h.2 (by omega)
        · simp [Sparse.get]
      · rename_i h1 h2
        simp only [Sparse.get, h1, h2, if_false]
        exact ih (k + 1) h.2

/-- A read after a write to the same key. -/
theorem Sparse.get_set_same (m : Sparse α) (i : Nat) (v : α) (h : Sparse.rises 0 m = true) : Sparse.get d (Sparse.set d m i v) i = v :=
  Sparse.get_set_same_from d m 0 i v h

theorem Sparse.get_set_other_from (m : Sparse α) (lo i j : Nat) (v : α) (hij : j ≠ i) (h : Sparse.rises lo m = true) :
    Sparse.get d (Sparse.set d m i v) j = Sparse.get d m j := by
  induction m generalizing lo with
  | nil => by_cases hv : v = d <;> simp [Sparse.set, Sparse.get, hv, hij]
  | cons p t ih =>
    obtain ⟨k, w⟩ := p
    simp only [Sparse.rises, Bool.and_eq_true, decide_eq_true_eq] at h
    unfold Sparse.set
    split
    · rename_i hik
      split
      · rfl
      · simp only [Sparse.get, hij, if_false]
        split
        · have a : ¬ j = k := by omega
          have b : j < k := by omega
          simp [a, b]
        · rfl
    · split
      · rename_i hik
        subst hik
        split
        · simp only [Sparse.get, hij, if_false]
          split
          · exact Sparse.get_below d t (i + 1) j h.2 (by omega)
          · rfl
        · simp [Sparse.get, hij]
      · simp only [Sparse.get]
        rw [ih (k + 1) h.2]

/-- A write leaves every other key alone. -/
theorem Sparse.get_set_other (m : Sparse α) (i j : Nat) (v : α) (hij : j ≠ i) (h : Sparse.rises 0 m = true) :
    Sparse.get d (Sparse.set d m i v) j = Sparse.get d m j := Sparse.get_set_other_from d m 0 i j v hij h

omit [DecidableEq α] in
theorem Sparse.rises_mono (m : Sparse α) (lo lo' : Nat) (hl : lo' ≤ lo) (h : Sparse.rises lo m = true) : Sparse.rises lo' m = true := by
  cases m with
  | nil => rfl
  | cons p t =>
    simp only [Sparse.rises, Bool.and_eq_true, decide_eq_true_eq] at h ⊢
    exact ⟨by omega, h.2⟩

theorem Sparse.set_rises_from (m : Sparse α) (lo i : Nat) (v : α) (hi : lo ≤ i) (h : Sparse.rises lo m = true) :
    Sparse.rises lo (Sparse.set d m i v) = true := by
  induction m generalizing lo with
  | nil => by_cases hv : v = d <;> simp [Sparse.set, Sparse.rises, hv, hi]
  | cons p t ih =>
    obtain ⟨k, w⟩ := p
    simp only [Sparse.rises, Bool.and_eq_true, decide_eq_true_eq] at h
    unfold Sparse.set
    split
    · split
      · simp [Sparse.rises, h.1, h.2]
      · simp [Sparse.rises, h.2, hi]; omega
    · split
      · rename_i hik
        subst hik
        split
        · exact Sparse.rises_mono t _ _ (by omega) h.2
        · simp [Sparse.rises, hi, h.2]
      · simp only [Sparse.rises, Bool.and_eq_true, decide_eq_true_eq]
        exact ⟨h.1, ih (k + 1) (by omega) h.2⟩

/-- Setting a key keeps the keys ascending. -/
theorem Sparse.set_rises (m : Sparse α) (i : Nat) (v : α) (h : Sparse.rises 0 m = true) : Sparse.rises 0 (Sparse.set d m i v) = true :=
  Sparse.set_rises_from d m 0 i v (Nat.zero_le _) h

/-- One law for reads after a write. -/
theorem Sparse.get_set (m : Sparse α) (i j : Nat) (v : α) (h : Sparse.rises 0 m = true) :
    Sparse.get d (Sparse.set d m i v) j = if j = i then v else Sparse.get d m j := by
  by_cases hj : j = i
  · subst hj; simp [Sparse.get_set_same d m j v h]
  · simp [hj, Sparse.get_set_other d m i j v hj h]

/-! ### Memory -/

theorem Memory.write_wf (m : Mem) (k : Nat) (b : Byte) (h : Memory.wf m = true) : Memory.wf (Memory.write m k b) = true :=
  Sparse.set_wf memDefault m k b h

theorem Memory.read_write_same (m : Mem) (k : Nat) (b : Byte) (h : Memory.wf m = true) : Memory.read (Memory.write m k b) k = b :=
  Sparse.get_set_same memDefault m k b (Sparse.rises_of_wfFrom _ m 0 h)

theorem Memory.read_write_other (m : Mem) (k j : Nat) (b : Byte) (hj : j ≠ k) (h : Memory.wf m = true) :
    Memory.read (Memory.write m k b) j = Memory.read m j := Sparse.get_set_other memDefault m k j b hj (Sparse.rises_of_wfFrom _ m 0 h)

theorem Memory.empty_wf : Memory.wf [] = true := rfl

/-- A fold of writes keeps the canonical form. -/
theorem Memory.foldl_wf {β : Type} (l : List β) (f : Mem → β → Mem) (hf : ∀ m b, Memory.wf m = true → Memory.wf (f m b) = true)
    (m : Mem) (h : Memory.wf m = true) : Memory.wf (l.foldl f m) = true := by
  induction l generalizing m with
  | nil => exact h
  | cons b t ih => exact ih (f m b) (hf m b h)

end Sys2Proof.Machine
end

