-- ==== Sys2Proof/Laws/State.lean ====
section
/-! SUPPORT. What each named update of the state leaves alone: one lemma per field and update. -/
namespace Sys2Proof.Machine

@[simp] theorem State.updCo_mem (s : State) (id : Nat) (f : Cohort → Cohort) : (s.updCo id f).mem = s.mem := rfl
@[simp] theorem State.updCo_regs (s : State) (id : Nat) (f : Cohort → Cohort) : (s.updCo id f).regs = s.regs := rfl
@[simp] theorem State.updCo_roots (s : State) (id : Nat) (f : Cohort → Cohort) : (s.updCo id f).roots = s.roots := rfl
@[simp] theorem State.updCo_clusters (s : State) (id : Nat) (f : Cohort → Cohort) : (s.updCo id f).clusters = s.clusters := rfl
@[simp] theorem State.updCo_cells (s : State) (id : Nat) (f : Cohort → Cohort) : (s.updCo id f).cells = s.cells := rfl
@[simp] theorem State.updCo_tlbs (s : State) (id : Nat) (f : Cohort → Cohort) : (s.updCo id f).tlbs = s.tlbs := rfl
@[simp] theorem State.updCo_nextCohort (s : State) (id : Nat) (f : Cohort → Cohort) : (s.updCo id f).nextCohort = s.nextCohort := rfl
@[simp] theorem State.updCo_launches (s : State) (id : Nat) (f : Cohort → Cohort) : (s.updCo id f).launches = s.launches := rfl
@[simp] theorem State.updCo_nextLaunch (s : State) (id : Nat) (f : Cohort → Cohort) : (s.updCo id f).nextLaunch = s.nextLaunch := rfl
@[simp] theorem State.updCo_offers (s : State) (id : Nat) (f : Cohort → Cohort) : (s.updCo id f).offers = s.offers := rfl
@[simp] theorem State.updCo_chains (s : State) (id : Nat) (f : Cohort → Cohort) : (s.updCo id f).chains = s.chains := rfl
@[simp] theorem State.updCo_nodes (s : State) (id : Nat) (f : Cohort → Cohort) : (s.updCo id f).nodes = s.nodes := rfl
@[simp] theorem State.updCo_cmds (s : State) (id : Nat) (f : Cohort → Cohort) : (s.updCo id f).cmds = s.cmds := rfl
@[simp] theorem State.updCo_nextCmd (s : State) (id : Nat) (f : Cohort → Cohort) : (s.updCo id f).nextCmd = s.nextCmd := rfl
@[simp] theorem State.updCo_cradle (s : State) (id : Nat) (f : Cohort → Cohort) : (s.updCo id f).cradle = s.cradle := rfl
@[simp] theorem State.updCo_aged (s : State) (id : Nat) (f : Cohort → Cohort) : (s.updCo id f).aged = s.aged := rfl
@[simp] theorem State.updCo_slices (s : State) (id : Nat) (f : Cohort → Cohort) : (s.updCo id f).slices = s.slices := rfl
@[simp] theorem State.updCo_sent (s : State) (id : Nat) (f : Cohort → Cohort) : (s.updCo id f).sent = s.sent := rfl
@[simp] theorem State.updCo_sc (s : State) (id : Nat) (f : Cohort → Cohort) : (s.updCo id f).sc = s.sc := rfl
@[simp] theorem State.updCo_ticketDev (s : State) (id : Nat) (f : Cohort → Cohort) : (s.updCo id f).ticketDev = s.ticketDev := rfl
@[simp] theorem State.updCo_ticketSys (s : State) (id : Nat) (f : Cohort → Cohort) : (s.updCo id f).ticketSys = s.ticketSys := rfl
@[simp] theorem State.updCo_ords (s : State) (id : Nat) (f : Cohort → Cohort) : (s.updCo id f).ords = s.ords := rfl
@[simp] theorem State.updCo_waits (s : State) (id : Nat) (f : Cohort → Cohort) : (s.updCo id f).waits = s.waits := rfl
@[simp] theorem State.updCo_streams (s : State) (id : Nat) (f : Cohort → Cohort) : (s.updCo id f).streams = s.streams := rfl
@[simp] theorem State.updCo_lmap (s : State) (id : Nat) (f : Cohort → Cohort) : (s.updCo id f).lmap = s.lmap := rfl
@[simp] theorem State.updCo_fenced (s : State) (id : Nat) (f : Cohort → Cohort) : (s.updCo id f).fenced = s.fenced := rfl
@[simp] theorem State.updCo_hot (s : State) (id : Nat) (f : Cohort → Cohort) : (s.updCo id f).hot = s.hot := rfl
@[simp] theorem State.updCo_spares (s : State) (id : Nat) (f : Cohort → Cohort) : (s.updCo id f).spares = s.spares := rfl
@[simp] theorem State.updCo_channels (s : State) (id : Nat) (f : Cohort → Cohort) : (s.updCo id f).channels = s.channels := rfl
@[simp] theorem State.updCo_repairs (s : State) (id : Nat) (f : Cohort → Cohort) : (s.updCo id f).repairs = s.repairs := rfl
@[simp] theorem State.updCo_vdstopped (s : State) (id : Nat) (f : Cohort → Cohort) : (s.updCo id f).vdstopped = s.vdstopped := rfl
@[simp] theorem State.updCo_power (s : State) (id : Nat) (f : Cohort → Cohort) : (s.updCo id f).power = s.power := rfl
@[simp] theorem State.updCo_flash (s : State) (id : Nat) (f : Cohort → Cohort) : (s.updCo id f).flash = s.flash := rfl
@[simp] theorem State.updCo_flashPart (s : State) (id : Nat) (f : Cohort → Cohort) : (s.updCo id f).flashPart = s.flashPart := rfl
@[simp] theorem State.updCo_image (s : State) (id : Nat) (f : Cohort → Cohort) : (s.updCo id f).image = s.image := rfl
@[simp] theorem State.updCo_chunks (s : State) (id : Nat) (f : Cohort → Cohort) : (s.updCo id f).chunks = s.chunks := rfl
@[simp] theorem State.updCo_adit (s : State) (id : Nat) (f : Cohort → Cohort) : (s.updCo id f).adit = s.adit := rfl
@[simp] theorem State.updCo_msix (s : State) (id : Nat) (f : Cohort → Cohort) : (s.updCo id f).msix = s.msix := rfl
@[simp] theorem State.updCo_hostData (s : State) (id : Nat) (f : Cohort → Cohort) : (s.updCo id f).hostData = s.hostData := rfl
@[simp] theorem State.updCo_bad (s : State) (id : Nat) (f : Cohort → Cohort) : (s.updCo id f).bad = s.bad := rfl
@[simp] theorem State.updCo_cert (s : State) (id : Nat) (f : Cohort → Cohort) : (s.updCo id f).cert = s.cert := rfl
@[simp] theorem State.updCo_starve (s : State) (id : Nat) (f : Cohort → Cohort) : (s.updCo id f).starve = s.starve := rfl
@[simp] theorem State.updCo_after (s : State) (id : Nat) (f : Cohort → Cohort) : (s.updCo id f).after = s.after := rfl
@[simp] theorem State.updCo_signals (s : State) (id : Nat) (f : Cohort → Cohort) : (s.updCo id f).signals = s.signals := rfl
@[simp] theorem State.updCo_agenda (s : State) (id : Nat) (f : Cohort → Cohort) : (s.updCo id f).agenda = s.agenda := rfl
@[simp] theorem State.updCo_pick (s : State) (id : Nat) (f : Cohort → Cohort) : (s.updCo id f).pick = s.pick := rfl
@[simp] theorem State.updCo_focus (s : State) (id : Nat) (f : Cohort → Cohort) : (s.updCo id f).focus = s.focus := rfl
@[simp] theorem State.updCo_stalled (s : State) (id : Nat) (f : Cohort → Cohort) : (s.updCo id f).stalled = s.stalled := rfl
@[simp] theorem State.updCo_time (s : State) (id : Nat) (f : Cohort → Cohort) : (s.updCo id f).time = s.time := rfl
@[simp] theorem State.updCo_free (s : State) (id : Nat) (f : Cohort → Cohort) : (s.updCo id f).free = s.free := rfl

@[simp] theorem State.updGr_mem (s : State) (w : Who) (f : Group → Group) : (s.updGr w f).mem = s.mem := rfl
@[simp] theorem State.updGr_regs (s : State) (w : Who) (f : Group → Group) : (s.updGr w f).regs = s.regs := rfl
@[simp] theorem State.updGr_roots (s : State) (w : Who) (f : Group → Group) : (s.updGr w f).roots = s.roots := rfl
@[simp] theorem State.updGr_clusters (s : State) (w : Who) (f : Group → Group) : (s.updGr w f).clusters = s.clusters := rfl
@[simp] theorem State.updGr_cells (s : State) (w : Who) (f : Group → Group) : (s.updGr w f).cells = s.cells := rfl
@[simp] theorem State.updGr_tlbs (s : State) (w : Who) (f : Group → Group) : (s.updGr w f).tlbs = s.tlbs := rfl
@[simp] theorem State.updGr_nextCohort (s : State) (w : Who) (f : Group → Group) : (s.updGr w f).nextCohort = s.nextCohort := rfl
@[simp] theorem State.updGr_launches (s : State) (w : Who) (f : Group → Group) : (s.updGr w f).launches = s.launches := rfl
@[simp] theorem State.updGr_nextLaunch (s : State) (w : Who) (f : Group → Group) : (s.updGr w f).nextLaunch = s.nextLaunch := rfl
@[simp] theorem State.updGr_offers (s : State) (w : Who) (f : Group → Group) : (s.updGr w f).offers = s.offers := rfl
@[simp] theorem State.updGr_chains (s : State) (w : Who) (f : Group → Group) : (s.updGr w f).chains = s.chains := rfl
@[simp] theorem State.updGr_nodes (s : State) (w : Who) (f : Group → Group) : (s.updGr w f).nodes = s.nodes := rfl
@[simp] theorem State.updGr_cmds (s : State) (w : Who) (f : Group → Group) : (s.updGr w f).cmds = s.cmds := rfl
@[simp] theorem State.updGr_nextCmd (s : State) (w : Who) (f : Group → Group) : (s.updGr w f).nextCmd = s.nextCmd := rfl
@[simp] theorem State.updGr_cradle (s : State) (w : Who) (f : Group → Group) : (s.updGr w f).cradle = s.cradle := rfl
@[simp] theorem State.updGr_aged (s : State) (w : Who) (f : Group → Group) : (s.updGr w f).aged = s.aged := rfl
@[simp] theorem State.updGr_slices (s : State) (w : Who) (f : Group → Group) : (s.updGr w f).slices = s.slices := rfl
@[simp] theorem State.updGr_sent (s : State) (w : Who) (f : Group → Group) : (s.updGr w f).sent = s.sent := rfl
@[simp] theorem State.updGr_sc (s : State) (w : Who) (f : Group → Group) : (s.updGr w f).sc = s.sc := rfl
@[simp] theorem State.updGr_ticketDev (s : State) (w : Who) (f : Group → Group) : (s.updGr w f).ticketDev = s.ticketDev := rfl
@[simp] theorem State.updGr_ticketSys (s : State) (w : Who) (f : Group → Group) : (s.updGr w f).ticketSys = s.ticketSys := rfl
@[simp] theorem State.updGr_ords (s : State) (w : Who) (f : Group → Group) : (s.updGr w f).ords = s.ords := rfl
@[simp] theorem State.updGr_waits (s : State) (w : Who) (f : Group → Group) : (s.updGr w f).waits = s.waits := rfl
@[simp] theorem State.updGr_streams (s : State) (w : Who) (f : Group → Group) : (s.updGr w f).streams = s.streams := rfl
@[simp] theorem State.updGr_lmap (s : State) (w : Who) (f : Group → Group) : (s.updGr w f).lmap = s.lmap := rfl
@[simp] theorem State.updGr_fenced (s : State) (w : Who) (f : Group → Group) : (s.updGr w f).fenced = s.fenced := rfl
@[simp] theorem State.updGr_hot (s : State) (w : Who) (f : Group → Group) : (s.updGr w f).hot = s.hot := rfl
@[simp] theorem State.updGr_spares (s : State) (w : Who) (f : Group → Group) : (s.updGr w f).spares = s.spares := rfl
@[simp] theorem State.updGr_channels (s : State) (w : Who) (f : Group → Group) : (s.updGr w f).channels = s.channels := rfl
@[simp] theorem State.updGr_repairs (s : State) (w : Who) (f : Group → Group) : (s.updGr w f).repairs = s.repairs := rfl
@[simp] theorem State.updGr_vdstopped (s : State) (w : Who) (f : Group → Group) : (s.updGr w f).vdstopped = s.vdstopped := rfl
@[simp] theorem State.updGr_power (s : State) (w : Who) (f : Group → Group) : (s.updGr w f).power = s.power := rfl
@[simp] theorem State.updGr_flash (s : State) (w : Who) (f : Group → Group) : (s.updGr w f).flash = s.flash := rfl
@[simp] theorem State.updGr_flashPart (s : State) (w : Who) (f : Group → Group) : (s.updGr w f).flashPart = s.flashPart := rfl
@[simp] theorem State.updGr_image (s : State) (w : Who) (f : Group → Group) : (s.updGr w f).image = s.image := rfl
@[simp] theorem State.updGr_chunks (s : State) (w : Who) (f : Group → Group) : (s.updGr w f).chunks = s.chunks := rfl
@[simp] theorem State.updGr_adit (s : State) (w : Who) (f : Group → Group) : (s.updGr w f).adit = s.adit := rfl
@[simp] theorem State.updGr_msix (s : State) (w : Who) (f : Group → Group) : (s.updGr w f).msix = s.msix := rfl
@[simp] theorem State.updGr_hostData (s : State) (w : Who) (f : Group → Group) : (s.updGr w f).hostData = s.hostData := rfl
@[simp] theorem State.updGr_bad (s : State) (w : Who) (f : Group → Group) : (s.updGr w f).bad = s.bad := rfl
@[simp] theorem State.updGr_cert (s : State) (w : Who) (f : Group → Group) : (s.updGr w f).cert = s.cert := rfl
@[simp] theorem State.updGr_starve (s : State) (w : Who) (f : Group → Group) : (s.updGr w f).starve = s.starve := rfl
@[simp] theorem State.updGr_after (s : State) (w : Who) (f : Group → Group) : (s.updGr w f).after = s.after := rfl
@[simp] theorem State.updGr_signals (s : State) (w : Who) (f : Group → Group) : (s.updGr w f).signals = s.signals := rfl
@[simp] theorem State.updGr_agenda (s : State) (w : Who) (f : Group → Group) : (s.updGr w f).agenda = s.agenda := rfl
@[simp] theorem State.updGr_pick (s : State) (w : Who) (f : Group → Group) : (s.updGr w f).pick = s.pick := rfl
@[simp] theorem State.updGr_focus (s : State) (w : Who) (f : Group → Group) : (s.updGr w f).focus = s.focus := rfl
@[simp] theorem State.updGr_stalled (s : State) (w : Who) (f : Group → Group) : (s.updGr w f).stalled = s.stalled := rfl
@[simp] theorem State.updGr_time (s : State) (w : Who) (f : Group → Group) : (s.updGr w f).time = s.time := rfl
@[simp] theorem State.updGr_free (s : State) (w : Who) (f : Group → Group) : (s.updGr w f).free = s.free := rfl

@[simp] theorem State.updSp_mem (s : State) (w : Who) (f : Split → Split) : (s.updSp w f).mem = s.mem := rfl
@[simp] theorem State.updSp_regs (s : State) (w : Who) (f : Split → Split) : (s.updSp w f).regs = s.regs := rfl
@[simp] theorem State.updSp_roots (s : State) (w : Who) (f : Split → Split) : (s.updSp w f).roots = s.roots := rfl
@[simp] theorem State.updSp_clusters (s : State) (w : Who) (f : Split → Split) : (s.updSp w f).clusters = s.clusters := rfl
@[simp] theorem State.updSp_cells (s : State) (w : Who) (f : Split → Split) : (s.updSp w f).cells = s.cells := rfl
@[simp] theorem State.updSp_tlbs (s : State) (w : Who) (f : Split → Split) : (s.updSp w f).tlbs = s.tlbs := rfl
@[simp] theorem State.updSp_nextCohort (s : State) (w : Who) (f : Split → Split) : (s.updSp w f).nextCohort = s.nextCohort := rfl
@[simp] theorem State.updSp_launches (s : State) (w : Who) (f : Split → Split) : (s.updSp w f).launches = s.launches := rfl
@[simp] theorem State.updSp_nextLaunch (s : State) (w : Who) (f : Split → Split) : (s.updSp w f).nextLaunch = s.nextLaunch := rfl
@[simp] theorem State.updSp_offers (s : State) (w : Who) (f : Split → Split) : (s.updSp w f).offers = s.offers := rfl
@[simp] theorem State.updSp_chains (s : State) (w : Who) (f : Split → Split) : (s.updSp w f).chains = s.chains := rfl
@[simp] theorem State.updSp_nodes (s : State) (w : Who) (f : Split → Split) : (s.updSp w f).nodes = s.nodes := rfl
@[simp] theorem State.updSp_cmds (s : State) (w : Who) (f : Split → Split) : (s.updSp w f).cmds = s.cmds := rfl
@[simp] theorem State.updSp_nextCmd (s : State) (w : Who) (f : Split → Split) : (s.updSp w f).nextCmd = s.nextCmd := rfl
@[simp] theorem State.updSp_cradle (s : State) (w : Who) (f : Split → Split) : (s.updSp w f).cradle = s.cradle := rfl
@[simp] theorem State.updSp_aged (s : State) (w : Who) (f : Split → Split) : (s.updSp w f).aged = s.aged := rfl
@[simp] theorem State.updSp_slices (s : State) (w : Who) (f : Split → Split) : (s.updSp w f).slices = s.slices := rfl
@[simp] theorem State.updSp_sent (s : State) (w : Who) (f : Split → Split) : (s.updSp w f).sent = s.sent := rfl
@[simp] theorem State.updSp_sc (s : State) (w : Who) (f : Split → Split) : (s.updSp w f).sc = s.sc := rfl
@[simp] theorem State.updSp_ticketDev (s : State) (w : Who) (f : Split → Split) : (s.updSp w f).ticketDev = s.ticketDev := rfl
@[simp] theorem State.updSp_ticketSys (s : State) (w : Who) (f : Split → Split) : (s.updSp w f).ticketSys = s.ticketSys := rfl
@[simp] theorem State.updSp_ords (s : State) (w : Who) (f : Split → Split) : (s.updSp w f).ords = s.ords := rfl
@[simp] theorem State.updSp_waits (s : State) (w : Who) (f : Split → Split) : (s.updSp w f).waits = s.waits := rfl
@[simp] theorem State.updSp_streams (s : State) (w : Who) (f : Split → Split) : (s.updSp w f).streams = s.streams := rfl
@[simp] theorem State.updSp_lmap (s : State) (w : Who) (f : Split → Split) : (s.updSp w f).lmap = s.lmap := rfl
@[simp] theorem State.updSp_fenced (s : State) (w : Who) (f : Split → Split) : (s.updSp w f).fenced = s.fenced := rfl
@[simp] theorem State.updSp_hot (s : State) (w : Who) (f : Split → Split) : (s.updSp w f).hot = s.hot := rfl
@[simp] theorem State.updSp_spares (s : State) (w : Who) (f : Split → Split) : (s.updSp w f).spares = s.spares := rfl
@[simp] theorem State.updSp_channels (s : State) (w : Who) (f : Split → Split) : (s.updSp w f).channels = s.channels := rfl
@[simp] theorem State.updSp_repairs (s : State) (w : Who) (f : Split → Split) : (s.updSp w f).repairs = s.repairs := rfl
@[simp] theorem State.updSp_vdstopped (s : State) (w : Who) (f : Split → Split) : (s.updSp w f).vdstopped = s.vdstopped := rfl
@[simp] theorem State.updSp_power (s : State) (w : Who) (f : Split → Split) : (s.updSp w f).power = s.power := rfl
@[simp] theorem State.updSp_flash (s : State) (w : Who) (f : Split → Split) : (s.updSp w f).flash = s.flash := rfl
@[simp] theorem State.updSp_flashPart (s : State) (w : Who) (f : Split → Split) : (s.updSp w f).flashPart = s.flashPart := rfl
@[simp] theorem State.updSp_image (s : State) (w : Who) (f : Split → Split) : (s.updSp w f).image = s.image := rfl
@[simp] theorem State.updSp_chunks (s : State) (w : Who) (f : Split → Split) : (s.updSp w f).chunks = s.chunks := rfl
@[simp] theorem State.updSp_adit (s : State) (w : Who) (f : Split → Split) : (s.updSp w f).adit = s.adit := rfl
@[simp] theorem State.updSp_msix (s : State) (w : Who) (f : Split → Split) : (s.updSp w f).msix = s.msix := rfl
@[simp] theorem State.updSp_hostData (s : State) (w : Who) (f : Split → Split) : (s.updSp w f).hostData = s.hostData := rfl
@[simp] theorem State.updSp_bad (s : State) (w : Who) (f : Split → Split) : (s.updSp w f).bad = s.bad := rfl
@[simp] theorem State.updSp_cert (s : State) (w : Who) (f : Split → Split) : (s.updSp w f).cert = s.cert := rfl
@[simp] theorem State.updSp_starve (s : State) (w : Who) (f : Split → Split) : (s.updSp w f).starve = s.starve := rfl
@[simp] theorem State.updSp_after (s : State) (w : Who) (f : Split → Split) : (s.updSp w f).after = s.after := rfl
@[simp] theorem State.updSp_signals (s : State) (w : Who) (f : Split → Split) : (s.updSp w f).signals = s.signals := rfl
@[simp] theorem State.updSp_agenda (s : State) (w : Who) (f : Split → Split) : (s.updSp w f).agenda = s.agenda := rfl
@[simp] theorem State.updSp_pick (s : State) (w : Who) (f : Split → Split) : (s.updSp w f).pick = s.pick := rfl
@[simp] theorem State.updSp_focus (s : State) (w : Who) (f : Split → Split) : (s.updSp w f).focus = s.focus := rfl
@[simp] theorem State.updSp_stalled (s : State) (w : Who) (f : Split → Split) : (s.updSp w f).stalled = s.stalled := rfl
@[simp] theorem State.updSp_time (s : State) (w : Who) (f : Split → Split) : (s.updSp w f).time = s.time := rfl
@[simp] theorem State.updSp_free (s : State) (w : Who) (f : Split → Split) : (s.updSp w f).free = s.free := rfl

@[simp] theorem State.updLaunch_mem (s : State) (n : Nat) (f : Launch → Launch) : (s.updLaunch n f).mem = s.mem := rfl
@[simp] theorem State.updLaunch_regs (s : State) (n : Nat) (f : Launch → Launch) : (s.updLaunch n f).regs = s.regs := rfl
@[simp] theorem State.updLaunch_roots (s : State) (n : Nat) (f : Launch → Launch) : (s.updLaunch n f).roots = s.roots := rfl
@[simp] theorem State.updLaunch_clusters (s : State) (n : Nat) (f : Launch → Launch) : (s.updLaunch n f).clusters = s.clusters := rfl
@[simp] theorem State.updLaunch_cells (s : State) (n : Nat) (f : Launch → Launch) : (s.updLaunch n f).cells = s.cells := rfl
@[simp] theorem State.updLaunch_tlbs (s : State) (n : Nat) (f : Launch → Launch) : (s.updLaunch n f).tlbs = s.tlbs := rfl
@[simp] theorem State.updLaunch_cohorts (s : State) (n : Nat) (f : Launch → Launch) : (s.updLaunch n f).cohorts = s.cohorts := rfl
@[simp] theorem State.updLaunch_nextCohort (s : State) (n : Nat) (f : Launch → Launch) : (s.updLaunch n f).nextCohort = s.nextCohort := rfl
@[simp] theorem State.updLaunch_nextLaunch (s : State) (n : Nat) (f : Launch → Launch) : (s.updLaunch n f).nextLaunch = s.nextLaunch := rfl
@[simp] theorem State.updLaunch_offers (s : State) (n : Nat) (f : Launch → Launch) : (s.updLaunch n f).offers = s.offers := rfl
@[simp] theorem State.updLaunch_chains (s : State) (n : Nat) (f : Launch → Launch) : (s.updLaunch n f).chains = s.chains := rfl
@[simp] theorem State.updLaunch_nodes (s : State) (n : Nat) (f : Launch → Launch) : (s.updLaunch n f).nodes = s.nodes := rfl
@[simp] theorem State.updLaunch_cmds (s : State) (n : Nat) (f : Launch → Launch) : (s.updLaunch n f).cmds = s.cmds := rfl
@[simp] theorem State.updLaunch_nextCmd (s : State) (n : Nat) (f : Launch → Launch) : (s.updLaunch n f).nextCmd = s.nextCmd := rfl
@[simp] theorem State.updLaunch_cradle (s : State) (n : Nat) (f : Launch → Launch) : (s.updLaunch n f).cradle = s.cradle := rfl
@[simp] theorem State.updLaunch_aged (s : State) (n : Nat) (f : Launch → Launch) : (s.updLaunch n f).aged = s.aged := rfl
@[simp] theorem State.updLaunch_slices (s : State) (n : Nat) (f : Launch → Launch) : (s.updLaunch n f).slices = s.slices := rfl
@[simp] theorem State.updLaunch_sent (s : State) (n : Nat) (f : Launch → Launch) : (s.updLaunch n f).sent = s.sent := rfl
@[simp] theorem State.updLaunch_sc (s : State) (n : Nat) (f : Launch → Launch) : (s.updLaunch n f).sc = s.sc := rfl
@[simp] theorem State.updLaunch_ticketDev (s : State) (n : Nat) (f : Launch → Launch) : (s.updLaunch n f).ticketDev = s.ticketDev := rfl
@[simp] theorem State.updLaunch_ticketSys (s : State) (n : Nat) (f : Launch → Launch) : (s.updLaunch n f).ticketSys = s.ticketSys := rfl
@[simp] theorem State.updLaunch_ords (s : State) (n : Nat) (f : Launch → Launch) : (s.updLaunch n f).ords = s.ords := rfl
@[simp] theorem State.updLaunch_waits (s : State) (n : Nat) (f : Launch → Launch) : (s.updLaunch n f).waits = s.waits := rfl
@[simp] theorem State.updLaunch_streams (s : State) (n : Nat) (f : Launch → Launch) : (s.updLaunch n f).streams = s.streams := rfl
@[simp] theorem State.updLaunch_lmap (s : State) (n : Nat) (f : Launch → Launch) : (s.updLaunch n f).lmap = s.lmap := rfl
@[simp] theorem State.updLaunch_fenced (s : State) (n : Nat) (f : Launch → Launch) : (s.updLaunch n f).fenced = s.fenced := rfl
@[simp] theorem State.updLaunch_hot (s : State) (n : Nat) (f : Launch → Launch) : (s.updLaunch n f).hot = s.hot := rfl
@[simp] theorem State.updLaunch_spares (s : State) (n : Nat) (f : Launch → Launch) : (s.updLaunch n f).spares = s.spares := rfl
@[simp] theorem State.updLaunch_channels (s : State) (n : Nat) (f : Launch → Launch) : (s.updLaunch n f).channels = s.channels := rfl
@[simp] theorem State.updLaunch_repairs (s : State) (n : Nat) (f : Launch → Launch) : (s.updLaunch n f).repairs = s.repairs := rfl
@[simp] theorem State.updLaunch_vdstopped (s : State) (n : Nat) (f : Launch → Launch) : (s.updLaunch n f).vdstopped = s.vdstopped := rfl
@[simp] theorem State.updLaunch_power (s : State) (n : Nat) (f : Launch → Launch) : (s.updLaunch n f).power = s.power := rfl
@[simp] theorem State.updLaunch_flash (s : State) (n : Nat) (f : Launch → Launch) : (s.updLaunch n f).flash = s.flash := rfl
@[simp] theorem State.updLaunch_flashPart (s : State) (n : Nat) (f : Launch → Launch) : (s.updLaunch n f).flashPart = s.flashPart := rfl
@[simp] theorem State.updLaunch_image (s : State) (n : Nat) (f : Launch → Launch) : (s.updLaunch n f).image = s.image := rfl
@[simp] theorem State.updLaunch_chunks (s : State) (n : Nat) (f : Launch → Launch) : (s.updLaunch n f).chunks = s.chunks := rfl
@[simp] theorem State.updLaunch_adit (s : State) (n : Nat) (f : Launch → Launch) : (s.updLaunch n f).adit = s.adit := rfl
@[simp] theorem State.updLaunch_msix (s : State) (n : Nat) (f : Launch → Launch) : (s.updLaunch n f).msix = s.msix := rfl
@[simp] theorem State.updLaunch_hostData (s : State) (n : Nat) (f : Launch → Launch) : (s.updLaunch n f).hostData = s.hostData := rfl
@[simp] theorem State.updLaunch_bad (s : State) (n : Nat) (f : Launch → Launch) : (s.updLaunch n f).bad = s.bad := rfl
@[simp] theorem State.updLaunch_cert (s : State) (n : Nat) (f : Launch → Launch) : (s.updLaunch n f).cert = s.cert := rfl
@[simp] theorem State.updLaunch_starve (s : State) (n : Nat) (f : Launch → Launch) : (s.updLaunch n f).starve = s.starve := rfl
@[simp] theorem State.updLaunch_after (s : State) (n : Nat) (f : Launch → Launch) : (s.updLaunch n f).after = s.after := rfl
@[simp] theorem State.updLaunch_signals (s : State) (n : Nat) (f : Launch → Launch) : (s.updLaunch n f).signals = s.signals := rfl
@[simp] theorem State.updLaunch_agenda (s : State) (n : Nat) (f : Launch → Launch) : (s.updLaunch n f).agenda = s.agenda := rfl
@[simp] theorem State.updLaunch_pick (s : State) (n : Nat) (f : Launch → Launch) : (s.updLaunch n f).pick = s.pick := rfl
@[simp] theorem State.updLaunch_focus (s : State) (n : Nat) (f : Launch → Launch) : (s.updLaunch n f).focus = s.focus := rfl
@[simp] theorem State.updLaunch_stalled (s : State) (n : Nat) (f : Launch → Launch) : (s.updLaunch n f).stalled = s.stalled := rfl
@[simp] theorem State.updLaunch_time (s : State) (n : Nat) (f : Launch → Launch) : (s.updLaunch n f).time = s.time := rfl
@[simp] theorem State.updLaunch_free (s : State) (n : Nat) (f : Launch → Launch) : (s.updLaunch n f).free = s.free := rfl

@[simp] theorem State.updCluster_mem (s : State) (k : Nat) (f : Cluster → Cluster) : (s.updCluster k f).mem = s.mem := rfl
@[simp] theorem State.updCluster_regs (s : State) (k : Nat) (f : Cluster → Cluster) : (s.updCluster k f).regs = s.regs := rfl
@[simp] theorem State.updCluster_roots (s : State) (k : Nat) (f : Cluster → Cluster) : (s.updCluster k f).roots = s.roots := rfl
@[simp] theorem State.updCluster_cells (s : State) (k : Nat) (f : Cluster → Cluster) : (s.updCluster k f).cells = s.cells := rfl
@[simp] theorem State.updCluster_tlbs (s : State) (k : Nat) (f : Cluster → Cluster) : (s.updCluster k f).tlbs = s.tlbs := rfl
@[simp] theorem State.updCluster_cohorts (s : State) (k : Nat) (f : Cluster → Cluster) : (s.updCluster k f).cohorts = s.cohorts := rfl
@[simp] theorem State.updCluster_nextCohort (s : State) (k : Nat) (f : Cluster → Cluster) : (s.updCluster k f).nextCohort = s.nextCohort := rfl
@[simp] theorem State.updCluster_launches (s : State) (k : Nat) (f : Cluster → Cluster) : (s.updCluster k f).launches = s.launches := rfl
@[simp] theorem State.updCluster_nextLaunch (s : State) (k : Nat) (f : Cluster → Cluster) : (s.updCluster k f).nextLaunch = s.nextLaunch := rfl
@[simp] theorem State.updCluster_offers (s : State) (k : Nat) (f : Cluster → Cluster) : (s.updCluster k f).offers = s.offers := rfl
@[simp] theorem State.updCluster_chains (s : State) (k : Nat) (f : Cluster → Cluster) : (s.updCluster k f).chains = s.chains := rfl
@[simp] theorem State.updCluster_nodes (s : State) (k : Nat) (f : Cluster → Cluster) : (s.updCluster k f).nodes = s.nodes := rfl
@[simp] theorem State.updCluster_cmds (s : State) (k : Nat) (f : Cluster → Cluster) : (s.updCluster k f).cmds = s.cmds := rfl
@[simp] theorem State.updCluster_nextCmd (s : State) (k : Nat) (f : Cluster → Cluster) : (s.updCluster k f).nextCmd = s.nextCmd := rfl
@[simp] theorem State.updCluster_cradle (s : State) (k : Nat) (f : Cluster → Cluster) : (s.updCluster k f).cradle = s.cradle := rfl
@[simp] theorem State.updCluster_aged (s : State) (k : Nat) (f : Cluster → Cluster) : (s.updCluster k f).aged = s.aged := rfl
@[simp] theorem State.updCluster_slices (s : State) (k : Nat) (f : Cluster → Cluster) : (s.updCluster k f).slices = s.slices := rfl
@[simp] theorem State.updCluster_sent (s : State) (k : Nat) (f : Cluster → Cluster) : (s.updCluster k f).sent = s.sent := rfl
@[simp] theorem State.updCluster_sc (s : State) (k : Nat) (f : Cluster → Cluster) : (s.updCluster k f).sc = s.sc := rfl
@[simp] theorem State.updCluster_ticketDev (s : State) (k : Nat) (f : Cluster → Cluster) : (s.updCluster k f).ticketDev = s.ticketDev := rfl
@[simp] theorem State.updCluster_ticketSys (s : State) (k : Nat) (f : Cluster → Cluster) : (s.updCluster k f).ticketSys = s.ticketSys := rfl
@[simp] theorem State.updCluster_ords (s : State) (k : Nat) (f : Cluster → Cluster) : (s.updCluster k f).ords = s.ords := rfl
@[simp] theorem State.updCluster_waits (s : State) (k : Nat) (f : Cluster → Cluster) : (s.updCluster k f).waits = s.waits := rfl
@[simp] theorem State.updCluster_streams (s : State) (k : Nat) (f : Cluster → Cluster) : (s.updCluster k f).streams = s.streams := rfl
@[simp] theorem State.updCluster_lmap (s : State) (k : Nat) (f : Cluster → Cluster) : (s.updCluster k f).lmap = s.lmap := rfl
@[simp] theorem State.updCluster_fenced (s : State) (k : Nat) (f : Cluster → Cluster) : (s.updCluster k f).fenced = s.fenced := rfl
@[simp] theorem State.updCluster_hot (s : State) (k : Nat) (f : Cluster → Cluster) : (s.updCluster k f).hot = s.hot := rfl
@[simp] theorem State.updCluster_spares (s : State) (k : Nat) (f : Cluster → Cluster) : (s.updCluster k f).spares = s.spares := rfl
@[simp] theorem State.updCluster_channels (s : State) (k : Nat) (f : Cluster → Cluster) : (s.updCluster k f).channels = s.channels := rfl
@[simp] theorem State.updCluster_repairs (s : State) (k : Nat) (f : Cluster → Cluster) : (s.updCluster k f).repairs = s.repairs := rfl
@[simp] theorem State.updCluster_vdstopped (s : State) (k : Nat) (f : Cluster → Cluster) : (s.updCluster k f).vdstopped = s.vdstopped := rfl
@[simp] theorem State.updCluster_power (s : State) (k : Nat) (f : Cluster → Cluster) : (s.updCluster k f).power = s.power := rfl
@[simp] theorem State.updCluster_flash (s : State) (k : Nat) (f : Cluster → Cluster) : (s.updCluster k f).flash = s.flash := rfl
@[simp] theorem State.updCluster_flashPart (s : State) (k : Nat) (f : Cluster → Cluster) : (s.updCluster k f).flashPart = s.flashPart := rfl
@[simp] theorem State.updCluster_image (s : State) (k : Nat) (f : Cluster → Cluster) : (s.updCluster k f).image = s.image := rfl
@[simp] theorem State.updCluster_chunks (s : State) (k : Nat) (f : Cluster → Cluster) : (s.updCluster k f).chunks = s.chunks := rfl
@[simp] theorem State.updCluster_adit (s : State) (k : Nat) (f : Cluster → Cluster) : (s.updCluster k f).adit = s.adit := rfl
@[simp] theorem State.updCluster_msix (s : State) (k : Nat) (f : Cluster → Cluster) : (s.updCluster k f).msix = s.msix := rfl
@[simp] theorem State.updCluster_hostData (s : State) (k : Nat) (f : Cluster → Cluster) : (s.updCluster k f).hostData = s.hostData := rfl
@[simp] theorem State.updCluster_bad (s : State) (k : Nat) (f : Cluster → Cluster) : (s.updCluster k f).bad = s.bad := rfl
@[simp] theorem State.updCluster_cert (s : State) (k : Nat) (f : Cluster → Cluster) : (s.updCluster k f).cert = s.cert := rfl
@[simp] theorem State.updCluster_starve (s : State) (k : Nat) (f : Cluster → Cluster) : (s.updCluster k f).starve = s.starve := rfl
@[simp] theorem State.updCluster_after (s : State) (k : Nat) (f : Cluster → Cluster) : (s.updCluster k f).after = s.after := rfl
@[simp] theorem State.updCluster_signals (s : State) (k : Nat) (f : Cluster → Cluster) : (s.updCluster k f).signals = s.signals := rfl
@[simp] theorem State.updCluster_agenda (s : State) (k : Nat) (f : Cluster → Cluster) : (s.updCluster k f).agenda = s.agenda := rfl
@[simp] theorem State.updCluster_pick (s : State) (k : Nat) (f : Cluster → Cluster) : (s.updCluster k f).pick = s.pick := rfl
@[simp] theorem State.updCluster_focus (s : State) (k : Nat) (f : Cluster → Cluster) : (s.updCluster k f).focus = s.focus := rfl
@[simp] theorem State.updCluster_stalled (s : State) (k : Nat) (f : Cluster → Cluster) : (s.updCluster k f).stalled = s.stalled := rfl
@[simp] theorem State.updCluster_time (s : State) (k : Nat) (f : Cluster → Cluster) : (s.updCluster k f).time = s.time := rfl
@[simp] theorem State.updCluster_free (s : State) (k : Nat) (f : Cluster → Cluster) : (s.updCluster k f).free = s.free := rfl

@[simp] theorem State.updCell_mem (s : State) (k : Nat) (f : Cell → Cell) : (s.updCell k f).mem = s.mem := rfl
@[simp] theorem State.updCell_regs (s : State) (k : Nat) (f : Cell → Cell) : (s.updCell k f).regs = s.regs := rfl
@[simp] theorem State.updCell_roots (s : State) (k : Nat) (f : Cell → Cell) : (s.updCell k f).roots = s.roots := rfl
@[simp] theorem State.updCell_clusters (s : State) (k : Nat) (f : Cell → Cell) : (s.updCell k f).clusters = s.clusters := rfl
@[simp] theorem State.updCell_tlbs (s : State) (k : Nat) (f : Cell → Cell) : (s.updCell k f).tlbs = s.tlbs := rfl
@[simp] theorem State.updCell_cohorts (s : State) (k : Nat) (f : Cell → Cell) : (s.updCell k f).cohorts = s.cohorts := rfl
@[simp] theorem State.updCell_nextCohort (s : State) (k : Nat) (f : Cell → Cell) : (s.updCell k f).nextCohort = s.nextCohort := rfl
@[simp] theorem State.updCell_launches (s : State) (k : Nat) (f : Cell → Cell) : (s.updCell k f).launches = s.launches := rfl
@[simp] theorem State.updCell_nextLaunch (s : State) (k : Nat) (f : Cell → Cell) : (s.updCell k f).nextLaunch = s.nextLaunch := rfl
@[simp] theorem State.updCell_offers (s : State) (k : Nat) (f : Cell → Cell) : (s.updCell k f).offers = s.offers := rfl
@[simp] theorem State.updCell_chains (s : State) (k : Nat) (f : Cell → Cell) : (s.updCell k f).chains = s.chains := rfl
@[simp] theorem State.updCell_nodes (s : State) (k : Nat) (f : Cell → Cell) : (s.updCell k f).nodes = s.nodes := rfl
@[simp] theorem State.updCell_cmds (s : State) (k : Nat) (f : Cell → Cell) : (s.updCell k f).cmds = s.cmds := rfl
@[simp] theorem State.updCell_nextCmd (s : State) (k : Nat) (f : Cell → Cell) : (s.updCell k f).nextCmd = s.nextCmd := rfl
@[simp] theorem State.updCell_cradle (s : State) (k : Nat) (f : Cell → Cell) : (s.updCell k f).cradle = s.cradle := rfl
@[simp] theorem State.updCell_aged (s : State) (k : Nat) (f : Cell → Cell) : (s.updCell k f).aged = s.aged := rfl
@[simp] theorem State.updCell_slices (s : State) (k : Nat) (f : Cell → Cell) : (s.updCell k f).slices = s.slices := rfl
@[simp] theorem State.updCell_sent (s : State) (k : Nat) (f : Cell → Cell) : (s.updCell k f).sent = s.sent := rfl
@[simp] theorem State.updCell_sc (s : State) (k : Nat) (f : Cell → Cell) : (s.updCell k f).sc = s.sc := rfl
@[simp] theorem State.updCell_ticketDev (s : State) (k : Nat) (f : Cell → Cell) : (s.updCell k f).ticketDev = s.ticketDev := rfl
@[simp] theorem State.updCell_ticketSys (s : State) (k : Nat) (f : Cell → Cell) : (s.updCell k f).ticketSys = s.ticketSys := rfl
@[simp] theorem State.updCell_ords (s : State) (k : Nat) (f : Cell → Cell) : (s.updCell k f).ords = s.ords := rfl
@[simp] theorem State.updCell_waits (s : State) (k : Nat) (f : Cell → Cell) : (s.updCell k f).waits = s.waits := rfl
@[simp] theorem State.updCell_streams (s : State) (k : Nat) (f : Cell → Cell) : (s.updCell k f).streams = s.streams := rfl
@[simp] theorem State.updCell_lmap (s : State) (k : Nat) (f : Cell → Cell) : (s.updCell k f).lmap = s.lmap := rfl
@[simp] theorem State.updCell_fenced (s : State) (k : Nat) (f : Cell → Cell) : (s.updCell k f).fenced = s.fenced := rfl
@[simp] theorem State.updCell_hot (s : State) (k : Nat) (f : Cell → Cell) : (s.updCell k f).hot = s.hot := rfl
@[simp] theorem State.updCell_spares (s : State) (k : Nat) (f : Cell → Cell) : (s.updCell k f).spares = s.spares := rfl
@[simp] theorem State.updCell_channels (s : State) (k : Nat) (f : Cell → Cell) : (s.updCell k f).channels = s.channels := rfl
@[simp] theorem State.updCell_repairs (s : State) (k : Nat) (f : Cell → Cell) : (s.updCell k f).repairs = s.repairs := rfl
@[simp] theorem State.updCell_vdstopped (s : State) (k : Nat) (f : Cell → Cell) : (s.updCell k f).vdstopped = s.vdstopped := rfl
@[simp] theorem State.updCell_power (s : State) (k : Nat) (f : Cell → Cell) : (s.updCell k f).power = s.power := rfl
@[simp] theorem State.updCell_flash (s : State) (k : Nat) (f : Cell → Cell) : (s.updCell k f).flash = s.flash := rfl
@[simp] theorem State.updCell_flashPart (s : State) (k : Nat) (f : Cell → Cell) : (s.updCell k f).flashPart = s.flashPart := rfl
@[simp] theorem State.updCell_image (s : State) (k : Nat) (f : Cell → Cell) : (s.updCell k f).image = s.image := rfl
@[simp] theorem State.updCell_chunks (s : State) (k : Nat) (f : Cell → Cell) : (s.updCell k f).chunks = s.chunks := rfl
@[simp] theorem State.updCell_adit (s : State) (k : Nat) (f : Cell → Cell) : (s.updCell k f).adit = s.adit := rfl
@[simp] theorem State.updCell_msix (s : State) (k : Nat) (f : Cell → Cell) : (s.updCell k f).msix = s.msix := rfl
@[simp] theorem State.updCell_hostData (s : State) (k : Nat) (f : Cell → Cell) : (s.updCell k f).hostData = s.hostData := rfl
@[simp] theorem State.updCell_bad (s : State) (k : Nat) (f : Cell → Cell) : (s.updCell k f).bad = s.bad := rfl
@[simp] theorem State.updCell_cert (s : State) (k : Nat) (f : Cell → Cell) : (s.updCell k f).cert = s.cert := rfl
@[simp] theorem State.updCell_starve (s : State) (k : Nat) (f : Cell → Cell) : (s.updCell k f).starve = s.starve := rfl
@[simp] theorem State.updCell_after (s : State) (k : Nat) (f : Cell → Cell) : (s.updCell k f).after = s.after := rfl
@[simp] theorem State.updCell_signals (s : State) (k : Nat) (f : Cell → Cell) : (s.updCell k f).signals = s.signals := rfl
@[simp] theorem State.updCell_agenda (s : State) (k : Nat) (f : Cell → Cell) : (s.updCell k f).agenda = s.agenda := rfl
@[simp] theorem State.updCell_pick (s : State) (k : Nat) (f : Cell → Cell) : (s.updCell k f).pick = s.pick := rfl
@[simp] theorem State.updCell_focus (s : State) (k : Nat) (f : Cell → Cell) : (s.updCell k f).focus = s.focus := rfl
@[simp] theorem State.updCell_stalled (s : State) (k : Nat) (f : Cell → Cell) : (s.updCell k f).stalled = s.stalled := rfl
@[simp] theorem State.updCell_time (s : State) (k : Nat) (f : Cell → Cell) : (s.updCell k f).time = s.time := rfl
@[simp] theorem State.updCell_free (s : State) (k : Nat) (f : Cell → Cell) : (s.updCell k f).free = s.free := rfl

@[simp] theorem State.setReg_mem (s : State) (o : Nat) (v : BitVec 64) : (s.setReg o v).mem = s.mem := rfl
@[simp] theorem State.setReg_roots (s : State) (o : Nat) (v : BitVec 64) : (s.setReg o v).roots = s.roots := rfl
@[simp] theorem State.setReg_clusters (s : State) (o : Nat) (v : BitVec 64) : (s.setReg o v).clusters = s.clusters := rfl
@[simp] theorem State.setReg_cells (s : State) (o : Nat) (v : BitVec 64) : (s.setReg o v).cells = s.cells := rfl
@[simp] theorem State.setReg_tlbs (s : State) (o : Nat) (v : BitVec 64) : (s.setReg o v).tlbs = s.tlbs := rfl
@[simp] theorem State.setReg_cohorts (s : State) (o : Nat) (v : BitVec 64) : (s.setReg o v).cohorts = s.cohorts := rfl
@[simp] theorem State.setReg_nextCohort (s : State) (o : Nat) (v : BitVec 64) : (s.setReg o v).nextCohort = s.nextCohort := rfl
@[simp] theorem State.setReg_launches (s : State) (o : Nat) (v : BitVec 64) : (s.setReg o v).launches = s.launches := rfl
@[simp] theorem State.setReg_nextLaunch (s : State) (o : Nat) (v : BitVec 64) : (s.setReg o v).nextLaunch = s.nextLaunch := rfl
@[simp] theorem State.setReg_offers (s : State) (o : Nat) (v : BitVec 64) : (s.setReg o v).offers = s.offers := rfl
@[simp] theorem State.setReg_chains (s : State) (o : Nat) (v : BitVec 64) : (s.setReg o v).chains = s.chains := rfl
@[simp] theorem State.setReg_nodes (s : State) (o : Nat) (v : BitVec 64) : (s.setReg o v).nodes = s.nodes := rfl
@[simp] theorem State.setReg_cmds (s : State) (o : Nat) (v : BitVec 64) : (s.setReg o v).cmds = s.cmds := rfl
@[simp] theorem State.setReg_nextCmd (s : State) (o : Nat) (v : BitVec 64) : (s.setReg o v).nextCmd = s.nextCmd := rfl
@[simp] theorem State.setReg_cradle (s : State) (o : Nat) (v : BitVec 64) : (s.setReg o v).cradle = s.cradle := rfl
@[simp] theorem State.setReg_aged (s : State) (o : Nat) (v : BitVec 64) : (s.setReg o v).aged = s.aged := rfl
@[simp] theorem State.setReg_slices (s : State) (o : Nat) (v : BitVec 64) : (s.setReg o v).slices = s.slices := rfl
@[simp] theorem State.setReg_sent (s : State) (o : Nat) (v : BitVec 64) : (s.setReg o v).sent = s.sent := rfl
@[simp] theorem State.setReg_sc (s : State) (o : Nat) (v : BitVec 64) : (s.setReg o v).sc = s.sc := rfl
@[simp] theorem State.setReg_ticketDev (s : State) (o : Nat) (v : BitVec 64) : (s.setReg o v).ticketDev = s.ticketDev := rfl
@[simp] theorem State.setReg_ticketSys (s : State) (o : Nat) (v : BitVec 64) : (s.setReg o v).ticketSys = s.ticketSys := rfl
@[simp] theorem State.setReg_ords (s : State) (o : Nat) (v : BitVec 64) : (s.setReg o v).ords = s.ords := rfl
@[simp] theorem State.setReg_waits (s : State) (o : Nat) (v : BitVec 64) : (s.setReg o v).waits = s.waits := rfl
@[simp] theorem State.setReg_streams (s : State) (o : Nat) (v : BitVec 64) : (s.setReg o v).streams = s.streams := rfl
@[simp] theorem State.setReg_lmap (s : State) (o : Nat) (v : BitVec 64) : (s.setReg o v).lmap = s.lmap := rfl
@[simp] theorem State.setReg_fenced (s : State) (o : Nat) (v : BitVec 64) : (s.setReg o v).fenced = s.fenced := rfl
@[simp] theorem State.setReg_hot (s : State) (o : Nat) (v : BitVec 64) : (s.setReg o v).hot = s.hot := rfl
@[simp] theorem State.setReg_spares (s : State) (o : Nat) (v : BitVec 64) : (s.setReg o v).spares = s.spares := rfl
@[simp] theorem State.setReg_channels (s : State) (o : Nat) (v : BitVec 64) : (s.setReg o v).channels = s.channels := rfl
@[simp] theorem State.setReg_repairs (s : State) (o : Nat) (v : BitVec 64) : (s.setReg o v).repairs = s.repairs := rfl
@[simp] theorem State.setReg_vdstopped (s : State) (o : Nat) (v : BitVec 64) : (s.setReg o v).vdstopped = s.vdstopped := rfl
@[simp] theorem State.setReg_power (s : State) (o : Nat) (v : BitVec 64) : (s.setReg o v).power = s.power := rfl
@[simp] theorem State.setReg_flash (s : State) (o : Nat) (v : BitVec 64) : (s.setReg o v).flash = s.flash := rfl
@[simp] theorem State.setReg_flashPart (s : State) (o : Nat) (v : BitVec 64) : (s.setReg o v).flashPart = s.flashPart := rfl
@[simp] theorem State.setReg_image (s : State) (o : Nat) (v : BitVec 64) : (s.setReg o v).image = s.image := rfl
@[simp] theorem State.setReg_chunks (s : State) (o : Nat) (v : BitVec 64) : (s.setReg o v).chunks = s.chunks := rfl
@[simp] theorem State.setReg_adit (s : State) (o : Nat) (v : BitVec 64) : (s.setReg o v).adit = s.adit := rfl
@[simp] theorem State.setReg_msix (s : State) (o : Nat) (v : BitVec 64) : (s.setReg o v).msix = s.msix := rfl
@[simp] theorem State.setReg_hostData (s : State) (o : Nat) (v : BitVec 64) : (s.setReg o v).hostData = s.hostData := rfl
@[simp] theorem State.setReg_bad (s : State) (o : Nat) (v : BitVec 64) : (s.setReg o v).bad = s.bad := rfl
@[simp] theorem State.setReg_cert (s : State) (o : Nat) (v : BitVec 64) : (s.setReg o v).cert = s.cert := rfl
@[simp] theorem State.setReg_starve (s : State) (o : Nat) (v : BitVec 64) : (s.setReg o v).starve = s.starve := rfl
@[simp] theorem State.setReg_after (s : State) (o : Nat) (v : BitVec 64) : (s.setReg o v).after = s.after := rfl
@[simp] theorem State.setReg_signals (s : State) (o : Nat) (v : BitVec 64) : (s.setReg o v).signals = s.signals := rfl
@[simp] theorem State.setReg_agenda (s : State) (o : Nat) (v : BitVec 64) : (s.setReg o v).agenda = s.agenda := rfl
@[simp] theorem State.setReg_pick (s : State) (o : Nat) (v : BitVec 64) : (s.setReg o v).pick = s.pick := rfl
@[simp] theorem State.setReg_focus (s : State) (o : Nat) (v : BitVec 64) : (s.setReg o v).focus = s.focus := rfl
@[simp] theorem State.setReg_stalled (s : State) (o : Nat) (v : BitVec 64) : (s.setReg o v).stalled = s.stalled := rfl
@[simp] theorem State.setReg_time (s : State) (o : Nat) (v : BitVec 64) : (s.setReg o v).time = s.time := rfl
@[simp] theorem State.setReg_free (s : State) (o : Nat) (v : BitVec 64) : (s.setReg o v).free = s.free := rfl

@[simp] theorem State.rawWrite_regs (s : State) (k : Nat) (bs : List Byte) : (s.rawWrite k bs).regs = s.regs := rfl
@[simp] theorem State.rawWrite_roots (s : State) (k : Nat) (bs : List Byte) : (s.rawWrite k bs).roots = s.roots := rfl
@[simp] theorem State.rawWrite_clusters (s : State) (k : Nat) (bs : List Byte) : (s.rawWrite k bs).clusters = s.clusters := rfl
@[simp] theorem State.rawWrite_cells (s : State) (k : Nat) (bs : List Byte) : (s.rawWrite k bs).cells = s.cells := rfl
@[simp] theorem State.rawWrite_tlbs (s : State) (k : Nat) (bs : List Byte) : (s.rawWrite k bs).tlbs = s.tlbs := rfl
@[simp] theorem State.rawWrite_cohorts (s : State) (k : Nat) (bs : List Byte) : (s.rawWrite k bs).cohorts = s.cohorts := rfl
@[simp] theorem State.rawWrite_nextCohort (s : State) (k : Nat) (bs : List Byte) : (s.rawWrite k bs).nextCohort = s.nextCohort := rfl
@[simp] theorem State.rawWrite_launches (s : State) (k : Nat) (bs : List Byte) : (s.rawWrite k bs).launches = s.launches := rfl
@[simp] theorem State.rawWrite_nextLaunch (s : State) (k : Nat) (bs : List Byte) : (s.rawWrite k bs).nextLaunch = s.nextLaunch := rfl
@[simp] theorem State.rawWrite_offers (s : State) (k : Nat) (bs : List Byte) : (s.rawWrite k bs).offers = s.offers := rfl
@[simp] theorem State.rawWrite_chains (s : State) (k : Nat) (bs : List Byte) : (s.rawWrite k bs).chains = s.chains := rfl
@[simp] theorem State.rawWrite_nodes (s : State) (k : Nat) (bs : List Byte) : (s.rawWrite k bs).nodes = s.nodes := rfl
@[simp] theorem State.rawWrite_cmds (s : State) (k : Nat) (bs : List Byte) : (s.rawWrite k bs).cmds = s.cmds := rfl
@[simp] theorem State.rawWrite_nextCmd (s : State) (k : Nat) (bs : List Byte) : (s.rawWrite k bs).nextCmd = s.nextCmd := rfl
@[simp] theorem State.rawWrite_cradle (s : State) (k : Nat) (bs : List Byte) : (s.rawWrite k bs).cradle = s.cradle := rfl
@[simp] theorem State.rawWrite_aged (s : State) (k : Nat) (bs : List Byte) : (s.rawWrite k bs).aged = s.aged := rfl
@[simp] theorem State.rawWrite_slices (s : State) (k : Nat) (bs : List Byte) : (s.rawWrite k bs).slices = s.slices := rfl
@[simp] theorem State.rawWrite_sent (s : State) (k : Nat) (bs : List Byte) : (s.rawWrite k bs).sent = s.sent := rfl
@[simp] theorem State.rawWrite_sc (s : State) (k : Nat) (bs : List Byte) : (s.rawWrite k bs).sc = s.sc := rfl
@[simp] theorem State.rawWrite_ticketDev (s : State) (k : Nat) (bs : List Byte) : (s.rawWrite k bs).ticketDev = s.ticketDev := rfl
@[simp] theorem State.rawWrite_ticketSys (s : State) (k : Nat) (bs : List Byte) : (s.rawWrite k bs).ticketSys = s.ticketSys := rfl
@[simp] theorem State.rawWrite_ords (s : State) (k : Nat) (bs : List Byte) : (s.rawWrite k bs).ords = s.ords := rfl
@[simp] theorem State.rawWrite_waits (s : State) (k : Nat) (bs : List Byte) : (s.rawWrite k bs).waits = s.waits := rfl
@[simp] theorem State.rawWrite_streams (s : State) (k : Nat) (bs : List Byte) : (s.rawWrite k bs).streams = s.streams := rfl
@[simp] theorem State.rawWrite_lmap (s : State) (k : Nat) (bs : List Byte) : (s.rawWrite k bs).lmap = s.lmap := rfl
@[simp] theorem State.rawWrite_fenced (s : State) (k : Nat) (bs : List Byte) : (s.rawWrite k bs).fenced = s.fenced := rfl
@[simp] theorem State.rawWrite_hot (s : State) (k : Nat) (bs : List Byte) : (s.rawWrite k bs).hot = s.hot := rfl
@[simp] theorem State.rawWrite_spares (s : State) (k : Nat) (bs : List Byte) : (s.rawWrite k bs).spares = s.spares := rfl
@[simp] theorem State.rawWrite_channels (s : State) (k : Nat) (bs : List Byte) : (s.rawWrite k bs).channels = s.channels := rfl
@[simp] theorem State.rawWrite_repairs (s : State) (k : Nat) (bs : List Byte) : (s.rawWrite k bs).repairs = s.repairs := rfl
@[simp] theorem State.rawWrite_vdstopped (s : State) (k : Nat) (bs : List Byte) : (s.rawWrite k bs).vdstopped = s.vdstopped := rfl
@[simp] theorem State.rawWrite_power (s : State) (k : Nat) (bs : List Byte) : (s.rawWrite k bs).power = s.power := rfl
@[simp] theorem State.rawWrite_flash (s : State) (k : Nat) (bs : List Byte) : (s.rawWrite k bs).flash = s.flash := rfl
@[simp] theorem State.rawWrite_flashPart (s : State) (k : Nat) (bs : List Byte) : (s.rawWrite k bs).flashPart = s.flashPart := rfl
@[simp] theorem State.rawWrite_image (s : State) (k : Nat) (bs : List Byte) : (s.rawWrite k bs).image = s.image := rfl
@[simp] theorem State.rawWrite_chunks (s : State) (k : Nat) (bs : List Byte) : (s.rawWrite k bs).chunks = s.chunks := rfl
@[simp] theorem State.rawWrite_adit (s : State) (k : Nat) (bs : List Byte) : (s.rawWrite k bs).adit = s.adit := rfl
@[simp] theorem State.rawWrite_msix (s : State) (k : Nat) (bs : List Byte) : (s.rawWrite k bs).msix = s.msix := rfl
@[simp] theorem State.rawWrite_hostData (s : State) (k : Nat) (bs : List Byte) : (s.rawWrite k bs).hostData = s.hostData := rfl
@[simp] theorem State.rawWrite_bad (s : State) (k : Nat) (bs : List Byte) : (s.rawWrite k bs).bad = s.bad := rfl
@[simp] theorem State.rawWrite_cert (s : State) (k : Nat) (bs : List Byte) : (s.rawWrite k bs).cert = s.cert := rfl
@[simp] theorem State.rawWrite_starve (s : State) (k : Nat) (bs : List Byte) : (s.rawWrite k bs).starve = s.starve := rfl
@[simp] theorem State.rawWrite_after (s : State) (k : Nat) (bs : List Byte) : (s.rawWrite k bs).after = s.after := rfl
@[simp] theorem State.rawWrite_signals (s : State) (k : Nat) (bs : List Byte) : (s.rawWrite k bs).signals = s.signals := rfl
@[simp] theorem State.rawWrite_agenda (s : State) (k : Nat) (bs : List Byte) : (s.rawWrite k bs).agenda = s.agenda := rfl
@[simp] theorem State.rawWrite_pick (s : State) (k : Nat) (bs : List Byte) : (s.rawWrite k bs).pick = s.pick := rfl
@[simp] theorem State.rawWrite_focus (s : State) (k : Nat) (bs : List Byte) : (s.rawWrite k bs).focus = s.focus := rfl
@[simp] theorem State.rawWrite_stalled (s : State) (k : Nat) (bs : List Byte) : (s.rawWrite k bs).stalled = s.stalled := rfl
@[simp] theorem State.rawWrite_time (s : State) (k : Nat) (bs : List Byte) : (s.rawWrite k bs).time = s.time := rfl
@[simp] theorem State.rawWrite_free (s : State) (k : Nat) (bs : List Byte) : (s.rawWrite k bs).free = s.free := rfl

@[simp] theorem State.signal_mem (s : State) (g : Signal) : (s.signal g).mem = s.mem := rfl
@[simp] theorem State.signal_regs (s : State) (g : Signal) : (s.signal g).regs = s.regs := rfl
@[simp] theorem State.signal_roots (s : State) (g : Signal) : (s.signal g).roots = s.roots := rfl
@[simp] theorem State.signal_clusters (s : State) (g : Signal) : (s.signal g).clusters = s.clusters := rfl
@[simp] theorem State.signal_cells (s : State) (g : Signal) : (s.signal g).cells = s.cells := rfl
@[simp] theorem State.signal_tlbs (s : State) (g : Signal) : (s.signal g).tlbs = s.tlbs := rfl
@[simp] theorem State.signal_cohorts (s : State) (g : Signal) : (s.signal g).cohorts = s.cohorts := rfl
@[simp] theorem State.signal_nextCohort (s : State) (g : Signal) : (s.signal g).nextCohort = s.nextCohort := rfl
@[simp] theorem State.signal_launches (s : State) (g : Signal) : (s.signal g).launches = s.launches := rfl
@[simp] theorem State.signal_nextLaunch (s : State) (g : Signal) : (s.signal g).nextLaunch = s.nextLaunch := rfl
@[simp] theorem State.signal_offers (s : State) (g : Signal) : (s.signal g).offers = s.offers := rfl
@[simp] theorem State.signal_chains (s : State) (g : Signal) : (s.signal g).chains = s.chains := rfl
@[simp] theorem State.signal_nodes (s : State) (g : Signal) : (s.signal g).nodes = s.nodes := rfl
@[simp] theorem State.signal_cmds (s : State) (g : Signal) : (s.signal g).cmds = s.cmds := rfl
@[simp] theorem State.signal_nextCmd (s : State) (g : Signal) : (s.signal g).nextCmd = s.nextCmd := rfl
@[simp] theorem State.signal_cradle (s : State) (g : Signal) : (s.signal g).cradle = s.cradle := rfl
@[simp] theorem State.signal_aged (s : State) (g : Signal) : (s.signal g).aged = s.aged := rfl
@[simp] theorem State.signal_slices (s : State) (g : Signal) : (s.signal g).slices = s.slices := rfl
@[simp] theorem State.signal_sent (s : State) (g : Signal) : (s.signal g).sent = s.sent := rfl
@[simp] theorem State.signal_sc (s : State) (g : Signal) : (s.signal g).sc = s.sc := rfl
@[simp] theorem State.signal_ticketDev (s : State) (g : Signal) : (s.signal g).ticketDev = s.ticketDev := rfl
@[simp] theorem State.signal_ticketSys (s : State) (g : Signal) : (s.signal g).ticketSys = s.ticketSys := rfl
@[simp] theorem State.signal_ords (s : State) (g : Signal) : (s.signal g).ords = s.ords := rfl
@[simp] theorem State.signal_waits (s : State) (g : Signal) : (s.signal g).waits = s.waits := rfl
@[simp] theorem State.signal_streams (s : State) (g : Signal) : (s.signal g).streams = s.streams := rfl
@[simp] theorem State.signal_lmap (s : State) (g : Signal) : (s.signal g).lmap = s.lmap := rfl
@[simp] theorem State.signal_fenced (s : State) (g : Signal) : (s.signal g).fenced = s.fenced := rfl
@[simp] theorem State.signal_hot (s : State) (g : Signal) : (s.signal g).hot = s.hot := rfl
@[simp] theorem State.signal_spares (s : State) (g : Signal) : (s.signal g).spares = s.spares := rfl
@[simp] theorem State.signal_channels (s : State) (g : Signal) : (s.signal g).channels = s.channels := rfl
@[simp] theorem State.signal_repairs (s : State) (g : Signal) : (s.signal g).repairs = s.repairs := rfl
@[simp] theorem State.signal_vdstopped (s : State) (g : Signal) : (s.signal g).vdstopped = s.vdstopped := rfl
@[simp] theorem State.signal_power (s : State) (g : Signal) : (s.signal g).power = s.power := rfl
@[simp] theorem State.signal_flash (s : State) (g : Signal) : (s.signal g).flash = s.flash := rfl
@[simp] theorem State.signal_flashPart (s : State) (g : Signal) : (s.signal g).flashPart = s.flashPart := rfl
@[simp] theorem State.signal_image (s : State) (g : Signal) : (s.signal g).image = s.image := rfl
@[simp] theorem State.signal_chunks (s : State) (g : Signal) : (s.signal g).chunks = s.chunks := rfl
@[simp] theorem State.signal_adit (s : State) (g : Signal) : (s.signal g).adit = s.adit := rfl
@[simp] theorem State.signal_msix (s : State) (g : Signal) : (s.signal g).msix = s.msix := rfl
@[simp] theorem State.signal_hostData (s : State) (g : Signal) : (s.signal g).hostData = s.hostData := rfl
@[simp] theorem State.signal_bad (s : State) (g : Signal) : (s.signal g).bad = s.bad := rfl
@[simp] theorem State.signal_cert (s : State) (g : Signal) : (s.signal g).cert = s.cert := rfl
@[simp] theorem State.signal_starve (s : State) (g : Signal) : (s.signal g).starve = s.starve := rfl
@[simp] theorem State.signal_after (s : State) (g : Signal) : (s.signal g).after = s.after := rfl
@[simp] theorem State.signal_agenda (s : State) (g : Signal) : (s.signal g).agenda = s.agenda := rfl
@[simp] theorem State.signal_pick (s : State) (g : Signal) : (s.signal g).pick = s.pick := rfl
@[simp] theorem State.signal_focus (s : State) (g : Signal) : (s.signal g).focus = s.focus := rfl
@[simp] theorem State.signal_stalled (s : State) (g : Signal) : (s.signal g).stalled = s.stalled := rfl
@[simp] theorem State.signal_time (s : State) (g : Signal) : (s.signal g).time = s.time := rfl
@[simp] theorem State.signal_free (s : State) (g : Signal) : (s.signal g).free = s.free := rfl

@[simp] theorem State.stall_mem (s : State) (w : Who) (y : Stall) : (s.stall w y).mem = s.mem := rfl
@[simp] theorem State.stall_regs (s : State) (w : Who) (y : Stall) : (s.stall w y).regs = s.regs := rfl
@[simp] theorem State.stall_roots (s : State) (w : Who) (y : Stall) : (s.stall w y).roots = s.roots := rfl
@[simp] theorem State.stall_clusters (s : State) (w : Who) (y : Stall) : (s.stall w y).clusters = s.clusters := rfl
@[simp] theorem State.stall_cells (s : State) (w : Who) (y : Stall) : (s.stall w y).cells = s.cells := rfl
@[simp] theorem State.stall_tlbs (s : State) (w : Who) (y : Stall) : (s.stall w y).tlbs = s.tlbs := rfl
@[simp] theorem State.stall_nextCohort (s : State) (w : Who) (y : Stall) : (s.stall w y).nextCohort = s.nextCohort := rfl
@[simp] theorem State.stall_launches (s : State) (w : Who) (y : Stall) : (s.stall w y).launches = s.launches := rfl
@[simp] theorem State.stall_nextLaunch (s : State) (w : Who) (y : Stall) : (s.stall w y).nextLaunch = s.nextLaunch := rfl
@[simp] theorem State.stall_offers (s : State) (w : Who) (y : Stall) : (s.stall w y).offers = s.offers := rfl
@[simp] theorem State.stall_chains (s : State) (w : Who) (y : Stall) : (s.stall w y).chains = s.chains := rfl
@[simp] theorem State.stall_nodes (s : State) (w : Who) (y : Stall) : (s.stall w y).nodes = s.nodes := rfl
@[simp] theorem State.stall_cmds (s : State) (w : Who) (y : Stall) : (s.stall w y).cmds = s.cmds := rfl
@[simp] theorem State.stall_nextCmd (s : State) (w : Who) (y : Stall) : (s.stall w y).nextCmd = s.nextCmd := rfl
@[simp] theorem State.stall_cradle (s : State) (w : Who) (y : Stall) : (s.stall w y).cradle = s.cradle := rfl
@[simp] theorem State.stall_aged (s : State) (w : Who) (y : Stall) : (s.stall w y).aged = s.aged := rfl
@[simp] theorem State.stall_slices (s : State) (w : Who) (y : Stall) : (s.stall w y).slices = s.slices := rfl
@[simp] theorem State.stall_sent (s : State) (w : Who) (y : Stall) : (s.stall w y).sent = s.sent := rfl
@[simp] theorem State.stall_sc (s : State) (w : Who) (y : Stall) : (s.stall w y).sc = s.sc := rfl
@[simp] theorem State.stall_ticketDev (s : State) (w : Who) (y : Stall) : (s.stall w y).ticketDev = s.ticketDev := rfl
@[simp] theorem State.stall_ticketSys (s : State) (w : Who) (y : Stall) : (s.stall w y).ticketSys = s.ticketSys := rfl
@[simp] theorem State.stall_ords (s : State) (w : Who) (y : Stall) : (s.stall w y).ords = s.ords := rfl
@[simp] theorem State.stall_waits (s : State) (w : Who) (y : Stall) : (s.stall w y).waits = s.waits := rfl
@[simp] theorem State.stall_streams (s : State) (w : Who) (y : Stall) : (s.stall w y).streams = s.streams := rfl
@[simp] theorem State.stall_lmap (s : State) (w : Who) (y : Stall) : (s.stall w y).lmap = s.lmap := rfl
@[simp] theorem State.stall_fenced (s : State) (w : Who) (y : Stall) : (s.stall w y).fenced = s.fenced := rfl
@[simp] theorem State.stall_hot (s : State) (w : Who) (y : Stall) : (s.stall w y).hot = s.hot := rfl
@[simp] theorem State.stall_spares (s : State) (w : Who) (y : Stall) : (s.stall w y).spares = s.spares := rfl
@[simp] theorem State.stall_channels (s : State) (w : Who) (y : Stall) : (s.stall w y).channels = s.channels := rfl
@[simp] theorem State.stall_repairs (s : State) (w : Who) (y : Stall) : (s.stall w y).repairs = s.repairs := rfl
@[simp] theorem State.stall_vdstopped (s : State) (w : Who) (y : Stall) : (s.stall w y).vdstopped = s.vdstopped := rfl
@[simp] theorem State.stall_power (s : State) (w : Who) (y : Stall) : (s.stall w y).power = s.power := rfl
@[simp] theorem State.stall_flash (s : State) (w : Who) (y : Stall) : (s.stall w y).flash = s.flash := rfl
@[simp] theorem State.stall_flashPart (s : State) (w : Who) (y : Stall) : (s.stall w y).flashPart = s.flashPart := rfl
@[simp] theorem State.stall_image (s : State) (w : Who) (y : Stall) : (s.stall w y).image = s.image := rfl
@[simp] theorem State.stall_chunks (s : State) (w : Who) (y : Stall) : (s.stall w y).chunks = s.chunks := rfl
@[simp] theorem State.stall_adit (s : State) (w : Who) (y : Stall) : (s.stall w y).adit = s.adit := rfl
@[simp] theorem State.stall_msix (s : State) (w : Who) (y : Stall) : (s.stall w y).msix = s.msix := rfl
@[simp] theorem State.stall_hostData (s : State) (w : Who) (y : Stall) : (s.stall w y).hostData = s.hostData := rfl
@[simp] theorem State.stall_bad (s : State) (w : Who) (y : Stall) : (s.stall w y).bad = s.bad := rfl
@[simp] theorem State.stall_cert (s : State) (w : Who) (y : Stall) : (s.stall w y).cert = s.cert := rfl
@[simp] theorem State.stall_starve (s : State) (w : Who) (y : Stall) : (s.stall w y).starve = s.starve := rfl
@[simp] theorem State.stall_after (s : State) (w : Who) (y : Stall) : (s.stall w y).after = s.after := rfl
@[simp] theorem State.stall_signals (s : State) (w : Who) (y : Stall) : (s.stall w y).signals = s.signals := rfl
@[simp] theorem State.stall_agenda (s : State) (w : Who) (y : Stall) : (s.stall w y).agenda = s.agenda := rfl
@[simp] theorem State.stall_pick (s : State) (w : Who) (y : Stall) : (s.stall w y).pick = s.pick := rfl
@[simp] theorem State.stall_focus (s : State) (w : Who) (y : Stall) : (s.stall w y).focus = s.focus := rfl
@[simp] theorem State.stall_time (s : State) (w : Who) (y : Stall) : (s.stall w y).time = s.time := rfl
@[simp] theorem State.stall_free (s : State) (w : Who) (y : Stall) : (s.stall w y).free = s.free := rfl

@[simp] theorem State.tick_mem (s : State) : (s.tick).mem = s.mem := rfl
@[simp] theorem State.tick_regs (s : State) : (s.tick).regs = s.regs := rfl
@[simp] theorem State.tick_roots (s : State) : (s.tick).roots = s.roots := rfl
@[simp] theorem State.tick_clusters (s : State) : (s.tick).clusters = s.clusters := rfl
@[simp] theorem State.tick_cells (s : State) : (s.tick).cells = s.cells := rfl
@[simp] theorem State.tick_tlbs (s : State) : (s.tick).tlbs = s.tlbs := rfl
@[simp] theorem State.tick_cohorts (s : State) : (s.tick).cohorts = s.cohorts := rfl
@[simp] theorem State.tick_nextCohort (s : State) : (s.tick).nextCohort = s.nextCohort := rfl
@[simp] theorem State.tick_launches (s : State) : (s.tick).launches = s.launches := rfl
@[simp] theorem State.tick_nextLaunch (s : State) : (s.tick).nextLaunch = s.nextLaunch := rfl
@[simp] theorem State.tick_offers (s : State) : (s.tick).offers = s.offers := rfl
@[simp] theorem State.tick_chains (s : State) : (s.tick).chains = s.chains := rfl
@[simp] theorem State.tick_nodes (s : State) : (s.tick).nodes = s.nodes := rfl
@[simp] theorem State.tick_cmds (s : State) : (s.tick).cmds = s.cmds := rfl
@[simp] theorem State.tick_nextCmd (s : State) : (s.tick).nextCmd = s.nextCmd := rfl
@[simp] theorem State.tick_cradle (s : State) : (s.tick).cradle = s.cradle := rfl
@[simp] theorem State.tick_aged (s : State) : (s.tick).aged = s.aged := rfl
@[simp] theorem State.tick_slices (s : State) : (s.tick).slices = s.slices := rfl
@[simp] theorem State.tick_sent (s : State) : (s.tick).sent = s.sent := rfl
@[simp] theorem State.tick_sc (s : State) : (s.tick).sc = s.sc := rfl
@[simp] theorem State.tick_ticketDev (s : State) : (s.tick).ticketDev = s.ticketDev := rfl
@[simp] theorem State.tick_ticketSys (s : State) : (s.tick).ticketSys = s.ticketSys := rfl
@[simp] theorem State.tick_ords (s : State) : (s.tick).ords = s.ords := rfl
@[simp] theorem State.tick_waits (s : State) : (s.tick).waits = s.waits := rfl
@[simp] theorem State.tick_streams (s : State) : (s.tick).streams = s.streams := rfl
@[simp] theorem State.tick_lmap (s : State) : (s.tick).lmap = s.lmap := rfl
@[simp] theorem State.tick_fenced (s : State) : (s.tick).fenced = s.fenced := rfl
@[simp] theorem State.tick_hot (s : State) : (s.tick).hot = s.hot := rfl
@[simp] theorem State.tick_spares (s : State) : (s.tick).spares = s.spares := rfl
@[simp] theorem State.tick_channels (s : State) : (s.tick).channels = s.channels := rfl
@[simp] theorem State.tick_repairs (s : State) : (s.tick).repairs = s.repairs := rfl
@[simp] theorem State.tick_vdstopped (s : State) : (s.tick).vdstopped = s.vdstopped := rfl
@[simp] theorem State.tick_power (s : State) : (s.tick).power = s.power := rfl
@[simp] theorem State.tick_flash (s : State) : (s.tick).flash = s.flash := rfl
@[simp] theorem State.tick_flashPart (s : State) : (s.tick).flashPart = s.flashPart := rfl
@[simp] theorem State.tick_image (s : State) : (s.tick).image = s.image := rfl
@[simp] theorem State.tick_chunks (s : State) : (s.tick).chunks = s.chunks := rfl
@[simp] theorem State.tick_adit (s : State) : (s.tick).adit = s.adit := rfl
@[simp] theorem State.tick_msix (s : State) : (s.tick).msix = s.msix := rfl
@[simp] theorem State.tick_hostData (s : State) : (s.tick).hostData = s.hostData := rfl
@[simp] theorem State.tick_bad (s : State) : (s.tick).bad = s.bad := rfl
@[simp] theorem State.tick_cert (s : State) : (s.tick).cert = s.cert := rfl
@[simp] theorem State.tick_starve (s : State) : (s.tick).starve = s.starve := rfl
@[simp] theorem State.tick_after (s : State) : (s.tick).after = s.after := rfl
@[simp] theorem State.tick_signals (s : State) : (s.tick).signals = s.signals := rfl
@[simp] theorem State.tick_agenda (s : State) : (s.tick).agenda = s.agenda := rfl
@[simp] theorem State.tick_pick (s : State) : (s.tick).pick = s.pick := rfl
@[simp] theorem State.tick_focus (s : State) : (s.tick).focus = s.focus := rfl
@[simp] theorem State.tick_stalled (s : State) : (s.tick).stalled = s.stalled := rfl

@[simp] theorem State.signal_signals (s : State) (g : Signal) : (s.signal g).signals = s.signals ++ [g] := rfl
@[simp] theorem State.stall_stalled (s : State) (w : Who) (y : Stall) : (s.stall w y).stalled = w :: s.stalled := rfl
@[simp] theorem State.tick_free (s : State) : s.tick.free = s.free + 1 := rfl
@[simp] theorem State.tick_time (s : State) : s.tick.time = max (s.time + Config.cycles s.free) s.after := rfl

end Sys2Proof.Machine
end

