-- ==== Sys2Proof/Laws/Cohorts.lean ====
section
/-! SUPPORT. Laws of cohorts, groups, splits and registers: what an update of one leaves of the others, and what the context
of an issue says. -/
namespace Sys2Proof.Machine

theorem find_map_id (l : List Cohort) (id : Nat) (f : Cohort → Cohort) (hf : ∀ c, (f c).id = c.id) (k : Nat) :
    (l.map fun c => if c.id = id then f c else c).find? (fun c => c.id == k) =
      (l.find? fun c => c.id == k).map fun c => if c.id = id then f c else c := by
  induction l with
  | nil => rfl
  | cons a t ih =>
    simp only [List.map_cons, List.find?_cons]
    have : (if a.id = id then f a else a).id = a.id := by split <;> simp [hf]
    rw [this]
    cases h : (a.id == k) <;> simp [ih]

/-- A cohort after an update of one cohort that keeps identifiers. -/
theorem State.cohort?_updCo (s : State) (id k : Nat) (f : Cohort → Cohort) (hf : ∀ c, (f c).id = c.id) :
    (s.updCo id f).cohort? k = (s.cohort? k).map fun c => if c.id = id then f c else c := find_map_id s.cohorts id f hf k

theorem State.cohort?_id {s : State} {k : Nat} {c : Cohort} (h : s.cohort? k = some c) : c.id = k := by
  have := List.find?_some h
  simpa using this

theorem State.cohort?_updCo_other (s : State) (id k : Nat) (f : Cohort → Cohort) (hf : ∀ c, (f c).id = c.id) (hk : k ≠ id) :
    (s.updCo id f).cohort? k = s.cohort? k := by
  rw [State.cohort?_updCo s id k f hf]
  cases h : s.cohort? k with
  | none => rfl
  | some c =>
    have := State.cohort?_id h
    simp [this, hk]

theorem State.cohort?_updCo_same (s : State) (id : Nat) (f : Cohort → Cohort) (hf : ∀ c, (f c).id = c.id) :
    (s.updCo id f).cohort? id = (s.cohort? id).map f := by
  rw [State.cohort?_updCo s id id f hf]
  cases h : s.cohort? id with
  | none => rfl
  | some c =>
    have := State.cohort?_id h
    simp [this]

@[simp] theorem Cohort.updGr_id (c : Cohort) (gi : Nat) (f : Group → Group) : (c.updGr gi f).id = c.id := rfl
@[simp] theorem Cohort.updGr_groups (c : Cohort) (gi : Nat) (f : Group → Group) : (c.updGr gi f).groups = c.groups.modify gi f := rfl
@[simp] theorem Group.updSp_splits (g : Group) (si : Nat) (f : Split → Split) : (g.updSp si f).splits = g.splits.modify si f := rfl
@[simp] theorem Group.updSp_v (g : Group) (si : Nat) (f : Split → Split) : (g.updSp si f).v = g.v := rfl
@[simp] theorem Group.updSp_s (g : Group) (si : Nat) (f : Split → Split) : (g.updSp si f).s = g.s := rfl
@[simp] theorem Group.updSp_p (g : Group) (si : Nat) (f : Split → Split) : (g.updSp si f).p = g.p := rfl

/-- What the context of an issue says. -/
theorem State.ctx?_some {s : State} {c : Ctx} (h : s.ctx? = some c) :
    s.focus = some c.who ∧ s.cohort? c.who.co = some c.co ∧ c.co.groups[c.who.gi]? = some c.gr ∧ c.gr.splits[c.who.si]? = some c.sp ∧
      c.sp.live = true ∧ c.h = c.sp.hints := by
  unfold State.ctx? at h
  split at h
  · cases h
  · split at h
    · cases h
    · split at h
      · cases h
      · split at h
        · cases h
        · split at h
          · cases h
            refine ⟨by assumption, by assumption, by assumption, by assumption, by assumption, rfl⟩
          · cases h

theorem Ctx.co_id {s : State} {c : Ctx} (h : s.ctx? = some c) : c.co.id = c.who.co := State.cohort?_id (State.ctx?_some h).2.1

/-! ### Registers -/

theorem Group.getV_setV (g : Group) (r l r' l' : Nat) (x : Word) (h : Sparse.rises 0 g.v = true) (hl : l < 32) (hl' : l' < 32) :
    (g.setV r l x).getV r' l' = if r' = r ∧ l' = l then x else g.getV r' l' := by
  unfold Group.getV Group.setV
  rw [Sparse.get_set _ _ _ _ _ h]
  have : (32 * r' + l' = 32 * r + l) ↔ (r' = r ∧ l' = l) := by omega
  simp [this]

theorem Group.getS_setS (g : Group) (r r' : Nat) (x : Word) (h : Sparse.rises 0 g.s = true) :
    (g.setS r x).getS r' = if r' = r then x else g.getS r' := by
  unfold Group.getS Group.setS
  rw [Sparse.get_set _ _ _ _ _ h]

theorem Group.getP_setP (g : Group) (p p' : Nat) (m x : Word) (h : Sparse.rises 0 g.p = true) :
    (g.setP p m x).getP p' = if p' = p ∧ p' ≠ 7 then (g.getP p &&& ~~~m) ||| (x &&& m) else g.getP p' := by
  unfold Group.setP
  by_cases hp : p = 7
  · have h' : ¬(p' = p ∧ p' ≠ 7) := by omega
    rw [if_pos hp, if_neg h']
  · by_cases hp' : p' = 7
    · subst hp'; simp [Group.getP]
    · simp only [hp, if_false, Group.getP, hp', ne_eq, not_false_eq_true, and_true]
      rw [Sparse.get_set _ _ _ _ _ h]

theorem Group.setV_tidy (g : Group) (r l : Nat) (x : Word) (h : g.tidy = true) : (g.setV r l x).tidy = true := by
  simp only [Group.tidy, Bool.and_eq_true] at h ⊢
  exact ⟨⟨Sparse.set_rises 0 _ _ _ h.1.1, h.1.2⟩, h.2⟩

theorem Group.setS_tidy (g : Group) (r : Nat) (x : Word) (h : g.tidy = true) : (g.setS r x).tidy = true := by
  simp only [Group.tidy, Bool.and_eq_true] at h ⊢
  exact ⟨⟨h.1.1, Sparse.set_rises 0 _ _ _ h.1.2⟩, h.2⟩

theorem Group.setP_tidy (g : Group) (p : Nat) (m x : Word) (h : g.tidy = true) : (g.setP p m x).tidy = true := by
  unfold Group.setP
  split
  · exact h
  · simp only [Group.tidy, Bool.and_eq_true] at h ⊢
    exact ⟨h.1, Sparse.set_rises 0 _ _ _ h.2⟩

theorem mem_lanesOf (m : Word) (l : Nat) : l ∈ lanesOf m ↔ l < 32 ∧ m.getLsbD l = true := by simp [lanesOf]

/-- What `writeV` leaves in every register and lane, and that it touches nothing but vector registers. -/
theorem Group.writeV_spec (ls : List Nat) (r : Nat) (f : Nat → Word) (g : Group) (hls : ∀ l ∈ ls, l < 32) (h : g.tidy = true) :
    (∀ r' l', l' < 32 → (g.writeV ls r f).getV r' l' = if r' = r ∧ l' ∈ ls then f l' else g.getV r' l') ∧
    (g.writeV ls r f).tidy = true ∧ { g.writeV ls r f with v := g.v } = g := by
  induction ls generalizing g with
  | nil => exact ⟨by simp [Group.writeV], h, rfl⟩
  | cons a t ih =>
    have ha : a < 32 := hls a (by simp)
    obtain ⟨h1, h2, h3⟩ := ih (g.setV r a (f a)) (fun l hl => hls l (by simp [hl])) (Group.setV_tidy g r a _ h)
    have e : g.writeV (a :: t) r f = (g.setV r a (f a)).writeV t r f := rfl
    rw [e]
    refine ⟨?_, h2, ?_⟩
    · intro r' l' hl'
      rw [h1 r' l' hl', Group.getV_setV g r a r' l' (f a) (by simp only [Group.tidy, Bool.and_eq_true] at h; exact h.1.1) ha hl']
      by_cases c1 : r' = r <;> by_cases c2 : l' ∈ t <;> by_cases c3 : l' = a <;> simp [c1, c2, c3]
    · calc { (g.setV r a (f a)).writeV t r f with v := g.v } =
          { { (g.setV r a (f a)).writeV t r f with v := (g.setV r a (f a)).v } with v := g.v } := rfl
        _ = { g.setV r a (f a) with v := g.v } := by rw [h3]
        _ = g := rfl

end Sys2Proof.Machine
end

