-- ==== Sys2Proof/Laws/Issue.lean ====
section
/-! SUPPORT. Laws of the driver `issue`: what a word that passes its checks does, and what it leaves unchanged. -/
namespace Sys2Proof.Machine

theorem Req.badHint_false {q : Req} {c : Ctx} (h : c.h.only q.imm q.guard q.rep q.mods) (hn : q.noMod = true → c.h.mod? = none) :
    q.badHint c = false := by
  obtain ⟨h1, h2, h3, h4⟩ := h
  unfold Req.badHint
  have e1 : (!c.h.imm.isEmpty && !q.imm) = false := by
    cases hi : c.h.imm with
    | nil => simp
    | cons a t => simp [h1 (by simp [hi])]
  have e2 : (c.h.guard.isSome && !q.guard) = false := by
    cases hi : c.h.guard with
    | none => simp
    | some a => simp [h2 (by simp [hi])]
  have e3 : (c.h.rep.isSome && !q.rep) = false := by
    cases hi : c.h.rep with
    | none => simp
    | some a => simp [h3 (by simp [hi])]
  have e4 : (c.h.mod?.isSome && q.noMod) = false := by
    cases hq : q.noMod
    · simp
    · simp [hn hq]
  rw [e1, e2, e3, e4]
  cases hm : c.h.mod? with
  | none => rfl
  | some w =>
    obtain ⟨a, b, d, e, f, g⟩ := h4 w hm
    simp only [Bool.false_or, Bool.or_eq_false_iff, Bool.and_eq_false_iff]
    refine ⟨⟨⟨⟨⟨?_, ?_⟩, ?_⟩, ?_⟩, ?_⟩, ?_⟩
    · cases hb : bit w 21 <;> simp [hb] at a ⊢; exact a
    · cases hb : bit w 18 <;> simp [hb] at b ⊢; exact b
    · cases hb : bit w 17 <;> simp [hb] at d ⊢; exact d
    · cases hb : bit w 16 <;> simp [hb] at e ⊢; exact e
    · by_cases hb : bits w 13 3 = 0
      · simp [hb]
      · simp [f hb]
    · by_cases hb : bits w 9 4 = 0
      · simp [hb]
      · simp [g hb]

/-- What a ready split shows the common checks: no wait, no window to settle, no rejection. -/
theorem Clear.passes {s : State} {c : Ctx} {q : Req} (hr : Clear s c q.imm q.guard q.rep q.mods q.vr) (hwf : q.wf = true)
    (hmod : q.noMod = true → c.h.mod? = none) (hnh : q.noHandler = true → c.sp.handler = false) (hroom : q.jumps = false → c.sp.pc.toNat + 4 < 2 ^ 56) : q.waits c = false ∧ c.settle q = c ∧ q.reject c = none := by
  have hw := hr.windows
  refine ⟨by simp [Req.waits, hw], by simp [Ctx.settle, hw], ?_⟩
  have hv : q.vr.all c.holds = true := by
    rw [List.all_eq_true]
    intro r hrr
    obtain ⟨a, b⟩ := hr.regs r hrr
    simp [Ctx.holds, a]
    exact b
  have hb := Req.badHint_false hr.hints hmod
  have hp : (!q.jumps && decide (c.sp.pc.toNat + 4 ≥ 2 ^ 56)) = false := by
    cases hj : q.jumps
    · have := hroom hj
      simp; omega
    · rfl
  have hn : (q.noHandler && c.sp.handler) = false := by
    cases h : q.noHandler
    · rfl
    · simp [hnh h]
  unfold Req.reject
  rw [hwf, hb, hv, hw, hn]
  simp only [Bool.not_true, Bool.or_self, Bool.false_eq_true, if_false, List.any_nil, hp]

/-- A word of a ready split whose own conditions let it go takes its effect and goes on. -/
theorem issueFull_ready {s : State} {c : Ctx} {q : Req} (stall : Ctx → State → Bool) (check : Ctx → State → Option Trap)
    (eff post : Ctx → State → State) (hr : Clear s c q.imm q.guard q.rep q.mods q.vr) (hwf : q.wf = true)
    (hmod : q.noMod = true → c.h.mod? = none) (hnh : q.noHandler = true → c.sp.handler = false) (hroom : q.jumps = false → c.sp.pc.toNat + 4 < 2 ^ 56) (hsc : s.scHeld q c = false)
    (hrel : s.relHeld q c = false) (hst : stall c s = false)
    (hck : check c s = none) :
    issueFull q stall check eff post s = .next (post c ((eff c (s.enter q c)).leave q c)) := by
  obtain ⟨h1, h2, h3⟩ := hr.passes hwf hmod hnh hroom
  simp only [issueFull, hr.ctx, issueAt, h1, hsc, hrel, Bool.or_self, Bool.false_eq_true, if_false, h2, hr.windows, List.isEmpty_nil,
    if_true, h3, hst, hck]

theorem State.scHeld_plain {s : State} {q : Req} {c : Ctx} (hm : q.mem = false) (hrd : q.reads = false) : s.scHeld q c = false := by
  simp [State.scHeld, hm, hrd]

theorem State.relHeld_plain {s : State} {q : Req} {c : Ctx} (h : q.rel = false) : s.relHeld q c = false := by simp [State.relHeld, h]

theorem issue_ready {s : State} {c : Ctx} {q : Req} (check : Ctx → State → Option Trap)
    (eff : Ctx → State → State) (hr : Clear s c q.imm q.guard q.rep q.mods q.vr) (hwf : q.wf = true)
    (hmod : q.noMod = true → c.h.mod? = none) (hnh : q.noHandler = true → c.sp.handler = false) (hroom : q.jumps = false → c.sp.pc.toNat + 4 < 2 ^ 56) (hm : q.mem = false) (hrd : q.reads = false)
    (hrel : q.rel = false) (hck : check c s = none) :
    issue q check eff s = .next ((eff c (s.enter q c)).leave q c) :=
  issueFull_ready _ check eff _ hr hwf hmod hnh hroom (State.scHeld_plain hm hrd) (State.relHeld_plain hrel) rfl hck

/-- What `State.leave` does to the issuing split, at a time. -/
def Split.leave (q : Req) (c : Ctx) (now : Nat) (x : Split) : Split :=
  if c.h.yld && c.sp.last then (if q.hold then x else x.next).pauseTo (now + 16) else if q.hold then x else x.next

theorem State.leave_eq (s : State) (q : Req) (c : Ctx) : s.leave q c = s.updSp c.who (Split.leave q c (s.nowOf c.who.co)) := rfl

/-- The state after a word that changes only its group: enter, F, then leave, seen cohort by cohort. -/
theorem enter_updGr_leave {s : State} {c : Ctx} (q : Req) (F : Group → Group) (hx : s.ctx? = some c) (hm : q.mem = false) :
    SameModule s (((s.enter q c).updGr c.who F).leave q c) ∧
    OnlyCohort s (((s.enter q c).updGr c.who F).leave q c) c.who.co
      { c.co with
        ctr := c.co.ctr.enter q c
        groups := ((c.co.groups.modify c.who.gi fun g => g.enter q c).modify c.who.gi F).modify c.who.gi fun g =>
          g.updSp c.who.si (Split.leave q c (((s.enter q c).updGr c.who F).nowOf c.who.co)) } := by
  obtain ⟨-, hco, -, -, -, -⟩ := State.ctx?_some hx
  have e : s.enter q c = ({ s with stalled := [] }.tick).updCo c.who.co fun co =>
      { co.updGr c.who.gi fun g => g.enter q c with ctr := co.ctr.enter q c } := by
    simp [State.enter, hm]
  rw [State.leave_eq]
  generalize ((s.enter q c).updGr c.who F).nowOf c.who.co = n
  rw [e]
  refine ⟨?_, ?_, ?_⟩
  · simp [SameModule, State.updSp, State.updGr, State.updCo, State.tick]
  · intro k hk
    simp only [State.updSp, State.updGr]
    rw [State.cohort?_updCo_other, State.cohort?_updCo_other, State.cohort?_updCo_other]
    · rfl
    all_goals first | exact hk | (intro _; rfl)
  · simp only [State.updSp, State.updGr]
    rw [State.cohort?_updCo_same, State.cohort?_updCo_same, State.cohort?_updCo_same]
    · have : State.cohort? { s with stalled := [] }.tick c.who.co = some c.co := hco
      rw [this]
      rfl
    all_goals (intro _; rfl)

theorem getElem?_modify_self {α : Type} (l : List α) (i : Nat) (f : α → α) (x : α) (h : l[i]? = some x) :
    (l.modify i f)[i]? = some (f x) := by simp [h]

theorem getElem?_modify_ne {α : Type} (l : List α) (i j : Nat) (f : α → α) (h : j ≠ i) : (l.modify i f)[j]? = l[j]? := by
  rw [List.getElem?_modify]
  have h' : ¬ i = j := fun e => h e.symm
  simp [h']

/-- Where a split stands after a word that does not hold it, and what it keeps. -/
theorem Split.leave_moved (x : Split) (q : Req) (c : Ctx) (now : Nat) (f : List Window → List Window) (hf : f x.windows = x.windows)
    (hh : q.hold = false) : Moved x (Split.leave q c now { x with landed := false, boosted := false, why := .other, windows := f x.windows }) := by
  rw [hf]
  let y : Split := { x with landed := false, boosted := false, why := .other }
  have hm : Moved x y.next := by
    refine ⟨?_, fun h => ?_, fun h => ?_⟩
    · unfold SameLanes Split.next
      split <;> rfl
    · have : y.last = true := h
      unfold Split.next
      rw [if_pos this]
      exact ⟨rfl, rfl, rfl, rfl⟩
    · have : y.last = false := h
      unfold Split.next
      rw [if_neg (by simp [this])]
      exact ⟨rfl, rfl, rfl, rfl⟩
  unfold Split.leave
  rw [hh]
  split
  · exact ⟨hm.1, hm.2.1, hm.2.2⟩
  · exact hm

/-- A word that passes its checks and only changes registers of its group. -/
theorem issue_writes {s : State} {c : Ctx} {q : Req} (check : Ctx → State → Option Trap) (eff : Ctx → State → State)
    (F : Group → Group) (fv : Nat → Nat → Word) (fs fp : Nat → Word)
    (hr : Ready s c q.imm q.guard q.rep q.mods q.vr) (hwf : q.wf = true) (hmod : q.noMod = true → c.h.mod? = none) (hnh : q.noHandler = true → c.sp.handler = false)
    (hm : q.mem = false) (hrd : q.reads = false) (hrel : q.rel = false) (hhold : q.hold = false) (hck : check c s = none)
    (heff : ∀ u : State, u.time = s.tick.time → SameModule s u → eff c u = u.updGr c.who F)
    (hF : ∀ g : Group, g.v = c.gr.v → g.s = c.gr.s → g.p = c.gr.p →
      Regs (F g) fv fs fp ∧ { F g with v := g.v, s := g.s, p := g.p } = g) :
    ∃ t, issue q check eff s = .next t ∧ Writes s c t fv fs fp := by
  refine ⟨_, issue_ready check eff hr.toClear hwf hmod hnh (fun _ => hr.room) hm hrd hrel hck, ?_⟩
  have e : s.enter q c = ({ s with stalled := [] }.tick).updCo c.who.co fun co =>
      { co.updGr c.who.gi fun g => g.enter q c with ctr := co.ctr.enter q c } := by
    simp [State.enter, hm]
  rw [heff _ (by rw [e]; rfl) (by rw [e]; simp [SameModule, State.updCo, State.tick])]
  obtain ⟨h1, h2⟩ := enter_updGr_leave q F hr.ctx hm
  obtain ⟨-, -, hgr, hsp, -, -⟩ := State.ctx?_some hr.ctx
  generalize ((s.enter q c).updGr c.who F).nowOf c.who.co = n at h2
  refine ⟨h1, _, (F (c.gr.enter q c)).updSp c.who.si (Split.leave q c n), Split.leave q c n { c.sp with
      landed := false, boosted := false, why := .other, windows := c.sp.windows.map fun w => if w.under then w else { w with left := w.left - 1 } },
    h2, ⟨rfl, ?_, ?_⟩, ⟨?_, ?_, ?_⟩, ?_, ?_⟩
  · intro j hj
    simp only [getElem?_modify_ne _ _ _ _ hj]
  · rw [getElem?_modify_self _ _ _ _ (getElem?_modify_self _ _ _ _ (getElem?_modify_self _ _ _ _ hgr))]
  · have := (hF (c.gr.enter q c) rfl rfl rfl).2
    calc { (F (c.gr.enter q c)).updSp c.who.si (Split.leave q c n) with v := c.gr.v, s := c.gr.s, p := c.gr.p, marks := c.gr.marks, left := c.gr.left, skid := c.gr.skid, splits := c.gr.splits }
        = { { F (c.gr.enter q c) with v := (c.gr.enter q c).v, s := (c.gr.enter q c).s, p := (c.gr.enter q c).p } with
            marks := c.gr.marks, left := c.gr.left, skid := c.gr.skid, splits := c.gr.splits } := rfl
      _ = { c.gr.enter q c with marks := c.gr.marks, left := c.gr.left, skid := c.gr.skid, splits := c.gr.splits } := by rw [this]
      _ = c.gr := rfl
  · intro j hj
    have hs : (F (c.gr.enter q c)).splits = (c.gr.enter q c).splits := by
      have := (hF (c.gr.enter q c) rfl rfl rfl).2
      have e' : ({ F (c.gr.enter q c) with v := (c.gr.enter q c).v, s := (c.gr.enter q c).s, p := (c.gr.enter q c).p } : Group).splits =
          (c.gr.enter q c).splits := by rw [this]
      exact e'
    rw [Group.updSp_splits, getElem?_modify_ne _ _ _ _ hj, hs]
    simp only [Group.enter, Group.updSp_splits]
    rw [getElem?_modify_ne _ _ _ _ hj]
  · have hs : (F (c.gr.enter q c)).splits = (c.gr.enter q c).splits := by
      have := (hF (c.gr.enter q c) rfl rfl rfl).2
      have e' : ({ F (c.gr.enter q c) with v := (c.gr.enter q c).v, s := (c.gr.enter q c).s, p := (c.gr.enter q c).p } : Group).splits =
          (c.gr.enter q c).splits := by rw [this]
      exact e'
    rw [Group.updSp_splits]
    refine getElem?_modify_self _ _ _ _ ?_
    rw [hs]
    simp only [Group.enter, Group.updSp_splits]
    rw [getElem?_modify_self _ _ _ _ hsp]
    simp [hr.windows]
  · exact Split.leave_moved c.sp q c _ (fun l => l.map fun w => if w.under then w else { w with left := w.left - 1 }) (by simp [hr.windows]) hhold
  · exact (hF (c.gr.enter q c) rfl rfl rfl).1

end Sys2Proof.Machine
end

