-- ==== Sys2Proof/Tests/Slice0.lean ====
section
/-! SUPPORT. Tests: words written out from the spec's encodings, ill-formed terms that the checks refuse, single steps against
the spec's own figures, and a witness for the hypotheses of every statement. -/
set_option Elab.async false
set_option maxRecDepth 20000
namespace Sys2Proof.Tests
open Sys2Proof Sys2Proof.Machine Sys2Proof.Claims

/-! ### Small states -/

/-- Each of the hints read so far is one that the word accepts, as a check. -/
def onlyB (h : Hints) (imm guard rep : Bool) (m : Mods) : Bool :=
  (imm || h.imm.isEmpty) && (guard || h.guard.isNone) && (rep || h.rep.isNone) &&
  match h.mod? with
  | none => true
  | some w => (m.r || !bit w 21) && (m.s || !bit w 18) && (m.o || !bit w 17) && (m.b8 || !bit w 16) && (m.cp || bits w 13 3 == 0) &&
      (m.l || bits w 9 4 == 0)

theorem only_of {h : Hints} {imm guard rep : Bool} {m : Mods} (hb : onlyB h imm guard rep m = true) : h.only imm guard rep m := by
  unfold onlyB at hb
  simp only [Bool.and_eq_true, Bool.or_eq_true, List.isEmpty_iff, Option.isNone_iff_eq_none] at hb
  obtain ⟨⟨⟨h1, h2⟩, h3⟩, h4⟩ := hb
  refine ⟨fun x => h1.resolve_right x, fun x => h2.resolve_right x, fun x => h3.resolve_right x, fun w hw => ?_⟩
  rw [hw] at h4
  simp only [Bool.and_eq_true, Bool.or_eq_true, Bool.not_eq_true', beq_iff_eq] at h4
  obtain ⟨⟨⟨⟨⟨a, b⟩, c⟩, d⟩, e⟩, f⟩ := h4
  refine ⟨fun x => a.resolve_right (by simp [x]), fun x => b.resolve_right (by simp [x]), fun x => c.resolve_right (by simp [x]),
    fun x => d.resolve_right (by simp [x]), fun x => e.resolve_right x, fun x => f.resolve_right x⟩

/-- A split that may issue a word, as a check. -/
def clearB (s : State) (c : Ctx) (imm guard rep : Bool) (m : Mods) (rs : List Nat) : Bool :=
  decide (s.ctx? = some c) && c.sp.windows.isEmpty && onlyB c.h imm guard rep m &&
  rs.all (fun r => decide (r < 128) && (c.co.isHF || decide (r < 8 * c.gr.budget))) && c.gr.tidy

theorem clear_of {s : State} {c : Ctx} {imm guard rep : Bool} {m : Mods} {rs : List Nat} (hb : clearB s c imm guard rep m rs = true) :
    Clear s c imm guard rep m rs := by
  unfold clearB at hb
  simp only [Bool.and_eq_true, decide_eq_true_eq, List.isEmpty_iff, List.all_eq_true, Bool.or_eq_true] at hb
  obtain ⟨⟨⟨⟨h1, h2⟩, h3⟩, h4⟩, h5⟩ := hb
  exact ⟨h1, h2, only_of h3, h4, h5⟩

theorem ready_of {s : State} {c : Ctx} {imm guard rep : Bool} {m : Mods} {rs : List Nat}
    (hb : (clearB s c imm guard rep m rs && decide (c.sp.pc.toNat + 4 < 2 ^ 56)) = true) : Ready s c imm guard rep m rs := by
  simp only [Bool.and_eq_true, decide_eq_true_eq] at hb
  exact ⟨clear_of hb.1, hb.2⟩

/-- The state after reset with a body loaded, its one cohort changed by f and its first group by g; the first split has the focus. -/
def tstate (f : Cohort → Cohort) (g : Group → Group) : State :=
  let s := State.reset.withFetchWord 32 0
  { s with cohorts := s.cohorts.map fun c => f { c with groups := c.groups.map g }, focus := some ⟨0, 0, 0⟩, pick := none }

/-- What its first split sees. -/
def tctx (s : State) : Ctx := (s.ctx?).getD ⟨⟨0, 0, 0⟩, loadCohort 0 0 false, { index := 0, slot := 0, role := 0, budget := 0, valid := 0, iids := [], splits := [] }, {}, {}⟩

/-- The plain state: 32 lanes, 128 vector registers, no hint, no window. -/
def s0 : State := tstate id id
def c0 : Ctx := tctx s0

/-- The first split, changed. -/
def onSplit (f : Split → Split) (g : Group) : Group := g.updSp 0 f

/-- A chain of hint words before the word that is issued. -/
def chained (l : List Word) (x : Split) : Split := { x with chain := l, chainPc := 65532 }

/-- The state with a chain. -/
def hinted (l : List Word) : State := tstate id (onSplit (chained l))

/-- The header of the loaded launch with more bits set. -/
def headed (n : Nat) (f : Cohort → Cohort) : State := tstate (fun c => f { c with hdr := c.hdr ||| BitVec.ofNat 1024 n }) id

/-! ### Witnesses: compute words (09) -/

theorem witness_ThreeOperandVector : ∃ (s : State) (c : Ctx) (x : V3),
    Ready s c false false true accRS.mods [x.d.toNat, x.a.toNat, x.b.toNat] :=
  ⟨s0, c0, ⟨7, 127, 126, 127⟩, ready_of (by decide +kernel)⟩

theorem witness_VectorUnaryAndScalar_VectorScalar : ∃ (s : State) (c : Ctx) (x : V2) (y : VS),
    Ready s c false false true accRS.mods [x.d.toNat, x.a.toNat, x.a.toNat + 1] ∧ x.a.toNat % 2 = 0 ∧
    Ready s c false false true accS.mods [y.d.toNat, y.d.toNat + 1, y.a.toNat, y.a.toNat + 1] ∧ y.d.toNat % 2 = 0 ∧ y.a.toNat % 2 = 0 :=
  ⟨s0, c0, ⟨7, 127, 126⟩, ⟨7, 126, 0, 63⟩, ready_of (by decide +kernel), by decide, ready_of (by decide +kernel), by decide, by decide⟩

/-- An immediate that fits, under one hint; and one whose payload reaches above bit 31. -/
theorem witness_ImmediateForms_VectorImmediate_fits : ∃ (s : State) (c : Ctx) (x : VI) (y : SI),
    Ready s c true false true accS.mods [x.d.toNat, x.a.toNat] ∧ c.h.imm ≠ [] ∧ immFits c.h x.imm.toNat 8 ∧ immFits c.h y.imm.toNat 10 :=
  ⟨hinted [0x7E3FFFFF], tctx (hinted [0x7E3FFFFF]), ⟨7, 127, 0, 0xFF⟩, ⟨63, 0, 0x3FF⟩, ready_of (by decide +kernel),
    by decide +kernel, by unfold immFits; decide +kernel, by unfold immFits; decide +kernel⟩

theorem witness_ImmediateForms_VectorImmediate_above : ∃ (s : State) (c : Ctx) (x : VI) (y : SI) (z : SW),
    Ready s c true false true accS.mods [x.d.toNat, x.a.toNat] ∧ ¬ immFits c.h x.imm.toNat 8 ∧ ¬ immFits c.h y.imm.toNat 10 ∧
    ¬ immFits c.h z.imm.toNat 16 ∧ ∃ p ∈ c.h.imm, p ≠ 0 :=
  ⟨hinted [0x7E000400, 0x7E000000], tctx (hinted [0x7E000400, 0x7E000000]), ⟨7, 127, 0, 0⟩, ⟨63, 0, 0⟩, ⟨63, 0⟩, ready_of (by decide +kernel),
    by unfold immFits; decide +kernel, by unfold immFits; decide +kernel, by unfold immFits; decide +kernel, by decide +kernel⟩

theorem witness_ImmediateForms_VectorImmediate_shift : ∃ (s : State) (c : Ctx) (x : VN),
    Ready s c true false true {} [x.d.toNat, x.a.toNat] ∧ ∀ p ∈ c.h.imm, p = 0 :=
  ⟨hinted [0x7E000000], tctx (hinted [0x7E000000]), ⟨7, 0, 127, 31⟩, ready_of (by decide +kernel), by decide +kernel⟩

theorem witness_ImmediateForms_ScalarImmediate_halfword : ∃ (s : State) (c : Ctx) (x : SW),
    Ready s c true false false {} [] ∧ Ready s c false false false {} [] ∧ immFits c.h x.imm.toNat 16 :=
  ⟨s0, c0, ⟨63, 0xFFFF⟩, ready_of (by decide +kernel), ready_of (by decide +kernel), by unfold immFits; decide +kernel⟩

/-- A conversion of one register, and one between pairs. -/
theorem witness_Conversion : ∃ (s : State) (c : Ctx),
    (Instr.wf (.cvt 7 127 126 8 4) = true ∧ Ready s c false false true (cvtAccepts 8 4) (codeRegs 8 127 ++ codeRegs 4 126)) ∧
    Instr.wf (.cvt 7 126 124 6 7) = true ∧ Ready s c false false true (cvtAccepts 6 7) (codeRegs 6 126 ++ codeRegs 7 124) :=
  ⟨s0, c0, ⟨by decide, ready_of (by decide +kernel)⟩, by decide, ready_of (by decide +kernel)⟩

/-- A reserved type, an odd pair, and a modifier that the pair does not take (`rm` from an integer of 32 bits). -/
theorem witness_Conversion_traps : ∃ (s u : State) (c d : Ctx), s.ctx? = some c ∧ c.sp.windows = [] ∧ (codeWidth 6 = 64 ∧ 127 % 2 = 1) ∧ u.ctx? = some d ∧ d.sp.windows = [] ∧
    ¬ d.h.only false false true (cvtAccepts 4 0) :=
  ⟨s0, hinted [0x7E680000], c0, tctx (hinted [0x7E680000]), by decide +kernel, by decide +kernel, by decide, by decide +kernel, by decide +kernel,
    fun h => absurd ((h.2.2.2 0x7E680000 (by decide +kernel)).1 (by decide)) (by decide)⟩

theorem witness_TranscendentalsAndDraws_Transcendental_now : ∃ (s : State) (c : Ctx) (x : V2),
    Ready s c false false true { r := true, s := true, l := true } [x.d.toNat, x.a.toNat] ∧ c.h.la = 0 :=
  ⟨s0, c0, ⟨7, 127, 0⟩, ready_of (by decide +kernel), by decide +kernel⟩

theorem witness_TranscendentalsAndDraws_Transcendental_ahead : ∃ (s : State) (c : Ctx) (x : V2),
    Ready s c false false true { r := true, s := true, l := true } [x.d.toNat, x.a.toNat] ∧ c.h.la ≠ 0 :=
  ⟨hinted [0x7E401E00], tctx (hinted [0x7E401E00]), ⟨7, 127, 0⟩, ready_of (by decide +kernel), by decide +kernel⟩

/-- A stream of counters 0 to 9, which v1 holds the first of, and v2 the one after the last. -/
def streamed : State :=
  tstate (fun c => { c with hdr := c.hdr ||| BitVec.ofNat 1024 (2 ^ 11 + 9 * 2 ^ 800) }) (fun g => { g with v := [(64 + 31, 10)] })

theorem witness_TranscendentalsAndDraws_RandomDraw_stream : ∃ (s : State) (c : Ctx),
    Ready s c false false true {} [3, 1] ∧ c.co.isHF = false ∧ hStrm c.co.hdr = true ∧
    (∀ l, l < 32 → hClo c.co.hdr ≤ (c.gr.getV 1 l).toNat ∧ (c.gr.getV 1 l).toNat ≤ hChi c.co.hdr) :=
  ⟨streamed, tctx streamed, ready_of (by decide +kernel), by decide +kernel, by decide +kernel, by decide +kernel⟩

theorem witness_TranscendentalsAndDraws_RandomDraw_outside : ∃ (s : State) (c : Ctx),
    Ready s c false false true {} [3, 2] ∧ c.co.isHF = false ∧ hStrm c.co.hdr = true ∧ (c.part 7).getLsbD 31 = true ∧
    hChi c.co.hdr < (c.gr.getV 2 31).toNat ∧ ∀ l, l < 31 → (c.gr.getV 2 l).toNat ≤ hChi c.co.hdr ∧ hClo c.co.hdr ≤ (c.gr.getV 2 l).toNat :=
  ⟨streamed, tctx streamed, ready_of (by decide +kernel), by decide +kernel, by decide +kernel, by decide +kernel, by decide +kernel, by decide +kernel⟩

theorem witness_TranscendentalsAndDraws_RandomDraw_none : ∃ (s : State) (c : Ctx),
    Ready s c false false true {} [3, 2] ∧ c.co.isHF = false ∧ hStrm c.co.hdr = false :=
  ⟨s0, c0, ready_of (by decide +kernel), by decide +kernel, by decide +kernel⟩

theorem witness_ComparesAndLogic : ∃ (s : State) (c : Ctx) (x y : VC),
    Ready s c false false true {} [x.a.toNat, x.b.toNat] ∧ x.pd ≠ 7 ∧ x.cc.toNat ≤ 5 ∧ y.a = x.a ∧ y.b = x.b ∧ y.pd ≠ 7 ∧ 5 < y.cc.toNat :=
  ⟨s0, c0, ⟨7, 6, 5, 127, 0, 3⟩, ⟨7, 0, 6, 127, 0, 0⟩, ready_of (by decide +kernel), by decide, by decide, rfl, rfl, by decide, by decide⟩

theorem witness_ComparesAndLogic_reserved : ∃ w, w < 2 ^ 32 ∧ w / 2 ^ 25 = 0x13 ∧ (w / 2 ^ 12 % 16 ≠ 0 ∨ w / 2 ^ 5 % 16 ≠ 0) :=
  ⟨0x26000020, by decide⟩

theorem witness_ScalarArithmetic_ScalarThree : ∃ (s : State) (c : Ctx) (x y : S3) (z : SC),
    Ready s c false false true accRS.mods [] ∧ Ready s c false false true accS.mods [] ∧ Ready s c false false true {} [] ∧
    (x.d.toNat % 2 = 0 ∧ x.a.toNat % 2 = 0 ∧ x.b.toNat % 2 = 0) ∧ ¬ (y.d.toNat % 2 = 0 ∧ y.a.toNat % 2 = 0 ∧ y.b.toNat % 2 = 0) ∧
    z.cc.toNat ≤ 5 :=
  ⟨s0, c0, ⟨62, 0, 2⟩, ⟨62, 0, 3⟩, ⟨63, 0, 1, 5⟩, ready_of (by decide +kernel), ready_of (by decide +kernel), ready_of (by decide +kernel),
    by decide, by decide, by decide⟩

/-! ### Witnesses: lane operations and special registers (11.5, 11.6) -/

theorem witness_LaneOperations_LaneMovement : ∃ (s : State) (c : Ctx) (x : LF),
    Ready s c false false true accRS.mods [x.d.toNat, x.a.toNat] ∧ Ready s c false false true {} [x.d.toNat, x.a.toNat, x.a.toNat + 1] ∧
    x.a.toNat % 2 = 0 :=
  ⟨s0, c0, ⟨7, 127, 126, 6⟩, ready_of (by decide +kernel), ready_of (by decide +kernel), by decide⟩

theorem witness_LaneOperations_LaneMovement_odd : ∃ (s : State) (c : Ctx) (x : LF),
    Ready s c false false true {} [x.d.toNat, x.a.toNat, x.a.toNat + 1] ∧ x.a.toNat % 2 = 1 :=
  ⟨s0, c0, ⟨7, 127, 125, 7⟩, ready_of (by decide +kernel), by decide⟩
theorem witness_SpecialRegisters_RegisterMoves : ∃ (s : State) (c : Ctx) (n m : BitVec 14),
    Ready s c false false false {} [127] ∧ Ready s c false false false {} [] ∧ Instr.wf (.movsRead 7 127 0 n) = true ∧ Instr.wf (.movsRead 7 63 1 m) = true :=
  ⟨s0, c0, 0x15, 0x44, ready_of (by decide +kernel), ready_of (by decide +kernel), by decide, by decide⟩

/-- A split in a handler: its TRAP entry on top of a JOIN entry. -/
def handling : State := tstate id fun g =>
  { onSplit (fun x => { x with handler := true }) g with
    halt := true
    stack := [{ kind := .trap, owner := none, mask := 0xFFFFFFFF, pos := 3, pc := 65540 }, { kind := .join, owner := none, mask := 0xFFFFFFFF, pos := 0, pc := 70000 }]
    trap := some { code := 1, split := 0, pc := 65540, pos := 3, rpc := 65540, rpos := 3 } }

theorem witness_SpecialRegisters_SpecialRegisterWrite_tvec : ∃ (s : State) (c : Ctx), Instr.wf (.movsWrite 7 63 1 0x98) = true ∧ Instr.wf (.movsWrite 7 127 0 0x98) = true ∧
    Ready s c false false false {} [] ∧ Ready s c false false false {} [127] ∧ c.sp.handler = false ∧ Instr.wf (.movsWrite 7 63 1 0x90) = true :=
  ⟨s0, c0, by decide, by decide, ready_of (by decide +kernel), ready_of (by decide +kernel), by decide +kernel, by decide⟩

theorem witness_SpecialRegisters_SpecialRegisterWrite_resume : ∃ (s : State) (c : Ctx) (e f : StackEntry), Instr.wf (.movsWrite 7 63 1 0x92) = true ∧
    Ready s c false false false {} [] ∧ c.sp.handler = true ∧ c.gr.stack = [e, f] ∧ e.kind = .trap ∧ e.owner = none ∧ f ≠ e ∧ f.owner ≠ some c.who.si :=
  ⟨handling, tctx handling, _, _, by decide, ready_of (by decide +kernel), by decide +kernel, rfl, rfl, rfl, by decide, by decide⟩

/-! ### Witnesses: control flow (11) -/

/-- The split at the last word below 2^56, and at the first. -/
def lastWord : State := tstate id (onSplit fun x => { x with pc := 0xFFFFFFFFFFFFFC })
def firstWord : State := tstate id (onSplit fun x => { x with pc := 0 })

theorem witness_Branches_target : ∃ (s : State) (c : Ctx) (o : BitVec 20), Clear s c false false false {} [] ∧ Fits (relTarget c o) ∧ Fits (nextPc c) :=
  ⟨firstWord, tctx firstWord, 0x7FFFF, clear_of (by decide +kernel), by unfold Fits; decide +kernel, by unfold Fits; decide +kernel⟩

theorem witness_Branches_outside : ∃ (s u : State) (c d : Ctx) (o : BitVec 20),
    Clear s c false false false {} [] ∧ ¬ Fits (nextPc c) ∧ Clear u d false false false {} [] ∧ ¬ Fits (relTarget d o) :=
  ⟨lastWord, firstWord, tctx lastWord, tctx firstWord, 0xFFFFF, clear_of (by decide +kernel), by unfold Fits; decide +kernel,
    clear_of (by decide +kernel), by unfold Fits; decide +kernel⟩

/-- p1 holds in lane 0 alone. -/
def partly : State := tstate id fun g => { g with p := [(1, 1)] }
/-- The same with a full stack. -/
def partlyFull : State := tstate id fun g =>
  { g with p := [(1, 1)], stack := List.replicate 64 { kind := .join, owner := some 0, mask := 0xFFFFFFFF, pos := 0, pc := 70000 } }

theorem witness_Branches_uniform : ∃ (s : State) (c : Ctx), Clear s c false false false {} [] ∧
    (c.sp.mask &&& c.gr.getP 7 = c.sp.mask) ∧ c.sp.mask &&& c.gr.getP 0 ≠ c.sp.mask ∧ c.sp.mask &&& c.gr.getP 0 = 0 :=
  ⟨s0, c0, clear_of (by decide +kernel), by decide +kernel, by decide +kernel, by decide +kernel⟩

theorem splitsNow_alone {c : Ctx} (h : Alone c) (k : Nat) : splitsNow c k = min k 4 := by unfold splitsNow; rw [if_pos h]
theorem splitsNow_other {c : Ctx} (h : ¬ Alone c) (k : Nat) : splitsNow c k = 1 := by unfold splitsNow; rw [if_neg h]

theorem witness_Branches_divide : ∃ (s : State) (c : Ctx) (o : BitVec 20), Clear s c false false false {} [] ∧
    c.sp.mask &&& c.gr.getP 1 ≠ c.sp.mask ∧ c.sp.mask &&& c.gr.getP 1 ≠ 0 ∧ c.gr.splits.length = 4 ∧ c.gr.stack.length + (2 - splitsNow c 2) ≤ 64 ∧
    Fits (relTarget c o) ∧ Fits (nextPc c) := by
  refine ⟨partly, tctx partly, 4, clear_of (by decide +kernel), by decide +kernel, by decide +kernel, by decide +kernel, ?_,
    by unfold Fits; decide +kernel, by unfold Fits; decide +kernel⟩
  rw [splitsNow_alone (by unfold Alone; decide +kernel)]
  decide +kernel

theorem witness_Branches_full : ∃ (s : State) (c : Ctx) (o : BitVec 20), Clear s c false false false {} [] ∧
    c.sp.mask &&& c.gr.getP 1 ≠ c.sp.mask ∧ c.sp.mask &&& c.gr.getP 1 ≠ 0 ∧ 64 < c.gr.stack.length + (2 - splitsNow c 2) ∧
    Fits (relTarget c o) ∧ Fits (nextPc c) := by
  refine ⟨partlyFull, tctx partlyFull, 4, clear_of (by decide +kernel), by decide +kernel, by decide +kernel, ?_,
    by unfold Fits; decide +kernel, by unfold Fits; decide +kernel⟩
  rw [splitsNow_other (by unfold Alone; decide +kernel)]
  decide +kernel

/-- v1 holds byte offset 0 in every lane; v2 holds 4 in lane 31; v3 holds 2 in lane 0. -/
def indirect : State := tstate id fun g => { g with v := [(64 + 31, 4), (96, 2)], s := [(1, 2)] }

theorem witness_Branches_IndirectBranches : ∃ (s : State) (c : Ctx), Clear s c false false false {} [1] ∧ Clear s c false false false {} [2] ∧ c.sp.mask ≠ 0 ∧
    (∀ l, l < 32 → (c.gr.getV 1 l).toNat = 0 ∧ (c.gr.getV 2 l).toNat % 4 = 0 ∧ Fits (c.co.kb + (c.gr.getV 2 l).toNat : Nat)) ∧
    (brxPairs c 2).length = 2 ∧ c.gr.splits.length = 4 ∧ c.gr.stack.length + (2 - splitsNow c 2) ≤ 64 := by
  refine ⟨indirect, tctx indirect, clear_of (by decide +kernel), clear_of (by decide +kernel), by decide +kernel, by unfold Fits; decide +kernel,
    by decide +kernel, by decide +kernel, ?_⟩
  rw [splitsNow_alone (by unfold Alone; decide +kernel)]
  decide +kernel

/-- A split with no lane. -/
def laneless : State := tstate id (onSplit fun x => { x with mask := 0 })

theorem witness_Branches_IndirectBranches_laneless : ∃ (s : State) (c : Ctx), Clear s c false false false {} [1] ∧ c.sp.mask = 0 ∧ Fits (nextPc c) :=
  ⟨laneless, tctx laneless, clear_of (by decide +kernel), by decide +kernel, by unfold Fits; decide +kernel⟩

theorem witness_Branches_IndirectBranches_misaligned : ∃ (s : State) (c : Ctx), Clear s c false false false {} [3] ∧ has c.sp.mask 0 = true ∧
    (c.gr.getV 3 0).toNat % 4 ≠ 0 ∧ (c.gr.getS 1).toNat % 4 ≠ 0 ∧ (c.gr.getS 2).toNat % 4 = 0 ∧ c.co.kb + (c.gr.getS 2).toNat < 2 ^ 56 :=
  ⟨indirect, tctx indirect, clear_of (by decide +kernel), by decide +kernel, by decide +kernel, by decide +kernel, by decide +kernel, by decide +kernel⟩

theorem witness_ScalarBranch : ∃ (s u : State) (c d : Ctx) (o : BitVec 16) (k : BitVec 6), Clear s c false false false {} [] ∧ Fits (relTarget c o) ∧
    Clear u d false false false {} [] ∧ ¬ Fits (relTarget d o) ∧ ¬ Fits (nextPc d) ∧ k ≠ 0 ∧ (5 : BitVec 3).toNat ≤ 5 :=
  ⟨firstWord, lastWord, tctx firstWord, tctx lastWord, 1, 63, clear_of (by decide +kernel), by unfold Fits; decide +kernel, clear_of (by decide +kernel),
    by unfold Fits; decide +kernel, by unfold Fits; decide +kernel, by decide, by decide⟩

theorem witness_PushAndPop_Push : ∃ (s u : State) (c d : Ctx) (o : BitVec 20), Ready s c false false false {} [] ∧ Fits (relTarget c o) ∧
    c.gr.stack.length < 64 ∧ Ready u d false false false {} [] ∧ Fits (relTarget d o) ∧ 64 ≤ d.gr.stack.length :=
  ⟨s0, partlyFull, c0, tctx partlyFull, 1, ready_of (by decide +kernel), by unfold Fits; decide +kernel, by decide +kernel, ready_of (by decide +kernel),
    by unfold Fits; decide +kernel, by decide +kernel⟩

theorem witness_PushAndPop_Pop_trap : ∃ (s : State) (c : Ctx) (e : StackEntry), Clear s c false false false {} [] ∧ c.gr.top? c.who.si = some e ∧
    e.kind = .trap ∧ (c.co.status = .resident ∧ s.stopped c.co = false ∧ ∀ g ∈ c.co.groups, g.pend = none ∧ g.queued = []) ∧
    (c.co.groups.zipIdx.all fun h => h.1.splits.zipIdx.all fun x => !x.1.live || !x.1.handler || (h.2 == c.who.gi && x.2 == c.who.si)) = true :=
  ⟨handling, tctx handling, _, clear_of (by decide +kernel), rfl, rfl, by decide +kernel, by decide +kernel⟩

/-- A JOIN entry at the split's word, with lanes 0 and 1; the split has lane 0, split 1 lane 1. -/
def joining (w : Wait) (arr : Word) : State := tstate id fun g =>
  { g with stack := [{ kind := .join, owner := none, mask := 3, arr := arr, pos := 0, pc := 65536 }],
           splits := [{ live := true, pc := 65536, mask := 1 }, { live := true, pc := 65536, mask := 2, wait := w }, {}, {}] }

/-- No split is in a `waitj`, as a check. -/
theorem onTime_of {s : State} {c : Ctx} (h : (c.gr.splits.all fun x => match x.wait with | .waitj _ _ => false | _ => true) = true) : OnTime s c := by
  intro x hx p n hw
  have := List.all_eq_true.mp h x hx
  rw [hw] at this
  cases this

theorem witness_PushAndPop_Pop_join : ∃ (s : State) (c : Ctx) (e : StackEntry), Ready s c false false false {} [] ∧ c.gr.top? c.who.si = some e ∧
    e.kind = .join ∧ c.sp.wait = .none ∧ OnTime s c ∧ WaitsAt c.gr e 1 :=
  ⟨joining .join 2, tctx (joining .join 2), _, ready_of (by decide +kernel), rfl, rfl, by decide +kernel, onTime_of (by decide +kernel),
    ⟨_, rfl, rfl, .inl rfl, rfl, rfl, by decide⟩⟩

/-- A DEFER entry on top. -/
def deferred : State := tstate id fun g =>
  { g with stack := [{ kind := .defer, owner := none, mask := 2, pos := 0, pc := 65544 }, { kind := .join, owner := none, mask := 0xFFFFFFFF, pos := 0, pc := 65536 }],
           splits := [{ live := true, pc := 65536, mask := 1 }, {}, {}, {}] }

theorem witness_PushAndPop_Pop_none : ∃ (s u : State) (c d : Ctx) (e : StackEntry), Clear s c false false false {} [] ∧ c.gr.top? c.who.si = none ∧
    Clear u d false false false {} [] ∧ d.gr.top? d.who.si = some e ∧ e.kind = .defer :=
  ⟨s0, deferred, c0, tctx deferred, _, clear_of (by decide +kernel), rfl, clear_of (by decide +kernel), rfl, rfl⟩

/-- Lanes of live splits are apart, as a check. -/
def disjointB (c : Ctx) : Bool := c.gr.splits.zipIdx.all fun p => p.2 == c.who.si || !p.1.live || p.1.mask &&& c.sp.mask == 0

theorem disjoint_of {c : Ctx} (h : disjointB c = true) : DisjointMasks c := by
  intro j x hj hx hl
  have := List.all_eq_true.mp h (x, j) (by rw [List.mem_iff_getElem?]; exact ⟨j, by rw [List.getElem?_zipIdx, hx]; simp⟩)
  simp only [Bool.or_eq_true, beq_iff_eq, Bool.not_eq_true'] at this
  rcases this with (h | h) | h
  · exact absurd h hj
  · rw [hl] at h; cases h
  · exact h

theorem witness_Joins_none : ∃ (s : State) (c : Ctx), Ready s c false false false {} [] ∧ c.sp.handler = false ∧ DisjointMasks c ∧ OnTime s c ∧ c.gr.join? c.who.si = none :=
  ⟨s0, c0, ready_of (by decide +kernel), by decide +kernel, disjoint_of (by decide +kernel), onTime_of (by decide +kernel), rfl⟩

/-- The last arrival, with split 1 waiting. -/
theorem witness_Joins_last : ∃ (s : State) (c : Ctx) (e : StackEntry), Ready s c false false false {} [] ∧ c.sp.handler = false ∧ DisjointMasks c ∧ OnTime s c ∧
    c.gr.join? c.who.si = some e ∧ c.gr.top? c.who.si = some e ∧ e.pc = c.sp.pc ∧ e.arr ||| c.sp.mask = e.mask ∧ WaitsAt c.gr e 1 :=
  ⟨joining .join 2, tctx (joining .join 2), _, ready_of (by decide +kernel), by decide +kernel, disjoint_of (by decide +kernel), onTime_of (by decide +kernel), rfl, rfl, rfl, by decide,
    ⟨_, rfl, rfl, .inl rfl, rfl, rfl, by decide⟩⟩

/-- An arrival before the last, for `join`, for `waitj` with a time, and for `waitj` with none. -/
theorem witness_Joins_early : ∃ (s : State) (c : Ctx) (e : StackEntry) (x : Split), Ready s c false false false {} [] ∧ c.sp.handler = false ∧
    DisjointMasks c ∧ OnTime s c ∧ c.gr.join? c.who.si = some e ∧ c.gr.top? c.who.si = some e ∧ e.pc = c.sp.pc ∧ e.arr ||| c.sp.mask ≠ e.mask ∧
    (1 ≠ c.who.si ∧ c.gr.splits[1]? = some x ∧ x.live = true ∧ x.wait ≠ .join) ∧ (1 : BitVec 19) ≠ 0 ∧ e.arr &&& c.sp.mask = 0 :=
  ⟨joining .none 0, tctx (joining .none 0), _, _, ready_of (by decide +kernel), by decide +kernel, disjoint_of (by decide +kernel), onTime_of (by decide +kernel), rfl, rfl, rfl, by decide,
    ⟨by decide, rfl, rfl, by decide⟩, by decide, by decide⟩

theorem witness_Joins_defer : ∃ (s : State) (c : Ctx) (e d : StackEntry), Ready s c false false false {} [] ∧ c.sp.handler = false ∧ DisjointMasks c ∧ OnTime s c ∧
    c.gr.join? c.who.si = some e ∧ c.gr.top? c.who.si = some d ∧ d.kind = .defer ∧ e.pc = c.sp.pc :=
  ⟨deferred, tctx deferred, _, _, ready_of (by decide +kernel), by decide +kernel, disjoint_of (by decide +kernel), onTime_of (by decide +kernel), rfl, rfl, rfl, by decide⟩
theorem lt_of_has {m : Word} {l : Nat} (h : has m l = true) : l < 32 := by
  refine Nat.lt_of_not_le fun hc => ?_
  rw [show has m l = m.getLsbD l from rfl, BitVec.getLsbD_of_ge m l hc] at h
  cases h

theorem only_of_one {m : Word} {l : Nat} (h : (List.range 32).all (fun k => has m k == decide (k = l)) = true) (hl : l < 32) : Only m l := by
  intro k
  constructor
  · intro hk
    have := List.all_eq_true.mp h k (List.mem_range.mpr (lt_of_has hk))
    simp only [hk, beq_iff_eq] at this
    exact of_decide_eq_true this.symm
  · rintro rfl
    have := List.all_eq_true.mp h k (List.mem_range.mpr hl)
    simpa using this

/-- Splits 0 and 1 with half of the lanes each; split 1 waits as said. -/
def halves (w : Wait) : State := tstate id fun g =>
  { g with splits := [{ live := true, pc := 65536, mask := 0xFFFF }, { live := true, pc := 65536, mask := 0xFFFF0000, wait := w }, {}, {}] }

/-- Two groups, the second with one live split that waits as said. -/
def paired (w : Wait) : State := tstate (fun c =>
  { c with groups := c.groups.flatMap (fun g => [g, { g with index := 1, slot := 1, splits := [{ live := true, pc := 65536, mask := 0xFFFFFFFF, wait := w }, {}, {}, {}] }]),
           ngroups := 2 }) id

theorem witness_YieldAndExit_other : ∃ (s : State) (c : Ctx) (x : Split), Ready s c false false false {} [] ∧ DisjointMasks c ∧ OnTime s c ∧
    (c.sp.handler = false ∧ c.gr.stack = [] ∧ c.gr.dg = [] ∧ c.gr.dgIter = [] ∧ c.gr.wz = [] ∧ c.gr.items = [] ∧ c.co.sets = [] ∧ c.gr.fin = false ∧
      c.gr.queued = [] ∧ c.who.gi < c.co.ngroups) ∧ c.co.run = none ∧ c.gr.splits[1]? = some x ∧ x.live = true ∧ x.wait = .none :=
  ⟨halves .none, tctx (halves .none), _, ready_of (by decide +kernel), disjoint_of (by decide +kernel), onTime_of (by decide +kernel), by decide +kernel,
    by decide +kernel, rfl, rfl, rfl⟩

theorem witness_YieldAndExit_last : ∃ (s : State) (c : Ctx) (h : Group), Clear s c false false false {} [] ∧ DisjointMasks c ∧ OnTime s c ∧
    (c.sp.handler = false ∧ c.gr.stack = [] ∧ c.gr.dg = [] ∧ c.gr.dgIter = [] ∧ c.gr.wz = [] ∧ c.gr.items = [] ∧ c.co.sets = [] ∧ c.gr.fin = false ∧
      c.gr.queued = [] ∧ c.who.gi < c.co.ngroups) ∧ c.co.run = none ∧ (∀ j, j < 4 → j ≠ c.who.si → c.gr.splits[j]?.elim false (fun x => x.live) = false) ∧ h ∈ c.co.groups ∧
    h.index ≠ c.gr.index ∧ h.fin = false :=
  ⟨paired .none, tctx (paired .none), _, clear_of (by decide +kernel), disjoint_of (by decide +kernel), onTime_of (by decide +kernel), by decide +kernel,
    by decide +kernel, by decide +kernel, List.mem_of_getElem? (i := 1) rfl, by decide, rfl⟩

theorem witness_Barriers_CohortBarrier_early : ∃ (s : State) (c : Ctx) (h : Group) (x : Split), Ready s c false false false {} [] ∧ c.sp.handler = false ∧
    c.co.groups.length = c.co.ngroups ∧ c.gr.fin = false ∧ c.co.groups[1]? = some h ∧ h.fin = false ∧ x ∈ h.splits ∧ x.live = true ∧ x.wait ≠ .barc :=
  ⟨paired .none, tctx (paired .none), _, _, ready_of (by decide +kernel), by decide +kernel, by decide +kernel, by decide +kernel, rfl, rfl,
    List.mem_of_getElem? (i := 0) rfl, rfl, by decide⟩

theorem witness_Barriers_CohortBarrier_last : ∃ (s : State) (c : Ctx), Ready s c false false false {} [] ∧ c.sp.handler = false ∧
    c.co.groups.length = c.co.ngroups ∧ c.gr.fin = false ∧
    (∀ j, j < 4 → j ≠ c.who.si → c.gr.splits[j]?.elim false (fun x => x.live) = false) ∧
    ∀ h ∈ c.co.groups.drop 1, (h.splits.any fun x => x.live) = true ∧ ∀ x ∈ h.splits, x.live = true → x.wait = .barc :=
  ⟨paired .barc, tctx (paired .barc), ready_of (by decide +kernel), by decide +kernel, by decide +kernel, by decide +kernel, by decide +kernel,
    by decide +kernel⟩

/-- Barrier words: at 0 two groups are expected and none has come; at 4 the overrun mark is set; s1 holds 0, s2 4, s3 2, s4 4096. -/
def barring : State := tstate (fun c => { c with scratch := [(2, 0x20), (7, 0x40)] }) fun g => { g with s := [(2, 4), (3, 2), (4, 4096), (5, 1)] }

/-- The barrier word at offset 4 is in error. -/
def barError : State := tstate (fun c => { c with badScr := [0] }) fun g => { g with s := [(2, 4)] }

theorem witness_Barriers_PhaseBarrier_error : ∃ (s : State) (c : Ctx), Ready s c false false false {} [] ∧ c.sp.handler = false ∧ Unwatched s c.co ∧ c.sp.wait = .none ∧
    Sparse.rises 0 c.co.scratch = true ∧ ((c.gr.getS 2).toNat % 4 = 0 ∧ (c.gr.getS 2).toNat + 4 ≤ c.co.z) ∧
    ∃ b ∈ c.co.badScr, (c.gr.getS 2).toNat < 32 * b + 32 ∧ 32 * b < (c.gr.getS 2).toNat + 4 :=
  ⟨barError, tctx barError, ready_of (by decide +kernel), by decide +kernel, by unfold Unwatched; decide +kernel, by decide +kernel, by decide +kernel,
    by decide +kernel, 0, List.mem_of_getElem? (i := 0) rfl, by decide +kernel⟩

theorem witness_Barriers_PhaseBarrier : ∃ (s : State) (c : Ctx), Ready s c false false false {} [] ∧ c.sp.handler = false ∧ Unwatched s c.co ∧ c.sp.wait = .none ∧
    Sparse.rises 0 c.co.scratch = true ∧ (c.gr.getS 3).toNat % 4 ≠ 0 ∧ ((c.gr.getS 4).toNat % 4 = 0 ∧ c.co.z < (c.gr.getS 4).toNat + 4) ∧
    ((c.gr.getS 2).toNat % 4 = 0 ∧ (c.gr.getS 2).toNat + 4 ≤ c.co.z ∧ c.co.badScr = [] ∧ c.co.cmdWords.contains 4 = false ∧ arriveSpec (barWord c.co 4) 0 = none) ∧
    (arriveSpec (barWord c.co 0) 0).isSome = true ∧ (arriveSpec (barWord c.co 0) 1).isSome = true ∧ (barWord c.co 0).toNat / 2 ^ 31 = 0 :=
  ⟨barring, tctx barring, ready_of (by decide +kernel), by decide +kernel, by unfold Unwatched; decide +kernel, by decide +kernel, by decide +kernel,
    by decide +kernel, by decide +kernel, by decide +kernel, (by decide +kernel), by decide +kernel, by decide +kernel⟩

/-! ### Witnesses: memory (15) -/

/-- The line of address 0x10400 and the page that holds it. -/
def warmCluster : Cluster :=
  { lines := [{ key := 520, cell := 0, bytes := (List.range 32).map fun i => (i, some { v := BitVec.ofNat 8 i }) }],
    tlb := [{ root := .hf, base := 0, size := 2 ^ 30, entry := 99 }] }

/-- Every lane's v2:v3, and s2:s3, hold 0x10400; the cluster holds its line or nothing; the split has the lanes of m. -/
def memState (warm : Bool) (m : Word) (l : List Word) : State :=
  let s := tstate id fun g => onSplit (fun x => chained l { x with mask := m })
    { g with v := (List.range 32).map fun i => (64 + i, 0x10400#32), s := [(2, 0x10400)] }
  if warm then { s with clusters := [(0, warmCluster)] } else s

def keyAt (_ : Nat) : Nat := 0x10400

/-- The checks of 15 R216, as a check. -/
def reachB (s : State) (c : Ctx) (m : Word) (k : Access) (w : Nat) (ea key : Nat → Nat) : Bool :=
  (List.range 32).all fun l => !has m l || (decide (ea l < 2 ^ 56) && ea l % w == 0 && !isRegKey (key l) && !s.noRoute (key l) && key l % w == 0 &&
    match s.laneXlate c.co (ea l) k with
    | .ok p => p.key == key l
    | .error _ => false)

theorem reach_of {s : State} {c : Ctx} {m : Word} {k : Access} {w : Nat} {ea key : Nat → Nat} (h : reachB s c m k w ea key = true) :
    Reach s c m k w ea key := by
  intro l hl
  have := List.all_eq_true.mp h l (List.mem_range.mpr (lt_of_has hl))
  rw [hl] at this
  simp only [Bool.not_true, Bool.false_or, Bool.and_eq_true, decide_eq_true_eq, beq_iff_eq, Bool.not_eq_true'] at this
  obtain ⟨⟨⟨⟨⟨h1, h2⟩, h3⟩, h4⟩, h5⟩, h6⟩ := this
  cases hx : s.laneXlate c.co (ea l) k with
  | error e => rw [hx] at h6; cases h6
  | ok p => rw [hx] at h6; exact ⟨h1, h2, h3, h4, h5, p, rfl, by simpa using h6⟩

def warmB (s : State) (c : Ctx) (m : Word) (ea key : Nat → Nat) : Bool :=
  s.canonical && (match s.clusterOf c.co with
    | none => true
    | some k => decide ((s.cluster k).lines.map fun x => x.key).Nodup && (s.cluster k).lines.all (fun x => Sparse.rises 0 x.bytes) &&
        (List.range 32).all fun l => !has m l ||
          ((s.cluster k).tlb.any (fun e => decide (e.root = c.co.root) && decide (e.base ≤ ea l) && decide (ea l < e.base + e.size)) &&
            (List.range 32).all fun i => (s.cached? k (key l / 32 * 32 + i)).isSome))

theorem warm_of {s : State} {c : Ctx} {m : Word} {ea key : Nat → Nat} (h : warmB s c m ea key = true) : Warm s c m ea key := by
  unfold warmB at h
  simp only [Bool.and_eq_true] at h
  refine ⟨h.1, fun k hk => ?_⟩
  have h2 := h.2
  rw [hk] at h2
  simp only [Bool.and_eq_true, decide_eq_true_eq, List.all_eq_true] at h2
  refine ⟨h2.1.1, h2.1.2, fun l hl => ?_⟩
  have h3 := h2.2 l (List.mem_range.mpr (lt_of_has hl))
  rw [hl] at h3
  simp only [Bool.not_true, Bool.false_or, Bool.and_eq_true, List.any_eq_true, decide_eq_true_eq, List.all_eq_true] at h3
  obtain ⟨⟨e, he, ⟨h4, h5⟩, h6⟩, h7⟩ := h3
  exact ⟨⟨e, he, h4, h5, h6⟩, fun i hi => h7 i (List.mem_range.mpr hi)⟩

theorem calm_of {s : State} {c : Ctx} (h : (s.bad.isEmpty && c.co.badScr.isEmpty && s.sc.isEmpty && s.ords.isEmpty) = true) : Calm s c := by
  simp only [Bool.and_eq_true, List.isEmpty_iff] at h
  obtain ⟨⟨⟨a, b⟩, h1⟩, h2⟩ := h
  exact ⟨a, b, by simp [h1], by simp [h2]⟩

theorem witness_GlobalAndConstantLoads_GlobalLoad : ∃ (s : State) (c : Ctx) (x : ML) (key : Nat → Nat), x.d.toNat % sizeRegs x.sz.toNat = 0 ∧
    Ready s c true false true { b8 := x.sz.toNat == 0, cp := true } (x.o.toNat :: dataRegs x.sz.toNat x.d.toNat) ∧ Calm s c ∧ Unwatched s c.co ∧
    dispFits c ∧ Reach s c (c.part x.g.toNat) .read (sizeBytes x.sz.toNat c.h.b8) (gAddr c x.bp.toNat x.o.toNat) key ∧
    Warm s c (c.part x.g.toNat) (gAddr c x.bp.toNat x.o.toNat) key :=
  ⟨memState true 0x80000001 [], tctx (memState true 0x80000001 []), ⟨7, 124, 0, 2, 1, 0⟩, keyAt, by decide, ready_of (by decide +kernel),
    calm_of (by decide +kernel), by unfold Unwatched; decide +kernel, by unfold dispFits immFits; decide +kernel, reach_of (by decide +kernel), warm_of (by decide +kernel)⟩

/-- Constants at 0x10400; v0 holds 0, v4 the last offset of a 16-byte load, v5 the one after it. -/
def constant : State := tstate (fun c => { c with hdr := c.hdr ||| BitVec.ofNat 1024 (0x10400 * 2 ^ 832) }) fun g =>
  { g with v := ((List.range 32).map fun i => (128 + i, 65520#32)) ++ (List.range 32).map fun i => (160 + i, 65536#32) }

theorem witness_GlobalAndConstantLoads_ConstantLoad : ∃ (s : State) (c : Ctx) (key : Nat → Nat), (2 : BitVec 2) ≠ 3 ∧ (124 : BitVec 7).toNat % sizeRegs 2 = 0 ∧
    Ready s c true false true { cp := true } (4 :: dataRegs 2 124) ∧ Calm s c ∧ Unwatched s c.co ∧ dispFits c ∧
    (∀ l, l < 32 → 0 ≤ cOff c 4 l ∧ cOff c 4 l + 16 ≤ 65536) ∧
    Reach s c (c.part 7) .read (sizeBytes 2 false) (fun l => (bits c.co.hdr 832 56 + cOff c 4 l).toNat) key :=
  ⟨constant, tctx constant, fun _ => 0x10400 + 65520, by decide, by decide, ready_of (by decide +kernel), calm_of (by decide +kernel),
    by unfold Unwatched; decide +kernel, by unfold dispFits immFits; decide +kernel, by decide +kernel, reach_of (by decide +kernel)⟩

theorem witness_GlobalAndConstantLoads_ConstantLoad_outside : ∃ (s : State) (c : Ctx), (0 : BitVec 2) ≠ 3 ∧ (124 : BitVec 7).toNat % sizeRegs 0 = 0 ∧
    Ready s c true false true { cp := true } (5 :: dataRegs 0 124) ∧ Calm s c ∧ Unwatched s c.co ∧ dispFits c ∧ (ones (c.part 7)).head? = some 0 ∧
    65536 < cOff c 5 0 + 4 :=
  ⟨constant, tctx constant, by decide, by decide, ready_of (by decide +kernel), calm_of (by decide +kernel), by unfold Unwatched; decide +kernel,
    by unfold dispFits immFits; decide +kernel, by decide +kernel, by decide +kernel⟩

theorem witness_GlobalAndConstantLoads_Prefetch : ∃ (s : State) (c : Ctx), Ready s c true false true { cp := true } [127] ∧ Calm s c ∧ dispFits c ∧
    s.canonical = true :=
  ⟨s0, c0, ready_of (by decide +kernel), calm_of (by decide +kernel), by unfold dispFits immFits; decide +kernel, by decide +kernel⟩

/-- s4 holds the last offset of a 16-byte access to the 4,096 bytes of scratch, s6 the one after it. -/
def scratchy (l : List Word) : State := tstate id fun g => onSplit (chained l) { g with s := [(4, 4080), (6, 4096)], v := (List.range 32).map fun i => (160 + i, 2#32) }

theorem witness_ScratchLoadStore : ∃ (s : State) (c : Ctx) (x : MS), s.canonical = true ∧ Sparse.rises 0 c.co.scratch = true ∧
    x.d.toNat % sizeRegs x.sz.toNat = 0 ∧
    Ready s c true false true { b8 := x.sz.toNat == 0, cp := true } (x.o.toNat :: dataRegs x.sz.toNat x.d.toNat) ∧ Calm s c ∧ Unwatched s c.co ∧
    dispFits c ∧ ∀ l, l < 32 → 0 ≤ sAddr c x.bp.toNat x.o.toNat l ∧ sAddr c x.bp.toNat x.o.toNat l + sizeBytes x.sz.toNat c.h.b8 ≤ c.co.z ∧
      sAddr c x.bp.toNat x.o.toNat l % sizeBytes x.sz.toNat c.h.b8 = 0 :=
  ⟨scratchy [], tctx (scratchy []), ⟨7, 124, 0, 2, 2⟩, by decide +kernel, by decide +kernel, by decide, ready_of (by decide +kernel),
    calm_of (by decide +kernel), by unfold Unwatched; decide +kernel, by unfold dispFits immFits; decide +kernel, by decide +kernel⟩

theorem witness_GlobalStore_cached : ∃ (s : State) (c : Ctx) (x : MS) (key : Nat → Nat), x.d.toNat % sizeRegs x.sz.toNat = 0 ∧
    Ready s c true false true { b8 := x.sz.toNat == 0, cp := true } (x.o.toNat :: dataRegs x.sz.toNat x.d.toNat) ∧ Calm s c ∧ Unwatched s c.co ∧
    dispFits c ∧ Reach s c (c.part x.g.toNat) .write (sizeBytes x.sz.toNat c.h.b8) (gAddr c x.bp.toNat x.o.toNat) key ∧
    Warm s c (c.part x.g.toNat) (gAddr c x.bp.toNat x.o.toNat) key ∧ s.clusterOf c.co = some 0 ∧ s.dslotOf c.co = none :=
  ⟨memState true 0x80000001 [], tctx (memState true 0x80000001 []), ⟨7, 124, 0, 2, 1⟩, keyAt, by decide, ready_of (by decide +kernel),
    calm_of (by decide +kernel), by unfold Unwatched; decide +kernel, by unfold dispFits immFits; decide +kernel, reach_of (by decide +kernel),
    warm_of (by decide +kernel), by decide +kernel, by decide +kernel⟩

/-- The same on Headframe core 0, with one lane. -/
def onCore (l : List Word) : State :=
  let s := memState false 1 l
  { s with cohorts := s.cohorts.map fun c => { c with kind := .headframe 0 } }

theorem witness_GlobalStore_core : ∃ (s : State) (c : Ctx) (x : MS) (key : Nat → Nat), x.d.toNat % sizeRegs x.sz.toNat = 0 ∧
    Ready s c true false true { b8 := x.sz.toNat == 0, cp := true } (x.o.toNat :: dataRegs x.sz.toNat x.d.toNat) ∧ Calm s c ∧ Unwatched s c.co ∧
    dispFits c ∧ Reach s c (c.part x.g.toNat) .write (sizeBytes x.sz.toNat c.h.b8) (gAddr c x.bp.toNat x.o.toNat) key ∧ c.co.isHF = true ∧
    c.co.root = .hf ∧ Only (c.part x.g.toNat) 0 ∧ Memory.wf s.mem = true :=
  ⟨onCore [], tctx (onCore []), ⟨7, 127, 0, 0, 1⟩, keyAt, by decide, ready_of (by decide +kernel), calm_of (by decide +kernel),
    by unfold Unwatched; decide +kernel, by unfold dispFits immFits; decide +kernel, reach_of (by decide +kernel), by decide +kernel, by decide +kernel,
    only_of_one (by decide +kernel) (by decide), by decide +kernel⟩

/-- A displacement with a payload bit above bit 31. -/
theorem witness_MemoryTraps_displacement : ∃ (s : State) (c : Ctx), Ready s c true false true { b8 := true, cp := true } [0, 127] ∧ Calm s c ∧
    Unwatched s c.co ∧ ¬ dispFits c :=
  ⟨hinted [0x7E000400, 0x7E000000], tctx (hinted [0x7E000400, 0x7E000000]), ready_of (by decide +kernel), calm_of (by decide +kernel),
    by unfold Unwatched; decide +kernel, by unfold dispFits immFits; decide +kernel⟩

/-- Addresses: s2:s3 = 2^56, s4:s5 = 2, s6:s7 = 2^40. -/
def wrong : State := tstate id fun g => { g with s := [(3, 0x1000000), (4, 2), (7, 256)] }

theorem witness_MemoryTraps_global : ∃ (s : State) (c : Ctx), Ready s c true false true { b8 := true, cp := true } [0, 127] ∧ Calm s c ∧ Unwatched s c.co ∧
    dispFits c ∧ has (c.part 7) 0 = true ∧ 2 ^ 56 ≤ gAddr c 1 0 0 ∧ (gAddr c 2 0 0 < 2 ^ 56 ∧ gAddr c 2 0 0 % 4 ≠ 0) ∧
    gAddr c 3 0 0 < 2 ^ 56 ∧ gAddr c 3 0 0 % 4 = 0 ∧ s.laneXlate c.co (gAddr c 3 0 0) .read = .error 3 :=
  ⟨wrong, tctx wrong, ready_of (by decide +kernel), calm_of (by decide +kernel), by unfold Unwatched; decide +kernel,
    by unfold dispFits immFits; decide +kernel, by decide +kernel, by decide +kernel, by decide +kernel, by decide +kernel, by decide +kernel, rfl⟩

theorem witness_MemoryTraps_scratch : ∃ (s : State) (c : Ctx), Ready s c true false true { b8 := true, cp := true } [0, 127] ∧ Calm s c ∧ dispFits c ∧
    has (c.part 7) 0 = true ∧ (c.co.z : Int) < sAddr c 3 0 0 + 4 ∧ 0 ≤ sAddr c 0 5 0 ∧ sAddr c 0 5 0 + 4 ≤ c.co.z ∧ sAddr c 0 5 0 % 4 ≠ 0 :=
  ⟨scratchy [], tctx (scratchy []), ready_of (by decide +kernel), calm_of (by decide +kernel), by unfold dispFits immFits; decide +kernel, by decide +kernel,
    by decide +kernel, by decide +kernel, by decide +kernel, by decide +kernel⟩

theorem noLines_of {s : State} {c : Ctx} (h : (match s.clusterOf c.co with | none => true | some k => (s.cluster k).lines.isEmpty) = true) : NoLines s c := by
  intro k hk
  rw [hk] at h
  simpa using h

theorem backed_of {s : State} {c : Ctx} (h : (match s.clusterOf c.co with | none => true | some k => !s.unbacked k) = true) : Backed s c := by
  intro k hk
  rw [hk] at h
  simpa using h

/-- A sector in error: at 0x10400 of memory, and the one of offset 2 of scratch. -/
def spoiled : State := { memState false 1 [] with bad := [0x820] }
def spoiledScratch : State := tstate (fun c => { c with badScr := [0] }) id

theorem witness_MemoryTraps_error : ∃ (s u : State) (c d : Ctx) (p : Phys), Ready s c true false true { b8 := true, cp := true } [0, 127] ∧
    NoLines s c ∧ Unwatched s c.co ∧ dispFits c ∧ s.laneXlate c.co (gAddr c 1 0 0) .read = .ok p ∧
    (s.sc = [] ∧ s.ords = [] ∧ has (c.part 7) 0 = true ∧ gAddr c 1 0 0 < 2 ^ 56 ∧ gAddr c 1 0 0 % 4 = 0 ∧ isRegKey p.key = false ∧ p.key / 32 ∈ s.bad) ∧
    Ready u d true false true { b8 := true, cp := true } [0, 127] ∧ (u.sc = [] ∧ u.ords = []) ∧ Unwatched u d.co ∧ dispFits d ∧
    (∀ k, has (d.part 7) k = true → 0 ≤ sAddr d 0 0 k ∧ sAddr d 0 0 k + 4 ≤ d.co.z ∧ sAddr d 0 0 k % 4 = 0) ∧ (sAddr d 0 0 0).toNat / 32 ∈ d.co.badScr := by
  have hx : ∀ k, k < 32 → 0 ≤ sAddr (tctx spoiledScratch) 0 0 k ∧ sAddr (tctx spoiledScratch) 0 0 k + 4 ≤ (tctx spoiledScratch).co.z ∧
      sAddr (tctx spoiledScratch) 0 0 k % 4 = 0 := by decide +kernel
  obtain ⟨p, hp⟩ : ∃ p, spoiled.laneXlate (tctx spoiled).co (gAddr (tctx spoiled) 1 0 0) .read = .ok p := ⟨_, rfl⟩
  have hk : (match spoiled.laneXlate (tctx spoiled).co (gAddr (tctx spoiled) 1 0 0) .read with
      | .ok p => !isRegKey p.key && spoiled.bad.contains (p.key / 32) | .error _ => false) = true := by decide +kernel
  rw [hp] at hk
  simp only [Bool.and_eq_true, Bool.not_eq_true', List.contains_iff_mem] at hk
  exact ⟨spoiled, spoiledScratch, tctx spoiled, tctx spoiledScratch, p, ready_of (by decide +kernel), noLines_of (by decide +kernel),
    by unfold Unwatched; decide +kernel, by unfold dispFits immFits; decide +kernel, hp,
    ⟨rfl, rfl, by decide +kernel, by decide +kernel, by decide +kernel, hk⟩, ready_of (by decide +kernel), ⟨rfl, rfl⟩,
    by unfold Unwatched; decide +kernel, by unfold dispFits immFits; decide +kernel, fun k h => hx k (lt_of_has h), by decide +kernel⟩
/-- An atomic at home, of one lane, before the cohort's source has sent any request. -/
theorem witness_GlobalAtomics_home : ∃ (s : State) (c : Ctx) (key : Nat → Nat), (3 : BitVec 3).toNat ≤ 3 ∧ rowCas.ok 4 2 ∧
    Ready s c true true false { cp := true } (rowCas.regs 4 2) ∧ Calm s c ∧ Unwatched s c.co ∧ dispFits c ∧ bit c.co.hdr 5 = false ∧
    Reach s c c.partH .write 4 (aAddr c 2) key ∧ isHostKey (key 0) = false ∧ Only c.partH 0 ∧ s.canonical = true ∧ NoLines s c ∧ InStep s c (key 0) ∧
    TrackOff s (s.vdTag c.co.root) ∧ Backed s c :=
  ⟨memState false 1 [0x7EB80000], tctx (memState false 1 [0x7EB80000]), keyAt, by decide, by unfold AtomRow.ok; decide, ready_of (by decide +kernel),
    calm_of (by decide +kernel), by unfold Unwatched; decide +kernel, by unfold dispFits immFits; decide +kernel, by decide +kernel, reach_of (by decide +kernel),
    by decide +kernel, only_of_one (by decide +kernel) (by decide), by decide +kernel, noLines_of (by decide +kernel), by unfold InStep; decide +kernel, .inl (by decide +kernel),
    backed_of (by decide +kernel)⟩

theorem witness_GlobalAtomics_cluster : ∃ (s : State) (c : Ctx) (key : Nat → Nat), (1 : BitVec 3).toNat ≤ 3 ∧ rowAdd64.ok 4 2 ∧
    Ready s c true true false { cp := true } (rowAdd64.regs 4 2) ∧ Calm s c ∧ Unwatched s c.co ∧ dispFits c ∧ bit c.co.hdr 5 = false ∧
    Reach s c c.partH .write 8 (aAddr c 2) key ∧ isHostKey (key 0) = false ∧ Only c.partH 0 ∧ s.clusterOf c.co = some 0 ∧ key 0 < 2 ^ 40 ∧
    Warm s c c.partH (aAddr c 2) key ∧ s.dslotOf c.co = none :=
  ⟨memState true 1 [], tctx (memState true 1 []), keyAt, by decide, by unfold AtomRow.ok; decide, ready_of (by decide +kernel),
    calm_of (by decide +kernel), by unfold Unwatched; decide +kernel, by unfold dispFits immFits; decide +kernel, by decide +kernel, reach_of (by decide +kernel),
    by decide +kernel, only_of_one (by decide +kernel) (by decide), by decide +kernel, by decide +kernel, warm_of (by decide +kernel), by decide +kernel⟩

theorem witness_OtherAtomics_ScratchAtomics : ∃ (s : State) (c : Ctx), s.canonical = true ∧ Sparse.rises 0 c.co.scratch = true ∧ rowAdd64.ok 126 124 ∧
    Ready s c true true false { cp := true } (rowAdd64.regs 126 124) ∧ Calm s c ∧ Unwatched s c.co ∧ dispFits c ∧
    ∀ l, l < 32 → (0 : Int) ≤ (pairV c 124 l).toNat + dispOf c ∧ (pairV c 124 l).toNat + dispOf c + 8 ≤ c.co.z ∧ ((pairV c 124 l).toNat + dispOf c) % 8 = 0 :=
  ⟨s0, c0, by decide +kernel, by decide +kernel, by unfold AtomRow.ok; decide, ready_of (by decide +kernel), calm_of (by decide +kernel),
    by unfold Unwatched; decide +kernel, by unfold dispFits immFits; decide +kernel, by decide +kernel⟩

theorem witness_OtherAtomics_SequencedAtomics : ∃ (s : State) (c : Ctx) (key : Nat → Nat), rowCas.ok 4 2 ∧
    Ready s c true true false { cp := true } (rowCas.regs 4 2) ∧ Calm s c ∧ Unwatched s c.co ∧ (2 : BitVec 3).toNat ≤ 3 ∧ (1 : BitVec 3).toNat < 2 ∧
    dispFits c ∧ bit c.co.hdr 5 = false ∧ s.kindOn c.co.die 3 = false ∧ s.canonical = true ∧ NoLines s c ∧
    Reach s c c.partH .write 4 (aAddr c 2) key ∧ isHostKey 0x10400 = false ∧ c.partH ≠ 0 :=
  ⟨memState false 3 [], tctx (memState false 3 []), keyAt, by unfold AtomRow.ok; decide, ready_of (by decide +kernel),
    calm_of (by decide +kernel), by unfold Unwatched; decide +kernel, by decide, by decide, by unfold dispFits immFits; decide +kernel, by decide +kernel,
    by decide +kernel, by decide +kernel, noLines_of (by decide +kernel), reach_of (by decide +kernel), by decide +kernel, by decide +kernel⟩

/-- A cluster that holds one dirty byte. -/
def dirty : State :=
  { s0 with clusters := [(0, { lines := [{ key := 520, cell := 0, bytes := [(127, some { v := 7, dirty := some 0 })] }] })] }

/-- The cluster holds a dirty byte of module 0's memory, which this module is not, and no port is UP. -/
def unroutable : State :=
  ({ s0 with clusters := [(0, { lines := [{ key := 2 ^ 33, cell := 0, bytes := [(0, some { v := 1, dirty := some 0 })] }] })] } : State).setReg 0x0008 1

theorem witness_Fences_Fence_waits : ∃ (s : State) (c : Ctx), (2 : BitVec 3).toNat ≤ 3 ∧ Ready s c false false false {} [] ∧ c.sp.wait = .none ∧ ¬ Backed s c :=
  ⟨unroutable, tctx unroutable, by decide, ready_of (by decide +kernel), by decide +kernel, fun h => by
    have h1 := h 0 (by decide +kernel)
    have h2 : unroutable.unbacked 0 = true := by decide +kernel
    rw [h1] at h2
    cases h2⟩

theorem witness_Fences_Fence : ∃ (s : State) (c : Ctx), (2 : BitVec 3).toNat ≤ 3 ∧ Ready s c false false false {} [] ∧ c.sp.wait = .none ∧ Backed s c ∧
    s.clusterOf c.co = some 0 ∧ s.canonical = true ∧ ((s.cluster 0).lines.map fun x => x.key).Nodup ∧
    ∀ x ∈ (s.cluster 0).lines, Sparse.rises 0 x.bytes = true ∧ ∀ p ∈ x.bytes, p.1 < 128 ∧
      (p.2.elim true fun b => decide (b.dirty = none ∨ b.dirty = some 0)) = true :=
  ⟨dirty, tctx dirty, by decide, ready_of (by decide +kernel), by decide +kernel, backed_of (by decide +kernel), by decide +kernel, by decide +kernel, by decide +kernel, by decide +kernel⟩

/-- A copy of the group's that still runs. -/
def copying : State :=
  { s0 with cmds := [{ id := 0, eng := .copy, fn := 0, co := some 0, launch := some 0, root := .hf }], nextCmd := 1 }

theorem witness_Fences_CrossFence : ∃ (s u : State) (c d : Ctx), Ready s c false false false {} [] ∧ c.sp.wait = .none ∧ s.cmds = [] ∧ (Backed s c ∧ Backed u d) ∧
    Ready u d false false false {} [] ∧ d.sp.wait = .none ∧
    (∃ k ∈ u.cmds, k.co = some d.who.co ∧ k.gi = d.who.gi ∧ k.id < u.nextCmd ∧ k.done = false ∧ k.eng = .copy) ∧ (2 : BitVec 6).getLsbD 1 = true ∧
    (31 : BitVec 6).getLsbD 5 = false ∧ (32 : BitVec 6).getLsbD 5 = true :=
  ⟨s0, copying, c0, tctx copying, ready_of (by decide +kernel), by decide +kernel, by decide +kernel, ⟨backed_of (by decide +kernel), backed_of (by decide +kernel)⟩, ready_of (by decide +kernel), by decide +kernel,
    ⟨_, List.mem_of_getElem? (i := 0) rfl, rfl, rfl, by decide, rfl, rfl⟩, by decide, by decide, by decide⟩

theorem witness_Monitors_Watch : ∃ (s : State) (c : Ctx) (p : Phys), Ready s c false false false {} [] ∧ Calm s c ∧ (6 : BitVec 3).toNat ≤ 6 ∧
    (pairS c 2).toNat < 2 ^ 56 ∧ (pairS c 2).toNat % 8 = 0 ∧ s.laneXlate c.co (pairS c 2).toNat .read = .ok p ∧ isRegKey p.key = false ∧
    s.noRoute p.key = false :=
  ⟨memState false 1 [], tctx (memState false 1 []), _, ready_of (by decide +kernel), calm_of (by decide +kernel), by decide, by decide +kernel, by decide +kernel,
    rfl, by decide +kernel⟩

theorem witness_Monitors_Watch_traps : ∃ (s : State) (c : Ctx), Ready s c false false false {} [] ∧ Calm s c ∧ 2 ^ 56 ≤ (pairS c 2).toNat ∧
    ((pairS c 4).toNat < 2 ^ 56 ∧ (pairS c 4).toNat % 4 ≠ 0) ∧ ¬ (7 : BitVec 3).toNat ≤ 6 ∧ ¬ (3 : BitVec 6).toNat % 2 = 0 :=
  ⟨wrong, tctx wrong, ready_of (by decide +kernel), calm_of (by decide +kernel), by decide +kernel, by decide +kernel, by decide, by decide⟩

/-- The split's monitor in a state; s1 holds 0, s2 1 and s3 the greatest time. -/
def monitored (st : MonState) : State := tstate id fun g => onSplit (fun x => { x with mon := { st := st, addr := 0x10400, key := 0x10400 } })
  { g with s := [(2, 1), (3, 0xFFFFFFFF)] }

theorem witness_Monitors_WaitMonitor : ∀ st : MonState, ∃ (s : State) (c : Ctx), (3 : BitVec 3).toNat ≤ 3 ∧ Ready s c false false false {} [] ∧
    c.sp.wait = .none ∧ s.kindOn c.co.die 5 = false ∧ (c.sp.wakeRsv = false ∧ s.canonical = true) ∧ NoLines s c ∧ c.sp.mon.st = st ∧ (c.gr.getS 1).toNat = 0 ∧
    (c.gr.getS 2).toNat ≠ 0 ∧ (c.gr.getS 3).toNat = 2 ^ 32 - 1 := by
  intro st
  refine ⟨monitored st, tctx (monitored st), by decide, ready_of ?_, ?_, ?_, ?_, noLines_of ?_, ?_, ?_, ?_, ?_⟩ <;> cases st <;> decide +kernel

/-! ### Witnesses: engine words and tensors (17) -/

/-- An answer that is there, and one that is known. -/
def okB {ε α : Type} (e : Except ε α) : Bool := match e with
  | .ok _ => true
  | .error _ => false

theorem ok_of {ε α : Type} {e : Except ε α} (h : okB e = true) : ∃ x, e = .ok x := by
  cases e with
  | error _ => cases h
  | ok x => exact ⟨x, rfl⟩

theorem okIs_of {ε : Type} {e : Except ε Nat} {n : Nat} (h : (match e with | .ok x => x == n | .error _ => false) = true) : e = .ok n := by
  cases e with
  | error _ => cases h
  | ok x => exact congrArg _ (by simpa using h)

/-- An access at an address, as a check. -/
def readsB (s : State) (c : Ctx) (k : Access) (n ea key : Nat) : Bool :=
  decide (ea < 2 ^ 56) && ea % n == 0 && !isRegKey key && !s.noRoute key && match s.laneXlate c.co ea k with
    | .ok p => p.key == key
    | .error _ => false

theorem reads_of {s : State} {c : Ctx} {k : Access} {n ea key : Nat} (h : readsB s c k n ea key = true) : ReadsAt s c k n ea key := by
  simp only [readsB, Bool.and_eq_true, decide_eq_true_eq, beq_iff_eq, Bool.not_eq_true'] at h
  obtain ⟨⟨⟨⟨h1, h2⟩, h3⟩, h5⟩, h4⟩ := h
  cases hx : s.laneXlate c.co ea k with
  | error e => rw [hx] at h4; cases h4
  | ok p => rw [hx] at h4; exact ⟨h1, h2, h3, h5, p, hx, by simpa using h4⟩

/-- A tensor descriptor: element type, place, extents and base; `more` is what else it holds. -/
def desc (fmt loc : Nat) (es : List Nat) (base more : Nat) : Desc :=
  BitVec.ofNat 512 (fmt + (es.length - 1) * 2 ^ 4 + loc * 2 ^ 11 + base * 2 ^ 64 + (es.zipIdx.map fun p => p.1 * 2 ^ (128 + 32 * p.2)).sum + more)

/-- A cohort with a tensor table, and scalar registers; every accumulator name is held, or none. -/
def engined (tt : List (Nat × Desc)) (ss : List (Nat × Word)) (held : Word) (f : Cohort → Cohort) : State :=
  tstate (fun c => f { c with ttab := tt, aheld := held }) fun g => { g with s := ss }

/-- Entries: 0 an I32 vector, 1 an index vector. A block at s0 for a copy, with its completion word at the end of a scratch
window of 4,096 bytes; one at s4 for a gather; one at s8 that names a third tensor; one at s12 with an option; one at s16 that names
an empty entry. -/
def copied (z : Nat) : State := engined [(0, desc 4 0 [4] 0x10400 0), (1, desc 5 0 [4] 0x10500 0)]
  [(0, BitVec.ofNat 32 (2 ^ 18 + 1023 * 2 ^ 20)), (4, 0x1000), (8, 0x1000), (13, 1), (16, 2)] 0 fun c => { c with z := z }

theorem witness_CopyAndGather_copy : ∃ (s : State) (c : Ctx) (d t : Desc), Ready s c false false false {} [] ∧ s.queueFull c.co 1 = false ∧
    BlockFit c 0 ∧ BarOk c 0 ∧ TensorAt c (bits (blkP0 c 0) 0 6) d ∧ blkP1 c 0 = 0 ∧ bits (blkP0 c 0) 12 6 = 0 ∧ TensorAt c (bits (blkP0 c 0) 6 6) t ∧
      ¬ CopyRefuses c d t ∧ d.scm ≠ 4 ∧ bits (blkP0 c 0) 6 12 = 0 := by
  refine ⟨copied 4096, tctx (copied 4096), desc 4 0 [4] 0x10400 0, desc 4 0 [4] 0x10400 0, ready_of (by decide +kernel), ?_⟩
  unfold BlockFit BarOk TensorAt CopyRefuses Unclaimed
  decide +kernel

theorem witness_CopyAndGather_gather : ∃ (s : State) (c : Ctx) (d t x : Desc), Ready s c false false false {} [] ∧ s.queueFull c.co 1 = false ∧
    BlockFit c 4 ∧ TensorAt c (bits (blkP0 c 4) 0 6) d ∧ blkP1 c 4 = 0 ∧ TensorAt c (bits (blkP0 c 4) 6 6) t ∧ TensorAt c (bits (blkP0 c 4) 12 6) x ∧
      ∀ fn, fn < 3 → ¬ GatherRefuses fn d t x := by
  refine ⟨copied 4096, tctx (copied 4096), desc 4 0 [4] 0x10400 0, desc 4 0 [4] 0x10400 0, desc 5 0 [4] 0x10500 0, ready_of (by decide +kernel), by decide +kernel,
    by unfold BlockFit; decide +kernel, by unfold TensorAt; decide +kernel, by decide +kernel, by unfold TensorAt; decide +kernel, by unfold TensorAt; decide +kernel, ?_⟩
  intro fn hf h
  unfold GatherRefuses at h
  simp only [List.mem_cons, List.not_mem_nil, or_false, exists_eq_or_imp, exists_eq_left] at h
  have e : (desc 4 0 [4] 0x10400 0).fmt = 4 := by decide +kernel
  rcases h with h | h | h | h | h | h | h | h | h
  · exact absurd h (by decide +kernel)
  · exact absurd h (by decide +kernel)
  · exact h rfl
  · exact h rfl
  · exact absurd h (by decide +kernel)
  · exact absurd h (by decide +kernel)
  · revert h; decide +kernel
  · revert h; decide +kernel
  · exact h.2.1 e

theorem witness_CopyAndGather_refused : ∃ (s u : State) (c e : Ctx) (d x : Desc), Ready s c false false false {} [] ∧ Ready u e false false false {} [] ∧
    s.queueFull c.co 1 = false ∧ (1 : BitVec 6).toNat % 4 ≠ 0 ∧ blkP1 c 12 ≠ 0 ∧ bits (blkP0 c 8) 12 6 ≠ 0 ∧ bits (blkP0 c 8) 6 12 ≠ 0 ∧
    c.co.tensor? (bits (blkP0 c 16) 0 6) = none ∧ TensorAt c 0 d ∧ TensorAt c 1 x ∧ CopyRefuses c d (desc 4 0 [5] 0x10400 0) ∧ GatherRefuses 0 d d d ∧
    BlockFit e 0 ∧ ¬ BarOk e 0 := by
  refine ⟨copied 4096, copied 4092, tctx (copied 4096), tctx (copied 4092), desc 4 0 [4] 0x10400 0, desc 5 0 [4] 0x10500 0, ready_of (by decide +kernel),
    ready_of (by decide +kernel), by decide +kernel, by decide, by decide +kernel, by decide +kernel, by decide +kernel, by decide +kernel,
    by unfold TensorAt; decide +kernel, by unfold TensorAt; decide +kernel, Or.inr (Or.inl (by decide +kernel)), Or.inl (by decide +kernel),
    by unfold BlockFit; decide +kernel, by unfold BarOk; decide +kernel⟩

/-- Entries: 0 BF16, 1 three-dimensional BF16, 2 four-bit with per-group scales. s2 and s3 name O accumulator 1; s4 and s5 the
group table at the end of the scratch window, of no row and of 64. -/
def looping : State :=
  engined [(0, desc 10 0 [64, 64] 0x10400 0), (1, desc 10 0 [64, 64, 2] 0x20400 0), (2, desc 13 0 [64, 64] 0x30400 (4 * 2 ^ 6))]
    [(2, 1), (5, BitVec.ofNat 32 (1021 * 2 ^ 16))] 0x80000002 fun c =>
    { c with hdr := c.hdr ||| 0x10, scratch := [(4084, 2), (4092, 64)] }

theorem witness_MatrixLoops : ∃ (s : State) (c : Ctx) (a b b4 : Desc), Ready s c false false false {} [] ∧ s.queueFull c.co 0 = false ∧
    LoopOk c 0 0 1 31 (c.gr.getS 0) (c.gr.getS 1) a b ∧ LoopOk c 1 0 1 31 (c.gr.getS 2) (c.gr.getS 3) 0 b ∧
    LoopOk c 2 0 2 31 (c.gr.getS 0) (c.gr.getS 1) a b4 := by
  refine ⟨looping, tctx looping, desc 10 0 [64, 64] 0x10400 0, desc 10 0 [64, 64, 2] 0x20400 0, desc 13 0 [64, 64] 0x30400 (4 * 2 ^ 6), ready_of (by decide +kernel),
    by decide +kernel, ?_, ?_, ?_⟩ <;> unfold LoopOk TensorAt <;> decide +kernel

theorem witness_MatrixLoops_grouped : ∃ (s : State) (c : Ctx) (a b : Desc) (ns : List Nat), Ready s c false false false {} [] ∧
    LoopOk c 3 0 1 31 (c.gr.getS 4) (c.gr.getS 5) a b ∧ 1 ≤ ns.length ∧ ns.length ≤ 64 ∧ 4 * bits (c.gr.getS 5) 16 16 + 4 + 4 * ns.length ≤ c.co.z ∧
    (c.co.scratchWord (4 * bits (c.gr.getS 5) 16 16)).toNat = ns.length ∧
    (∀ i, i < ns.length → (c.co.scratchWord (4 * bits (c.gr.getS 5) 16 16 + 4 + 4 * i)).toNat = ns.getD i 0) ∧
    ∀ i, i < ns.length → ((ns.take i).sum + ns.getD i 0 ≤ 64 ∧ i < b.ext 2) :=
  ⟨looping, tctx looping, desc 10 0 [64, 64] 0x10400 0, desc 10 0 [64, 64, 2] 0x20400 0, [0, 64], ready_of (by decide +kernel),
    by unfold LoopOk TensorAt; decide +kernel, by decide, by decide, by decide +kernel, by decide +kernel, by decide +kernel, by decide +kernel⟩

/-- A group descriptor of two modules at 0x10400, this one its first; entries of 4 by 4 and 4 by 8 numbers. -/
def collecting : State :=
  let s := engined [(0, desc 8 0 [4, 4] 0x20400 0), (1, desc 8 0 [4, 8] 0x30400 0)] [(4, 0x40), (8, 1), (12, 0x10400)] 0 id
  s.homeWrite 0x10400 (bytesOf 16 (2 + 0x10500 * 2 ^ 64)) 0

theorem witness_Collectives : ∃ (s : State) (c : Ctx), Ready s c false false false {} [] ∧ s.queueFull c.co 4 = false ∧
    (BlockOk c 0 ∧ BlockOk c 4 ∧ BlockOk c 8) ∧ TrackOff s (s.vdTag c.co.root) ∧ Memory.wf s.mem = true ∧
    ∃ x n p, s.groupDesc c.co.root (pairS c 12).toNat = .ok x ∧ groupBad x = false ∧
      s.cmdRead { id := 0, eng := .coll, fn := 0, co := none, launch := none, root := c.co.root } (fget x 64 56 + 2 * fget x 16 16 : Nat) 2 = .ok n ∧ n = s.modNum ∧
      s.cmdXlate { id := 0, eng := .coll, fn := 0, co := none, launch := none, root := c.co.root } ((pairS c 12).toNat + 16 : Nat) .write = .ok p ∧
      ∀ e ∈ [((0 : Nat), (0 : BitVec 6)), (1, 4), (2, 8), (3, 0)], ((c.co.tensor? (bits (blkP0 c e.2) 0 6)).isSome = true ∧
        (c.co.tensor? (bits (blkP0 c e.2) 6 6)).isSome = true ∧
        collBad e.1 ((c.co.tensor? (bits (blkP0 c e.2) 0 6)).getD 0) ((c.co.tensor? (bits (blkP0 c e.2) 6 6)).getD 0) (blkP1 c e.2) (fget x 0 16) = false) := by
  refine ⟨collecting, tctx collecting, ready_of (by decide +kernel), by decide +kernel, by unfold BlockOk BlockFit BarOk; decide +kernel, .inl (by decide +kernel), by decide +kernel,
    2 + 0x10500 * 2 ^ 64, 0, ?_⟩
  obtain ⟨p, hp⟩ := ok_of (e := collecting.cmdXlate { id := 0, eng := .coll, fn := 0, co := none, launch := none, root := (tctx collecting).co.root }
    ((pairS (tctx collecting) 12).toNat + 16 : Nat) .write) (by decide +kernel)
  exact ⟨p, okIs_of (by decide +kernel), by decide +kernel, okIs_of (by decide +kernel), by decide +kernel, hp, by decide +kernel⟩

/-- A descriptor at 0x10400, none at 0x10480. -/
def described : State :=
  let s := engined [] [(2, 0x10400), (4, 0x10480)] 0 id
  s.homeWrite 0x10400 (bytesOf 64 (desc 4 0 [4] 0x10400 0).toNat) 0

theorem witness_TensorTable : ∃ (s : State) (c : Ctx), Ready s c false false false {} [] ∧ Calm s c ∧ Sparse.rises 0 c.co.ttab = true ∧
    (∃ k, ReadsAt s c .read 64 (pairS c 2).toNat k ∧ Desc.valid (BitVec.ofNat 512 (seenBytes s c k 64)) = true) ∧
    ∃ k, ReadsAt s c .read 64 (pairS c 4).toNat k ∧ Desc.valid (BitVec.ofNat 512 (seenBytes s c k 64)) = false :=
  ⟨described, tctx described, ready_of (by decide +kernel), calm_of (by decide +kernel), by decide +kernel,
    ⟨0x10400, reads_of (by decide +kernel), by decide +kernel⟩,
    ⟨0x10480, reads_of (by decide +kernel), by decide +kernel⟩⟩

/-- All 32 names are free, or held; a matrix command names a0. -/
def looped (held : Word) : State :=
  { engined [] [(1, 0xFFF), (2, 0x1000), (3, 0x20)] held id with
    cmds := [{ id := 0, eng := .matrix, fn := 0, co := some 0, launch := some 0, root := .hf }], nextCmd := 1 }

theorem named32 (j : Nat) (h : Named 0 32 j) : j < 32 := by unfold Named at h; omega

theorem witness_Accumulators_AccumulatorNames : ∃ (s u : State) (c d : Ctx), Ready s c false false false {} [] ∧ c.sp.handler = false ∧
    Ready u d false false false {} [] ∧ d.sp.handler = false ∧ (∀ j, Named 0 32 j → c.co.aheld.getLsbD j = false) ∧
    (∀ j, Named 0 32 j → d.co.aheld.getLsbD j = true) ∧ (∃ j, Named 0 32 j ∧ u.accBusy d.who.co j = true) ∧ (¬ ∃ j, Named 1 31 j ∧ u.accBusy d.who.co j = true) :=
  ⟨looped 0, looped 0xFFFFFFFF, tctx (looped 0), tctx (looped 0xFFFFFFFF), ready_of (by decide +kernel), by decide +kernel, ready_of (by decide +kernel), by decide +kernel,
    fun j h => (by decide +kernel : ∀ j, j < 32 → (tctx (looped 0)).co.aheld.getLsbD j = false) j (named32 j h),
    fun j h => (by decide +kernel : ∀ j, j < 32 → (tctx (looped 0xFFFFFFFF)).co.aheld.getLsbD j = true) j (named32 j h),
    ⟨0, by unfold Named; decide, by decide +kernel⟩,
    fun ⟨j, h, hb⟩ => absurd hb ((by decide +kernel : ∀ j, j < 32 → 1 ≤ j → ¬ (looped 0xFFFFFFFF).accBusy (tctx (looped 0xFFFFFFFF)).who.co j = true)
      j (by unfold Named at h; omega) h.1)⟩

/-- s1 names column 63 of a31 by its upper rows, s2 holds a reserved bit, s3 column 1 of a0. -/
theorem witness_Accumulators_AccumulatorReads : ∃ (s u : State) (c d : Ctx), Ready s c false true false {} [127] ∧ Ready u d false true false {} [127] ∧
    c.co.aheld.getLsbD (bits (c.gr.getS 1) 0 5) = false ∧ bits (d.gr.getS 2) 12 20 ≠ 0 ∧ bits (d.gr.getS 3) 5 6 ≠ 0 ∧
    (d.co.aheld.getLsbD (bits (d.gr.getS 1) 0 5) = true ∧ bits (d.gr.getS 1) 12 20 = 0 ∧ bits (d.gr.getS 0) 5 6 = 0 ∧
      u.accBusy d.who.co (bits (d.gr.getS 1) 0 5) = false ∧ u.accBusy d.who.co (bits (d.gr.getS 0) 0 5) = true) :=
  ⟨looped 0, looped 0xFFFFFFFF, tctx (looped 0), tctx (looped 0xFFFFFFFF), ready_of (by decide +kernel), ready_of (by decide +kernel), by decide +kernel,
    by decide +kernel, by decide +kernel, by decide +kernel⟩

/-- Bank 63 of cluster 0 in FIFO mode, owned or free; s1 holds 63. -/
def banked (o : Option Nat) : State :=
  let s := engined [] [(1, 63), (2, 64)] 0 id
  let s := s.setReg (cluReg 0 8) (0x8000000000000000#64 ||| 0x1555555555555555#64)
  match o with
  | none => s
  | some i => s.setFifo 0 63 { owner := some i, entries := [] }

theorem witness_FifosAndChains_FifoClaim : ∃ (s u : State) (c d : Ctx), Ready s c false false false {} [] ∧ c.sp.handler = false ∧ s.canonical = true ∧
    Ready u d false false false {} [] ∧ d.sp.handler = false ∧ u.canonical = true ∧ s.clusterOf c.co = some 0 ∧ u.clusterOf d.co = some 0 ∧
    (63 < (c.gr.getS 2).toNat ∧ s.bankMode 0 (c.gr.getS 0).toNat ≠ 2) ∧
    ((c.gr.getS 1).toNat ≤ 63 ∧ s.bankMode 0 (c.gr.getS 1).toNat = 2 ∧ (s.fifo 0 (c.gr.getS 1).toNat).owner = none ∧
      (∀ p ∈ (s.cluster 0).change, p.1 ≠ (c.gr.getS 1).toNat) ∧ (c.gr.getS 1).toNat ∉ c.co.fifos ∧ Sparse.rises 0 (s.cluster 0).fifo = true) ∧
    u.bankMode 0 (d.gr.getS 1).toNat = 2 ∧ (u.fifo 0 (d.gr.getS 1).toNat).owner = some 9 ∧ 9 ≠ d.who.co :=
  ⟨banked none, banked (some 9), tctx (banked none), tctx (banked (some 9)), ready_of (by decide +kernel), by decide +kernel, by decide +kernel,
    ready_of (by decide +kernel), by decide +kernel, by decide +kernel, by decide +kernel, by decide +kernel, by decide +kernel, (by decide +kernel),
    by decide +kernel, by decide +kernel, by decide +kernel⟩

/-- A control block of zeros at 0x10400 and an entry at 0x10440; s4 holds 1. -/
def chaining : State := engined [] [(0, 0x10400), (2, 0x10440), (4, 1)] 0 id

theorem slotless_of {s : State} (h : (∀ p ∈ List.range (17 * 16), (s.reg (fnReg (p / 16) (0x100 + 16 * (p % 16)))).getLsbD 63 = false)) : Slotless s := by
  intro f j hf hj
  have := h (16 * f + j) (List.mem_range.mpr (by omega))
  rwa [show (16 * f + j) / 16 = f by omega, show (16 * f + j) % 16 = j by omega] at this

theorem witness_FifosAndChains_ChainWords_chain : ∃ (s : State) (c : Ctx) (kc ke : Nat), Ready s c false false false {} [] ∧ Calm s c ∧ NoLines s c ∧ Slotless s ∧
    ReadsAt s c .write 64 (pairS c 0).toNat kc ∧ ReadsAt s c .write 64 (pairS c 2).toNat ke ∧ (kc + 64 ≤ ke ∧ s.canonical = true) ∧ TrackOff s (s.vdTag c.co.root) ∧
    isRemoteKey kc = false ∧ s.chains = [] ∧ s.homeRead kc 7 = 0 ∧ s.homeRead (kc + 32) 7 = 0 :=
  ⟨chaining, tctx chaining, 0x10400, 0x10440, ready_of (by decide +kernel), calm_of (by decide +kernel), noLines_of (by decide +kernel),
    slotless_of (by decide +kernel), reads_of (by decide +kernel), reads_of (by decide +kernel), by decide +kernel, .inl (by decide +kernel), by decide +kernel⟩

theorem witness_FifosAndChains_ChainWords_wait : ∃ (s : State) (c : Ctx) (key : Nat), Ready s c false false false {} [] ∧ Calm s c ∧ NoLines s c ∧
    ReadsAt s c .read 16 (pairS c 0).toNat key ∧ c.sp.wakeRsv = false ∧ c.sp.wait = .none ∧ s.canonical = true ∧ s.kindOn c.co.die 5 = false ∧
    (pairS c 6).toNat ≤ (numOf (fun j => Memory.read s.mem (key + j)) 8).toNat ∧ (numOf (fun j => Memory.read s.mem (key + j)) 8).toNat < (pairS c 4).toNat :=
  ⟨chaining, tctx chaining, 0x10400, ready_of (by decide +kernel), calm_of (by decide +kernel), noLines_of (by decide +kernel), reads_of (by decide +kernel),
    by decide +kernel⟩


/-! ### Witnesses: work and expansions (19) -/

/-- s1 holds 32, the entry whose descriptor lies at 65552: 16 register units and 2^20 bytes of scratch. -/
def spawning : State :=
  let s := tstate id fun g => { g with s := [(1, 32)] }
  s.homeWrite 65552 (bytesOf 16 (16 + 2 ^ 20 * 2 ^ 32)) 0

theorem witness_SpawnAndLaunch_Spawn : ∃ (s : State) (c : Ctx) (key : Nat → Nat), Calm s c ∧ Backed s c ∧ (c.h.mod? = none ∧ c.co.launch = some 0 ∧ c.sp.mask ≠ 0) ∧ Sparse.rises 0 s.cradle = true ∧
    (c.gr.getS 1).toNat % 4 = 0 ∧ 16 ≤ (c.gr.getS 1).toNat ∧ (∀ i, i < 4 → ReadsAt s c .read 4 (c.co.kb + (c.gr.getS 1).toNat - 16 + 4 * i) (key i)) ∧
    ((List.range 4).map fun i => seenBytes s c (key i) 4 * 2 ^ (32 * i)).sum = 16 + 2 ^ 20 * 2 ^ 32 ∧
    (fget (16 + 2 ^ 20 * 2 ^ 32) 5 27 = 0 ∧ fget (16 + 2 ^ 20 * 2 ^ 32) 53 75 = 0 ∧ 1 ≤ fget (16 + 2 ^ 20 * 2 ^ 32) 0 5 ∧ fget (16 + 2 ^ 20 * 2 ^ 32) 0 5 ≤ 16 ∧
      fget (16 + 2 ^ 20 * 2 ^ 32) 32 21 ≤ 2 ^ 20) ∧ (∀ l, l < 32 → c.depth l + 1 ≤ 8) ∧ (s.items c.co.die).length + 32 ≤ 65536 ∧
    Ready s c false true false {} [62, 63] ∧ Ready s c false false false {} [] :=
  ⟨spawning, tctx spawning, fun i => 65552 + 4 * i, calm_of (by decide +kernel), backed_of (by decide +kernel), by decide +kernel, by decide +kernel, by decide +kernel, by decide +kernel,
    fun i hi => reads_of ((by decide +kernel : ∀ i, i < 4 → readsB spawning (tctx spawning) .read 4
      ((tctx spawning).co.kb + ((tctx spawning).gr.getS 1).toNat - 16 + 4 * i) (65552 + 4 * i) = true) i hi),
    by decide +kernel, by decide, by decide +kernel, by decide +kernel, ready_of (by decide +kernel), ready_of (by decide +kernel)⟩

/-- A launch header at 0x10800, its address in v2:v3 of lane 0, the only lane; s2 holds 8. -/
def launching : State :=
  let s := tstate id fun g => onSplit (fun x => { x with mask := 1 }) { g with v := [(64, 0x10800)], s := [(2, 8)] }
  s.homeWrite 0x10800 (bytesOf 128 (loadCohort 0 65536 false).hdr.toNat) 0

theorem witness_SpawnAndLaunch_DeviceLaunch : ∃ (s : State) (c : Ctx) (key : Nat), Ready s c false true false {} [2, 3] ∧ Calm s c ∧ Backed s c ∧ c.h.mod? = none ∧ (pairS c 2).toNat % 16 ≠ 0 ∧
    ((pairS c 0).toNat % 16 = 0 ∧ (pairS c 0).toNat < 2 ^ 56) ∧ Only c.partH 0 ∧ ReadsAt s c .read 128 (pairV c 2 0).toNat key ∧
    headerOk (BitVec.ofNat 1024 (seenBytes s c key 128)) = true ∧ bit (BitVec.ofNat 1024 (seenBytes s c key 128)) 11 = false ∧ s.children c.co.die + 1 ≤ 1024 :=
  ⟨launching, tctx launching, 0x10800, ready_of (by decide +kernel), calm_of (by decide +kernel), backed_of (by decide +kernel), by decide +kernel, by decide +kernel, by decide +kernel, only_of_one (by decide +kernel) (by decide),
    reads_of (by decide +kernel), by decide +kernel, by decide +kernel, by decide +kernel⟩

/-- Lane 0 of v1 holds 2^24, of v3 one more. -/
def expanding : State := tstate id fun g => { g with v := [(32, 0x1000000), (96, 0x1000001)] }

theorem witness_Expansions_Expand : ∃ (s u v : State) (c d e : Ctx), Ready s c false true false {} [0, 1] ∧ (c.sp.handler = false ∧ c.h.mod? = none ∧ c.gr.liveCount ≤ 1 ∧
      ((ones c.partH).map fun l => (c.gr.getV 1 l).toNat).sum = 2 ^ 24 ∧ ((ones c.partH).map fun l => (c.gr.getV 3 l).toNat).sum = 2 ^ 24 + 1) ∧
    Ready u d false true false {} [0, 1] ∧ (d.sp.handler = false ∧ d.h.mod? = none ∧ 1 < d.gr.liveCount) ∧
    Ready v e false true false {} [0, 1] ∧ e.sp.handler = false ∧ e.h.mod? = none ∧ e.gr.liveCount ≤ 1 ∧ e.lastMember (2 ^ (1 : BitVec 3).toNat) = false :=
  ⟨expanding, halves .none, paired .none, tctx expanding, tctx (halves .none), tctx (paired .none), ready_of (by decide +kernel), by decide +kernel,
    ready_of (by decide +kernel), by decide +kernel, ready_of (by decide +kernel), by decide +kernel⟩

/-- An expansion of one item, of whose share lane 0 has taken n and is at the item or not; it is over, or a pair is held. -/
def item (n : Nat) (cur : Option (Nat × Nat)) (done : Bool) : Expansion :=
  { t := 1, op := 0, k := 1, owners := [{ g := 0, lane := 0, start := 0, len := 1, next := if done then 1 else 0 }],
    recvs := [{ g := 0, lane := 0, taken := n, cur := cur, done := done }] }

def itemSet (e : Expansion) : SluiceSet := { k := 1, first := 0, exp := some e }

def itemed (e : Expansion) : State := tstate (fun c => { c with sets := [itemSet e] }) (onSplit fun x => { x with mask := 1 })

theorem witness_Expansions_ExpansionItems_none : ∃ (s : State) (c : Ctx), Ready s c false true false {} [63] ∧ Calm s c ∧ c.sp.handler = false ∧ c.h.mod? = none ∧
    s.dslotOf c.co = none ∧ c.co.sets = [] ∧ c.co.setOf c.gr.index = none ∧ s.queueFull c.co 2 = false :=
  ⟨s0, c0, ready_of (by decide +kernel), calm_of (by decide +kernel), by decide +kernel⟩

theorem witness_Expansions_ExpansionItems_xnext : ∀ n, n ∈ [0, 1] → ∃ (s : State) (c : Ctx) (st : SluiceSet) (e : Expansion) (r : Recv), Ready s c false true false {} [] ∧
    Only c.partH 0 ∧ (c.sp.handler = false ∧ c.h.mod? = none ∧ s.dslotOf c.co = none ∧ c.co.sets = [st] ∧ c.co.setOf c.gr.index = some st ∧ st.exp = some e) ∧
    e.recvs.findIdx? (fun r => r.g == c.gr.index && r.lane == 0) = some 0 ∧ e.recvs[0]? = some r ∧ r.cur = none ∧ e.t = (e.owners.map fun o => o.len).sum ∧
    0 + r.taken * e.recvs.length = n := by
  intro n hn
  have hm : n = 0 ∨ n = 1 := by simpa using hn
  refine ⟨itemed (item n none false), tctx (itemed (item n none false)), itemSet (item n none false), item n none false, ⟨0, 0, n, none, none, false⟩,
    ready_of ?_, only_of_one (l := 0) ?_ (by decide), ?_⟩ <;> rcases hm with rfl | rfl <;> decide +kernel

theorem witness_Expansions_ExpansionItems_sred : ∃ (s : State) (c : Ctx) (st : SluiceSet) (e : Expansion) (r : Recv), Ready s c false true false {} [63] ∧ Calm s c ∧
    (c.sp.handler = false ∧ c.h.mod? = none ∧ s.dslotOf c.co = none ∧ s.queueFull c.co 2 = false ∧ c.co.sets = [st] ∧ c.co.setOf c.gr.index = some st ∧
      st.exp = some e) ∧ e.recvs[0]? = some r ∧ r.g = c.gr.index ∧ has c.partH r.lane = true ∧ r.cur.isSome = true :=
  ⟨itemed (item 1 (some (0, 0)) false), tctx (itemed (item 1 (some (0, 0)) false)), itemSet (item 1 (some (0, 0)) false), item 1 (some (0, 0)) false, _,
    ready_of (by decide +kernel), calm_of (by decide +kernel), by decide +kernel, rfl, by decide +kernel, by decide +kernel, by decide⟩

theorem witness_Expansions_ExpansionItems_sredGet : ∀ ended : Bool, ∃ (s : State) (c : Ctx) (st : SluiceSet) (e : Expansion), Ready s c false true false {} [63] ∧
    (c.sp.handler = false ∧ c.h.mod? = none ∧ s.dslotOf c.co = none ∧ c.co.setOf c.gr.index = some st ∧ st.exp = some e ∧ e.isOver = ended) ∧
    ∀ j, j < 32 → has c.partH j = true → (e.owners.any fun o => o.g == c.gr.index && o.lane == j) = true := by
  intro ended
  refine ⟨itemed (item 1 none ended), tctx (itemed (item 1 none ended)), itemSet (item 1 none ended), item 1 none ended, ready_of ?_, ?_, ?_⟩ <;>
    cases ended <;> decide +kernel

/-- An object at 0x10400: routines at 0, no payload, fan-out 4, the given depth, an arena of n frames at 0x10800. -/
def object (maxd n : Nat) : Nat := 4 * 2 ^ 112 + maxd * 2 ^ 120 + 0x10800 * 2 ^ 128 + 32 * n * 2 ^ 192

/-- A run of it, before any child. -/
def winzeRun (maxd n : Nat) : WinzeRun :=
  { gi := 0, si := 0, div := 0, bas := 0, cmb := 0, fan := 4, maxd := maxd, fsz := 0, arena := 0x10800, asize := 32 * n, gw := 1, iid := 0,
    frames := [(0, some { parent := none, cidx := 0, depth := 0, stage := .dividing })] }

/-- Its divide item is lane 0's; v0 holds 0, v1 the fan-out, v2 one more. -/
def winzing (maxd n : Nat) : State :=
  let s := tstate (fun c => { c with run := some (winzeRun maxd n) }) fun g =>
    onSplit (fun x => { x with mask := 1 }) { g with wz := [(0, some { rout := 0, frame := 0 })], v := [(32, 4), (64, 5)] }
  s

/-- The object at 0x10400, which s2:s3 name, with a run in progress or none. -/
def winzeObject (r : Option WinzeRun) : State :=
  let s := tstate (fun c => { c with run := r }) fun g => { g with s := [(2, 0x10400)] }
  s.homeWrite 0x10400 (bytesOf 64 (object 64 1)) 0

theorem witness_WinzeWords_recurse : ∃ (s u : State) (c d : Ctx), Ready s c false false false {} [] ∧ Calm s c ∧ NoLines s c ∧ Backed s c ∧
    ReadsAt s c .read 64 (pairS c 2).toNat 0x10400 ∧ objBad (seenBytes s c 0x10400 64) = false ∧
    ReadsAt s c .write 32 (fget (seenBytes s c 0x10400 64) 128 56) 0x10800 ∧ (c.sp.handler = false ∧ c.h.mod? = none ∧ s.canonical = true) ∧ c.co.run = none ∧
    Ready u d false false false {} [] ∧ Calm u d ∧ Backed u d ∧ ReadsAt u d .read 64 (pairS d 2).toNat 0x10400 ∧ objBad (seenBytes u d 0x10400 64) = false ∧
    ReadsAt u d .write 32 (fget (seenBytes u d 0x10400 64) 128 56) 0x10800 ∧ d.sp.handler = false ∧ d.h.mod? = none ∧ d.co.run.isSome = true :=
  ⟨winzeObject none, winzeObject (some (winzeRun 64 5)), tctx (winzeObject none), tctx (winzeObject (some (winzeRun 64 5))), ready_of (by decide +kernel),
    calm_of (by decide +kernel), noLines_of (by decide +kernel), backed_of (by decide +kernel), reads_of (by decide +kernel), by decide +kernel, reads_of (by decide +kernel), by decide +kernel,
    by decide +kernel, ready_of (by decide +kernel), calm_of (by decide +kernel), backed_of (by decide +kernel), reads_of (by decide +kernel), by decide +kernel, reads_of (by decide +kernel),
    by decide +kernel⟩

/-- Of five frames the four last are the children; of four there is one too few; at depth 1 there is none. -/
theorem witness_WinzeWords_wkids : ∀ p, p ∈ [(64, 5), (64, 4), (1, 5)] → ∃ (s : State) (c : Ctx) (i : WItem) (w : WinzeRun) (x : Frame),
    Ready s c false true false {} [2, 63] ∧ Only c.partH 0 ∧ (c.sp.handler = false ∧ c.h.mod? = none ∧ Sparse.get none c.gr.wz 0 = some i ∧ i.rout = 0 ∧
      i.asked = false ∧ i.frame = 0) ∧ (c.co.run = some w ∧ w.df = none ∧ Sparse.rises 0 w.frames = true ∧ w.frame? 0 = some x ∧ x.worker = none) ∧
    (∀ g ∈ w.level, ¬ g < 0) ∧ (c.gr.getV 0 0).toNat = 0 ∧ w.fan < (c.gr.getV 2 0).toNat ∧ (c.gr.getV 1 0).toNat = w.fan ∧
    (w.maxd ≤ x.depth + 1 ↔ p.1 = 1) ∧ (w.n < w.b + w.fan ↔ p.2 = 4) ∧
    ∀ g, g < 5 → readsB s c .write 32 (w.arena + g * (32 + w.fsz)) (w.arena + g * (32 + w.fsz)) = true := by
  intro p hp
  have hm : p = (64, 5) ∨ p = (64, 4) ∨ p = (1, 5) := by simpa using hp
  refine ⟨winzing p.1 p.2, tctx (winzing p.1 p.2), { rout := 0, frame := 0 }, winzeRun p.1 p.2, { parent := none, cidx := 0, depth := 0, stage := .dividing },
    ready_of ?_, only_of_one (l := 0) ?_ (by decide), ?_, ?_, ?_⟩ <;> rcases hm with rfl | rfl | rfl <;> decide +kernel

/-- Half of the lanes of a guard take part. -/
def guarded : State := tstate id fun g => onSplit (chained [0x7E880000]) { g with p := [(1, 0xFFFF)] }

theorem witness_WinzeWords_wret : ∃ (s u : State) (c d : Ctx) (x : Split), Ready s c false true false {} [] ∧ Calm s c ∧ OnTime s c ∧ DisjointMasks c ∧
    (c.sp.handler = false ∧ c.h.mod? = none ∧ c.sp.wait = .none ∧ c.gr.stack = [] ∧ c.partH = c.sp.mask ∧ 1 ≠ c.who.si) ∧ c.gr.splits[1]? = some x ∧
    x.live = true ∧ x.wait = .none ∧ Ready u d false true false {} [] ∧ Calm u d ∧ OnTime u d ∧ DisjointMasks d ∧
    d.sp.handler = false ∧ d.h.mod? = none ∧ d.sp.wait = .none ∧ d.gr.stack = [] ∧ d.partH ≠ d.sp.mask :=
  ⟨halves .none, guarded, tctx (halves .none), tctx guarded, _, ready_of (by decide +kernel), calm_of (by decide +kernel), onTime_of (by decide +kernel),
    disjoint_of (by decide +kernel), by decide +kernel, rfl, rfl, rfl, ready_of (by decide +kernel), calm_of (by decide +kernel), onTime_of (by decide +kernel),
    disjoint_of (by decide +kernel), by decide +kernel⟩

/-! ### Witnesses: system, debug, hint and pair words (21, 23, 05) -/

/-- A digest slot is the launch's, and lane 0 has a context; die 0 logs kind 7, with n entries. -/
def logging (n : Nat) : State :=
  let s := tstate id fun g => { g with dg := [(0, some { a := 0, b := 0 })], s := [(2, 7)] }
  let s := (s.setReg (dieReg 0 0x0420) 0x80).setReg (dieReg 0 0x0408) (BitVec.ofNat 64 n)
  { s with launches := s.launches.map fun l => { l with dslot := some 0 } }

theorem witness_SystemAndHintWords_SystemWords_svc : ∃ (s : State) (c : Ctx), Ready s c false false false {} [] ∧ s.canonical = true ∧ NoLines s c :=
  ⟨s0, c0, ready_of (by decide +kernel), by decide +kernel, noLines_of (by decide +kernel)⟩

theorem witness_SystemAndHintWords_SystemWords_escal : ∃ (s u : State) (c d : Ctx) (r : TrapRec), Ready s c false false false {} [] ∧ c.sp.handler = false ∧
    Ready u d false false false {} [] ∧ d.sp.handler = true ∧ d.gr.trap = some r :=
  ⟨s0, handling, c0, tctx handling, _, ready_of (by decide +kernel), by decide +kernel, ready_of (by decide +kernel), by decide +kernel, rfl⟩

theorem witness_SystemAndHintWords_SystemWords_brk : ∃ (s : State) (c : Ctx), Ready s c false false false {} [] ∧ c.sp.handler = false ∧ c.gr.halt = false ∧ c.co.tvec ≠ 0 ∧
    c.gr.stack.length < 64 ∧ c.sp.last = true ∧ ∀ k, s.clusterOf c.co = some k → (s.reg (cluReg k 0x0480)).getLsbD 0 = false :=
  ⟨tstate (fun c => { c with tvec := 4 }) id, tctx (tstate (fun c => { c with tvec := 4 }) id), ready_of (by decide +kernel), by decide +kernel, by decide +kernel,
    by decide +kernel, by decide +kernel, by decide +kernel, fun k hk => by
      have : k = 0 := by have h : some k = some 0 := hk.symm.trans (by decide +kernel); exact Option.some.inj h
      subst this; decide +kernel⟩

theorem witness_SystemAndHintWords_SystemWords_assay : ∃ (s u : State) (c d : Ctx), Ready s c false false false {} [127] ∧ s.dslotOf c.co = none ∧ s.kindOn c.co.die 7 = false ∧
    Ready u d false false false {} [127] ∧ (u.dslotOf d.co).isSome = true ∧ Sparse.rises 0 d.gr.dg = true ∧ u.kindOn d.co.die 7 = true ∧ 1 ≤ u.logFree d.co.die ∧
    u.canonical = true ∧ d.co.die < 4 ∧ bits (u.reg (dieReg d.co.die 0x0408)) 0 32 ≠ 0 :=
  ⟨s0, logging 1, c0, tctx (logging 1), ready_of (by decide +kernel), by decide +kernel, by decide +kernel, ready_of (by decide +kernel), by decide +kernel,
    by decide +kernel, by decide +kernel, by decide +kernel, by decide +kernel, by decide +kernel, by decide +kernel⟩

theorem witness_SystemAndHintWords_SystemWords_full : ∃ (s : State) (c : Ctx), Ready s c false false false {} [] ∧ s.kindOn c.co.die 7 = true ∧ s.logFree c.co.die < 1 :=
  ⟨logging 0, tctx (logging 0), ready_of (by decide +kernel), by decide +kernel, by decide +kernel⟩

/-- Chains that a first hint begins, a second `hint.imm` joins and a third may not. -/
theorem witness_SystemAndHintWords_HintWords : ∀ l : List Word, l ∈ [[], [0x7E000000], [0x7E000000, 0x7E000000], [0x7E400000]] → ∃ (s : State) (c : Ctx),
    s.ctx? = some c ∧ c.sp.pc.toNat + 4 < 2 ^ 56 ∧ c.sp.windows = [] ∧ c.gr.tidy = true ∧ c.sp.chain = l := by
  intro l hl
  have hm : l = [] ∨ l = [0x7E000000] ∨ l = [0x7E000000, 0x7E000000] ∨ l = [0x7E400000] := by simpa using hl
  refine ⟨hinted l, tctx (hinted l), ?_, ?_, ?_, ?_, ?_⟩ <;> rcases hm with rfl | rfl | rfl | rfl <;> decide +kernel

/-- A kernel in DICT mode, at its first code or its second. -/
def paged (pos : BitVec 6) : State := tstate (fun c => { c with hdr := c.hdr ||| BitVec.ofNat 1024 (2 ^ 10) }) (onSplit fun x => { x with pos := pos })

theorem witness_SystemAndHintWords_DictionaryPairs : ∃ (s u : State) (c d : Ctx), s.ctx? = some c ∧ bit c.co.hdr 10 = false ∧ u.ctx? = some d ∧ d.co.isHF = false ∧
    bit d.co.hdr 10 = true ∧ d.sp.chain = [] ∧ d.sp.pos.toNat = 0 :=
  ⟨s0, paged 0, c0, tctx (paged 0), by decide +kernel, by decide +kernel, by decide +kernel, by decide +kernel, by decide +kernel, by decide +kernel, by decide +kernel⟩

theorem witness_SystemAndHintWords_DictionaryPairs_second : ∃ (s : State) (c : Ctx), s.ctx? = some c ∧ c.co.isHF = false ∧ bit c.co.hdr 10 = true ∧ c.sp.chain = [] ∧ c.sp.pos.toNat = 1 :=
  ⟨paged 1, tctx (paged 1), by decide +kernel, by decide +kernel, by decide +kernel, by decide +kernel, by decide +kernel⟩

/-- A code of `iadd` whose three fields move by 4 × 1. -/
theorem witness_SystemAndHintWords_DictionaryPairs_rebase : ∃ (t r : BitVec 32) (rb : BitVec 5), t.toNat / 2 ^ 25 ≤ 0x0F ∧ r.toNat = t.toNat - t.toNat % 2 ^ 22 + t.toNat % 2 +
      ((t.toNat / 2 ^ 15 % 128 + 4 * rb.toNat) % 128) * 2 ^ 15 + ((t.toNat / 2 ^ 8 % 128 + 4 * rb.toNat) % 128) * 2 ^ 8 + ((t.toNat / 2 % 128 + 4 * rb.toNat) % 128) * 2 :=
  ⟨0x003F7E00, 0x00010208, 1, by decide, by decide⟩

/-! ### Witnesses: events (05, 07, 11, 13, 15, 17) -/

/-- The split waits, with its monitor in a state. -/
def waiting (w : Wait) (st : MonState) (f : Split → Split) : State := tstate id (onSplit fun x => f { x with wait := w, mon := { st := st } })

/-- A window over v127, with the value for lane 0 there, or not. -/
def window (there : Bool) : Window :=
  { dst := 127, nreg := 1, left := 0, ready := there, word := 0, pc := 65532, pos := 0, ord := 3, pmask := 1, vals := if there then [(32 * 127, 9)] else [] }

theorem witness_WaitsEnd_window : ∃ (s : State) (c : Ctx) (v : Window), Here s c ∧ c.gr.tidy = true ∧ HasWindow c v ∧ (v.re = false ∧ v.saved = false) ∧ v.ready = true ∧ v.left = 0 ∧
    ((32 * 127, 9) ∈ v.vals ∧ ∀ y, (32 * 127, y) ∈ v.vals → y = 9) ∧ ∀ x, (0, x) ∉ v.vals :=
  ⟨waiting .none .none fun x => { x with windows := [window true] }, tctx (waiting .none .none fun x => { x with windows := [window true] }), window true,
    by unfold Here; decide +kernel, by decide +kernel, ⟨List.mem_of_getElem? (i := 0) rfl, fun y hy _ => List.mem_singleton.mp hy⟩, ⟨rfl, rfl⟩, rfl, rfl,
    ⟨by decide, fun y hy => by simpa [window] using hy⟩, fun x hx => by simp [window] at hx⟩

/-- A polling monitor whose condition, not equal, holds of memory's zeros and 1. -/
def polling : State := tstate id (onSplit fun x => { x with wait := .waitc 0 5 none, mon := { st := .armed, poll := true, cond := 1, cmp := 1, key := 0x10400 } })

theorem witness_WaitsEnd_poll : ∃ (s : State) (c : Ctx), Here s c ∧ WaitsRun s c ∧ c.sp.mon.st = .armed ∧ c.sp.mon.poll = true ∧
    condMon c.sp.mon.cond.toNat c.sp.mon.wide (homeNum s c.sp.mon.key (if c.sp.mon.wide then 8 else 4)) c.sp.mon.cmp = true :=
  ⟨polling, tctx polling, by unfold Here; decide +kernel, by unfold WaitsRun; decide +kernel, by decide +kernel, by decide +kernel, by unfold homeNum; decide +kernel⟩

theorem witness_WaitsEnd_waits : ∀ p : Wait × MonState, p ∈ [(.waitc 2 63 none, .fired), (.waitc 3 0 (some 9), .fired), (.chwait 2, .fired), (.waitc 1 63 (some 0), .armed),
      (.svc 63, .none), (.fence 3, .none), (.xfence 2 0 63 63, .none)] →
    ∃ (s : State) (c : Ctx), Here s c ∧ WaitsRun s c ∧ NoLines s c ∧ (c.gr.tidy = true ∧ s.canonical = true ∧ s.kindOn c.co.die 5 = false ∧
      c.sp.wakeRsv = false ∧ c.sp.wait = p.1 ∧ c.sp.mon.st = p.2 ∧ c.sp.windows = [] ∧ c.sp.owed = none) ∧ NoneRuns s c 0 63 := by
  intro p hp
  have hm : p = (.waitc 2 63 none, .fired) ∨ p = (.waitc 3 0 (some 9), .fired) ∨ p = (.chwait 2, .fired) ∨ p = (.waitc 1 63 (some 0), .armed) ∨
      p = (.svc 63, .none) ∨ p = (.fence 3, .none) ∨ p = (.xfence 2 0 63 63, .none) := by simpa using hp
  refine ⟨waiting p.1 p.2 id, tctx (waiting p.1 p.2 id), ?_, ?_, noLines_of ?_, ?_, fun k hk => ?_⟩
  · unfold Here; rcases hm with rfl | rfl | rfl | rfl | rfl | rfl | rfl <;> decide +kernel
  · unfold WaitsRun; rcases hm with rfl | rfl | rfl | rfl | rfl | rfl | rfl <;> decide +kernel
  all_goals first
    | (rcases hm with rfl | rfl | rfl | rfl | rfl | rfl | rfl <;> decide +kernel)
    | (have : (waiting p.1 p.2 id).cmds = [] := rfl
       rw [this] at hk; cases hk)

/-- The split waits at its JOIN entry for the other lane. -/
def waitingJoin : State := tstate id fun g =>
  { g with stack := [{ kind := .join, owner := none, mask := 3, arr := 1, pos := 0, pc := 65536 }],
           splits := [{ live := true, pc := 65536, mask := 1, wait := .waitj 6 8 }, { live := true, pc := 65600, mask := 2 }, {}, {}] }

theorem witness_WaitsEnd_waitj : ∃ (s : State) (c : Ctx) (e : StackEntry), Here s c ∧ WaitsRun s c ∧ NoLines s c ∧ (c.gr.tidy = true ∧ s.canonical = true ∧
    s.kindOn c.co.die 5 = false ∧ c.sp.wakeRsv = false) ∧ c.sp.wait = .waitj 6 8 ∧ c.gr.join? c.who.si = some e ∧ WaitsAt c.gr e c.who.si :=
  ⟨waitingJoin, tctx waitingJoin, _, by unfold Here; decide +kernel, by unfold WaitsRun; decide +kernel, noLines_of (by decide +kernel), by decide +kernel,
    by decide +kernel, rfl, ⟨_, rfl, rfl, .inr ⟨_, _, rfl⟩, rfl, rfl, by decide⟩⟩

/-- Ready for 256 cycles; for 255. -/
def starved (n : Nat) : State := { s0 with starve := [(⟨0, 0, 0⟩, n)] }

theorem witness_WaitsEnd_pause : ∃ (s t u : State) (c d e : Ctx), Here s c ∧ c.sp.boosted = false ∧ 256 ≤ s.starved c.who ∧ Here t d ∧ d.sp.boosted = false ∧
    t.starved d.who < 256 ∧ d.sp.pauseEnd ≤ t.time ∧ Here u e ∧ u.stopped e.co = false ∧ u.time < e.sp.pauseEnd :=
  ⟨starved 256, starved 255, waiting .none .none fun x => { x with pauseEnd := 16 }, tctx (starved 256), tctx (starved 255),
    tctx (waiting .none .none fun x => { x with pauseEnd := 16 }), by unfold Here; decide +kernel, by decide +kernel, by decide +kernel,
    by unfold Here; decide +kernel, by decide +kernel, by decide +kernel, by decide +kernel, by unfold Here; decide +kernel, by decide +kernel, by decide +kernel⟩

/-- Source 3 has sent its first request to the slice of 0x10400, and the slice keeps its result. -/
def sliced : State := { s0 with slices := [{ slice := sliceOf 0x10400, src := 3, last := 1, results := [(1, 7)] }] }

theorem witness_HomeOperations_requests : ∃ (s : State), s.canonical = true ∧ TrackOff s 0 ∧
    (∀ n, n ∈ [1, 2, 3] → ((n = 2 ↔ BitVec.ofNat 32 n = (s.sliceRec (sliceOf 0x10400) 3).last + 1) ∧
      (n = 1 ↔ ∃ p ∈ (s.sliceRec (sliceOf 0x10400) 3).results, p.1 = BitVec.ofNat 32 n) ∧ (n ≠ 1 → (BitVec.ofNat 32 n - (s.sliceRec (sliceOf 0x10400) 3).last).toNat ≤ 16))) ∧
    (s.sliceRec (sliceOf 0x10400) 3).early = [] ∧ ∀ r ∈ s.slices, r.early = [] :=
  ⟨sliced, by decide +kernel, .inl rfl, by decide +kernel, by decide +kernel, by decide +kernel⟩

/-- A request that came early is kept. -/
theorem witness_HomeOperations_retry : ∃ (s : State), (∃ r ∈ s.slices, r.early ≠ []) ∧ ∀ r ∈ s.slices, ∀ q ∈ r.early, q ∈ (s.sliceRec (sliceOf q.key) q.src).early ∧
    BitVec.ofNat 32 q.seq ≠ (s.sliceRec (sliceOf q.key) q.src).last + 1 :=
  ⟨{ s0 with slices := [{ slice := sliceOf 0x10400, src := 3, last := 1, early := [{ src := 3, seq := 3, key := 0x10400, vd := 0, op := .write [1] }] }] }, by decide +kernel, by decide +kernel⟩

theorem witness_HomeOperations_cluster : ∃ (s : State), s.canonical = true ∧ (0x1047C : Nat) % 4 = 0 ∧ ((s.cluster 0).lines.map fun x => x.key).Nodup ∧
    (∀ x ∈ (s.cluster 0).lines, Sparse.rises 0 x.bytes = true) ∧ ((s.cluster 0).line? (0x1047C / 128)).isSome = true :=
  ⟨memState true 1 [], by decide +kernel, by decide, by decide +kernel, by decide +kernel, by decide +kernel⟩

/-- An SC addition of lane 0 to 0x10400, its window open. -/
def scOp : ScOp :=
  { sys := false, who := ⟨0, 0, 0⟩, launch := some 0, die := 0, lane := 0, iid := 0, idx := 0, key := 0x10400, vd := 0, op := 14, d := 5, x := 0, ord := 3, dst := 127 }
def scWaiting : State := { waiting .none .none fun x => { x with windows := [window false] } with sc := [scOp] }

theorem witness_HomeOperations_ticket : ∃ (s : State) (c : Ctx) (o : ScOp) (v : Window), Here s c ∧ s.canonical = true ∧ NoLines s c ∧ s.sc = [o] ∧ o.who = c.who ∧
    o.op = 14 ∧ TrackOff s o.vd ∧ (∀ l, o.launch.bind s.launch? = some l → bit l.hdr 6 = false) ∧ bits (s.reg 0x0008) 16 15 = bits (s.reg 0x0008) 0 15 ∧ s.kindOn o.die 3 = false ∧
    s.noRoute o.key = false ∧ TurnOf s o.key o.src ∧ HasWindow c v ∧ v.ord = o.ord ∧ v.ready = false ∧ v.vals = [] :=
  ⟨scWaiting, tctx scWaiting, scOp, window false, by unfold Here; decide +kernel, by decide +kernel, noLines_of (by decide +kernel), rfl, by decide +kernel, rfl, .inl rfl,
    fun l hl => by
      have h : (scOp.launch.bind scWaiting.launch?).map (fun l => bit l.hdr 6) = some false := by decide +kernel
      rw [hl] at h; exact Option.some.inj h,
    by decide +kernel, by decide +kernel, by decide +kernel, by unfold TurnOf; decide +kernel, ⟨List.mem_of_getElem? (i := 0) rfl, fun y hy _ => List.mem_singleton.mp hy⟩, rfl, rfl, rfl⟩

/-- An ordered addition of epoch 0, of a cohort that waits for it, or of one that has gone. -/
def ordOp (co op : Nat) : OrdOp :=
  { launch := 0, k := 0, e := 0, g := 0, lane := 0, i := 0, who := ⟨co, 0, 0⟩, die := 0, iid := 0, scIdx := 0, va := 0x10400, key := 0x10400, vd := 0, op := op, sys := false,
    d := 5, x := 0, ord := 3, dst := 127 }
def ordWaiting : State :=
  let s := tstate (fun c => { c with hdr := c.hdr ||| BitVec.ofNat 1024 (2 ^ 5) }) (onSplit fun x => { x with wait := .barc })
  { s with ords := [ordOp 0 0] }

theorem witness_HomeOperations_epoch : ∃ (s : State) (c : Cohort), s.cohort? c.id = some c ∧ c.isHF = false ∧ c.kind = .cut ∧ bit c.hdr 5 = true ∧
    (∃ o ∈ s.ords, o.who.co = c.id ∧ o.e = c.epoch ∧ atomReturns o.op = true) ∧ (∀ o ∈ s.ords, o.who.co = c.id → c.epoch ≤ o.e) ∧
    ∀ g ∈ c.groups, ∀ x ∈ g.splits, x.live = true → x.wait = .barc :=
  ⟨ordWaiting, (tctx ordWaiting).co, by decide +kernel, by decide +kernel, by decide +kernel, by decide +kernel, by decide +kernel, by decide +kernel, by decide +kernel⟩

def ordGone : State := { s0 with ords := [ordOp 9 9], cohorts := [], launches := s0.launches.map fun l => { l with shares := l.shares.map fun h => { h with cseq := 1 } } }

theorem witness_HomeOperations_ordered : ∃ (s : State) (o : OrdOp), s.canonical = true ∧ s.ords = [o] ∧ s.cohort? o.who.co = none ∧ o.op = 9 ∧ TrackOff s o.vd ∧ s.noRoute o.key = false ∧
    s.kindOn o.die 4 = false ∧ s.cohorts = [] ∧ (∀ l sh, s.launch? o.launch = some l → l.share? o.die = some sh → o.k < sh.cseq ∧ sh.waiting = []) ∧ TurnOf s o.key o.src :=
  ⟨ordGone, ordOp 9 9, by decide +kernel, rfl, by decide +kernel, rfl, .inl rfl, by decide +kernel, by decide +kernel, rfl, fun l sh hl hs => by
    have h : ((ordGone.launch? 0).bind fun l => l.share? 0).map (fun sh => decide (0 < sh.cseq ∧ sh.waiting = [])) = some true := by decide +kernel
    rw [show ordGone.launch? 0 = some l from hl, Option.bind_some, show l.share? 0 = some sh from hs] at h
    exact of_decide_eq_true (Option.some.inj h), by unfold TurnOf; decide +kernel⟩

theorem witness_CacheAndTranslation_line : ∃ (s : State) (l : Line), s.canonical = true ∧ (s.cluster 0).line? 520 = some l ∧ Sparse.rises 0 l.bytes = true ∧
    ((s.cluster 0).lines.map fun x => x.key).Nodup ∧ (∀ p ∈ l.bytes, p.1 < 128 ∧ (p.2.elim true fun b => decide (b.dirty = none ∨ b.dirty = some 0)) = true) ∧
    (∃ p ∈ l.bytes, (p.2.elim false fun b => b.dirty == some 0) = true) ∧ TrackOff s 0 ∧ s.noRoute (128 * 520) = false :=
  ⟨dirty, { key := 520, cell := 0, bytes := [(127, some { v := 7, dirty := some 0 })] }, by decide +kernel, by decide +kernel, by decide +kernel, by decide +kernel, by decide +kernel,
    by decide +kernel, .inl rfl, by decide +kernel⟩

theorem witness_CacheAndTranslation_bank : ∃ (s : State), s.canonical = true ∧ ((s.cluster 63).change.find? fun p => p.1 == 63) = some (63, 2) ∧
    (∀ p ∈ (s.cluster 63).change, p.1 = 63) ∧ Sparse.rises 0 (s.cluster 63).grans = true ∧ Sparse.rises 0 (s.cluster 63).fifo = true ∧
    (s.bankMode 63 63 = 0 → s.unbacked 63 = false) :=
  ⟨{ s0 with clusters := [(63, { change := [(63, 2)] })] }, by decide +kernel, by decide +kernel, by decide +kernel, by decide +kernel, by decide +kernel, by decide +kernel⟩

theorem witness_CacheAndTranslation_walk : ∃ (s : State) (p : Phys) (e : Code), s.canonical = true ∧ s.xlate (s.cluster 63).tlb .hf 0x3FFFFFFF .read false = .ok p ∧
    s.xlate (s.cluster 63).tlb .hf 0x40000000 .read false = .error e := by
  obtain ⟨p, hp⟩ := ok_of (e := s0.xlate (s0.cluster 63).tlb .hf 0x3FFFFFFF .read false) (by decide +kernel)
  exact ⟨s0, p, 3, by decide +kernel, hp, rfl⟩

/-- An invalidation of device 15's pages has been asked for. -/
theorem witness_CacheAndTranslation_invalidate : ∃ (s : State), s.canonical = true ∧ Sparse.rises 0 s.roots = true ∧ (s.reg 0x0C18).getLsbD 63 = true ∧ s.sc = [] ∧ s.ords = [] ∧
    bits (s.reg 0x0C00) 0 5 = 15 ∧ ∀ k, k < 64 → s.unbacked k = false :=
  ⟨(s0.setReg 0x0C18 0x8000000000000000).setReg 0x0C00 15, by decide +kernel, by decide +kernel, by decide +kernel, by decide +kernel, by decide +kernel, by decide +kernel, by decide +kernel⟩

theorem witness_CacheAndTranslation_ask : ∃ (s : State) (v : BitVec 64), s.canonical = true ∧ v.getLsbD 63 = true := ⟨s0, 0xFFFFFFFFFFFFFFFF, by decide +kernel, by decide⟩

/-! ### Witnesses: engines and chains (17) -/

/-- One command of the cohort, and a change of the cohort. -/
def running (m : Cmd) (f : Cohort → Cohort) : State := { tstate f id with cmds := [m], nextCmd := 1 }

/-- A command of the first group. -/
def command (eng : Engine) (fn : Nat) (p0 : Word) (td ts tx : Desc) (prog : BitVec 48) (done : Bool) : Cmd :=
  { id := 0, eng := eng, fn := fn, co := some 0, launch := some 0, root := .hf, p0 := p0, td := td, ts := ts, tx := tx, prog := prog, done := done, grp := [(0, 64, 0)] }

/-- That it is a running command of the cohort, as a check. -/
def cmdB (s : State) (m : Cmd) (c : Cohort) : Bool :=
  decide (s.cmds = [m]) && decide (m.gi < c.groups.length) && !m.stopped && !m.done && decide (m.co = some c.id) && decide (s.cohort? c.id = some c) &&
  decide (c.status = .resident) && !s.stopped c && c.badScr.isEmpty &&
  c.groups.all fun g => g.splits.all fun x => match x.wait with
    | .xfence _ _ _ _ => false
    | _ => true

theorem cmd_of {s : State} {m : Cmd} {c : Cohort} (h : cmdB s m c = true) : CmdOf s m c := by
  simp only [cmdB, Bool.and_eq_true, decide_eq_true_eq, Bool.not_eq_true', List.isEmpty_iff] at h
  obtain ⟨⟨⟨⟨⟨⟨⟨⟨⟨h1, h2⟩, h3⟩, h4⟩, h5⟩, h6⟩, h7⟩, h8⟩, h9⟩, h10⟩ := h
  refine ⟨?_, fun k hk _ => ?_, h2, h3, h4, h5, h6, h7, h8, h9, fun g hg x hx _ sc bound a b hw => ?_⟩
  · unfold State.cmd?; rw [h1]; simp
  · rw [h1] at hk; exact List.mem_singleton.mp hk
  · have := List.all_eq_true.mp (List.all_eq_true.mp h10 g (List.mem_of_getElem? hg)) x hx
    rw [hw] at this; cases this

/-- A copy of four I32 elements in scratch, with n written in order and those of `ah` ahead. -/
def copyCmd (n : BitVec 48) (ah : List Nat) : Cmd :=
  { command .copy 0 0 (desc 4 1 [4] 16 (2 ^ 256)) (desc 4 1 [4] 0 (2 ^ 256)) 0 n false with ahead := ah }

/-- The state in which the copy reads, and what it keeps of its translation. -/
def copying1 : State := { running (copyCmd 1 [3]) id with free := 1 }
def copyKept (i : Nat) : State :=
  copying1.keepElem (copyCmd 1 [3]) (copyCmd 1 [3]).ts (Desc.fmt (copyCmd 1 [3]).td != Desc.fmt (copyCmd 1 [3]).ts) (Desc.index (copyCmd 1 [3]).td i)

theorem copy_elem (i : Nat) (h : i < 4) : ∃ x s1, copying1.copySource (copyCmd 1 [3]) i 1 = some (.ok [x]) ∧
    (copyKept i).putElem (copyCmd 1 [3]) (copyCmd 1 [3]).td (Desc.index (copyCmd 1 [3]).td i) x = .ok s1 := by
  have h1 : ∀ i, i < 4 → (match copying1.copySource (copyCmd 1 [3]) i 1 with
      | some (.ok [x]) => okB ((copyKept i).putElem (copyCmd 1 [3]) (copyCmd 1 [3]).td (Desc.index (copyCmd 1 [3]).td i) x)
      | _ => false) = true := by decide +kernel
  have h2 := h1 i h
  split at h2
  · rename_i x hx
    obtain ⟨s1, hs⟩ := ok_of h2
    exact ⟨x, s1, hx, hs⟩
  · cases h2

theorem witness_EnginesRun_copy : ∃ (s u : State) (m n : Cmd) (c d : Cohort), CmdOf s m c ∧ m.eng = .copy ∧ Desc.count m.td ≤ m.prog.toNat ∧
    CmdOf u n d ∧ n.eng = .copy ∧ n.prog.toNat < Desc.count n.td ∧ Desc.loc n.td ≠ 2 ∧ Desc.loc n.ts ≠ 2 ∧ Desc.count n.td < 2 ^ 48 ∧ n.ahead.Nodup ∧
    (∀ i ∈ n.ahead, n.prog.toNat < i ∧ i < Desc.count n.td) ∧
    n.fn ≠ 1 ∧ ∀ i, i < Desc.count n.td → ∃ x s1, State.copySource { u with free := u.free + 1 } n i 1 = some (.ok [x]) ∧
      State.putElem (State.keepElem { u with free := u.free + 1 } n n.ts (Desc.fmt n.td != Desc.fmt n.ts) (Desc.index n.td i)) n n.td (Desc.index n.td i) x = .ok s1 :=
  ⟨running (copyCmd 4 []) id, running (copyCmd 1 [3]) id, copyCmd 4 [], copyCmd 1 [3], (tctx (running (copyCmd 4 []) id)).co, (tctx (running (copyCmd 1 [3]) id)).co,
    cmd_of (by decide +kernel), rfl, by decide +kernel, cmd_of (by decide +kernel), rfl, by decide +kernel, by decide +kernel, by decide +kernel, by decide +kernel,
    by decide +kernel, (by decide +kernel), by decide, fun i hi => copy_elem i (by rw [show Desc.count (copyCmd 1 [3]).td = 4 by decide +kernel] at hi; exact hi)⟩

/-- A gather of one row by the index at scratch 0, which is 1, of a source of `rows` rows at 16; the destination ends the window. -/
def gatherCmd (rows : Nat) (n : BitVec 48) : Cmd :=
  command .gather 0 0 (desc 8 1 [1, 1] 4092 (2 ^ 256 + 2 ^ 288)) (desc 8 1 [1, rows] 16 (2 ^ 256 + 2 ^ 288)) (desc 5 1 [1] 0 (2 ^ 256)) n false
def gathering (rows : Nat) (n : BitVec 48) : State := running (gatherCmd rows n) fun c => { c with scratch := [(0, 1), (20, 77)] }

theorem witness_EnginesRun_gather : ∃ (s u v : State) (m n k : Cmd) (c d e : Cohort), CmdOf s m c ∧ m.eng = .gather ∧ Desc.ext m.tx 0 ≤ m.prog.toNat ∧
    (CmdOf u n d ∧ n.eng = .gather ∧ n.fn = 0 ∧ n.prog.toNat < Desc.ext n.tx 0 ∧ u.elemRaw n n.tx [n.prog.toNat] = .ok 1 ∧ Desc.ext n.ts 1 ≤ 1) ∧
    CmdOf v k e ∧ k.eng = .gather ∧ k.prog.toNat < Desc.ext k.tx 0 ∧ v.elemRaw k k.tx [k.prog.toNat] = .ok 1 ∧ k.fn = 0 ∧ 1 < Desc.ext k.ts 1 ∧
    (Desc.fmt k.td = 8 ∧ Desc.fmt k.ts = 8 ∧ Desc.loc k.td = 1 ∧ Desc.loc k.ts = 1 ∧ Desc.ext k.td 0 = 1 ∧ Desc.ext k.ts 0 = 1) ∧ k.prog.toNat < Desc.ext k.td 1 ∧
    Sparse.rises 0 e.scratch = true ∧ (Desc.base k.ts + 4 * (1 : Nat) * Desc.str k.ts 1 : Int) = (20 : Nat) ∧
    (Desc.base k.td + 4 * k.prog.toNat * Desc.str k.td 1 : Int) = (4092 : Nat) ∧ 20 + 4 ≤ e.z ∧ 4092 + 4 ≤ e.z :=
  ⟨gathering 1 1, gathering 1 0, gathering 2 0, gatherCmd 1 1, gatherCmd 1 0, gatherCmd 2 0, (tctx (gathering 1 1)).co, (tctx (gathering 1 0)).co, (tctx (gathering 2 0)).co,
    cmd_of (by decide +kernel), rfl, by decide +kernel, ⟨cmd_of (by decide +kernel), rfl, rfl, by decide +kernel, okIs_of (by decide +kernel), by decide +kernel⟩,
    cmd_of (by decide +kernel), rfl, by decide +kernel, okIs_of (by decide +kernel), rfl, by decide +kernel, by decide +kernel, by decide +kernel, by decide +kernel,
    by decide +kernel, (by decide +kernel), by decide +kernel, by decide +kernel⟩

/-- A matrix command of one K-step at its last row, of BF16 tensors whose strides are 0, in scratch. -/
def matrixCmd : Cmd := command .matrix 0 0x10001 (desc 10 1 [64, 16] 0 0) (desc 10 1 [64, 16] 0 0) 0 (BitVec.ofNat 48 (63 * 2 ^ 16)) false
def matrixing : State := running matrixCmd id

theorem witness_EnginesRun_matrix : ∃ (s : State) (m : Cmd) (c : Cohort) (xs : List Word), CmdOf s m c ∧ s.cmds = [m] ∧ m.eng = .matrix ∧ m.fn = 0 ∧ m.grp = [(0, 64, 0)] ∧
    Desc.loc m.td ≠ 2 ∧ Desc.loc m.ts ≠ 2 ∧ rowOf 0 m.td m.ts = some (16, false) ∧ Sparse.rises 0 c.accE = true ∧ bits m.prog 0 16 < bits m.p0 0 16 ∧
    (bits m.prog 16 6 ≠ 0) ∧
    (List.range 64).mapM (fun j => s.stepElem m 16 false [] [] (bits m.prog 0 16) (bits m.prog 16 6) j none (c.accElem m.acc (bits m.prog 16 6) j)) = .ok xs := by
  obtain ⟨xs, hx⟩ := ok_of (e := (List.range 64).mapM (fun j => matrixing.stepElem matrixCmd 16 false [] [] 0 63 j none ((tctx matrixing).co.accElem 0 63 j))) (by decide +kernel)
  exact ⟨matrixing, matrixCmd, (tctx matrixing).co, xs, cmd_of (by decide +kernel), rfl, rfl, rfl, rfl, by decide +kernel, by decide +kernel, by decide +kernel, by decide +kernel,
    by decide +kernel, by decide +kernel, hx⟩

/-- A collective of two modules, this one the first; link port p is up. -/
def collCmd : Cmd := { command .coll 0 0 (desc 8 0 [2] 0x20400 (2 ^ 256)) (desc 8 0 [2] 0x20400 (2 ^ 256)) 0 0 false with gdesc := 0x10400 }
def linked (up : Bool) : State :=
  let s := (running collCmd id).homeWrite 0x10400 (bytesOf 16 (2 + 0x10500 * 2 ^ 64)) 0
  if up then s.setReg 0x0D88 1 else s
/-- What the first module has once it has read the list of modules and its source (13 R193). -/
def collKept : State :=
  (List.range (Desc.count collCmd.ts)).foldl (fun (u : State) k =>
    u.keepElem collCmd collCmd.ts (Desc.fmt collCmd.ts != Desc.fmt collCmd.td || Desc.scm collCmd.ts != 0) (Desc.index collCmd.ts k))
    ((linked true).cmdKeep collCmd collCmd.gdesc.toNat)
def peer (fn : Nat) : Peer := { rank := 1, fn := fn, opt := 0, fmt := 8, exts := [2, 0, 0, 0], data := [0x3F800000, 0] }

theorem witness_EnginesRun_unlinked : ∃ (s : State) (c : Cohort), CmdOf s collCmd c ∧ s.cmdRead collCmd collCmd.gdesc.toNat 4 = .ok 2 ∧
    ∀ p, p < 18 → (s.reg (0x0D00 + 8 * p)).getLsbD 0 = false :=
  ⟨linked false, (tctx (linked false)).co, cmd_of (by decide +kernel), okIs_of (by decide +kernel), by decide +kernel⟩

theorem witness_EnginesRun_linked : ∃ (s : State) (c : Cohort), CmdOf s collCmd c ∧ collCmd.eng = .coll ∧ s.cmdRead collCmd collCmd.gdesc.toNat 4 = .ok 2 ∧
    (∃ p, p < 18 ∧ (s.reg (0x0D00 + 8 * p)).getLsbD 0 = true) ∧ (∃ r, r < 2 ∧ r ≠ 0 ∧ ∀ p ∈ ([] : List Peer), p.rank ≠ r) ∧
    ((∀ r, r < 2 → r ≠ 0 → ∃ p ∈ [peer 1], p.rank = r) ∧ ∃ p ∈ [peer 1], p.rank ≠ 0 ∧ (p.fn ≠ collCmd.fn ∨ p.opt ≠ collCmd.p1)) ∧
    ((∀ r, r < 2 → r ≠ 0 → ∃ p ∈ [peer 0], p.rank = r) ∧ (∀ p ∈ [peer 0], p.rank ≠ 0 → peerMatches collCmd p = true) ∧ collCmd.fn ≠ 3) ∧
    ∃ own s1, s.collData collCmd = .ok own ∧
      (List.range (Desc.count collCmd.td)).foldlM (fun (u : State) k => u.putElem collCmd collCmd.td (Desc.index collCmd.td k) (collResult collCmd.fn collCmd.td collCmd.ts collCmd.p1 0
        ((List.range 2).map fun r => if r = 0 then own else (([peer 0].find? fun p => p.rank == r).map fun p => p.data.map BitVec.toNat).getD [])
        (Desc.index collCmd.td k))) collKept = .ok s1 := by
  refine ⟨linked true, (tctx (linked true)).co, cmd_of (by decide +kernel), rfl, okIs_of (by decide +kernel), ⟨17, by decide, by decide +kernel⟩, ⟨1, by decide, by decide, by simp⟩,
    ⟨by decide +kernel, by decide +kernel⟩, ⟨by decide +kernel, by decide +kernel, by decide⟩, ?_⟩
  have h : (match (linked true).collData collCmd with
    | .ok own => okB ((List.range (Desc.count collCmd.td)).foldlM (fun (u : State) k => u.putElem collCmd collCmd.td (Desc.index collCmd.td k) (collResult collCmd.fn collCmd.td collCmd.ts collCmd.p1 0
        ((List.range 2).map fun r => if r = 0 then own else (([peer 0].find? fun p => p.rank == r).map fun p => p.data.map BitVec.toNat).getD [])
        (Desc.index collCmd.td k))) collKept)
    | .error _ => false) = true := by decide +kernel
  split at h
  · rename_i own ho
    obtain ⟨s1, hs⟩ := ok_of h
    exact ⟨own, s1, ho, hs⟩
  · cases h

/-- A command whose work is done; its record at 0x10400 or none; it arrives or not at the last word of the window. -/
def doneCmd (crec : VAddr) (p0 : Word) : Cmd := { command .copy 0 p0 0 0 0 0 true with crec := crec }
def completing (crec : VAddr) (p0 : Word) : State := running (doneCmd crec p0) fun c => { c with scratch := [(4094, 0x20)] }

theorem witness_CompletionAndGrant_complete : ∀ p : VAddr × Word, p ∈ [(0, 0), (0x10400, 0), (0, BitVec.ofNat 32 (2 ^ 18 + 1023 * 2 ^ 20))] →
    ∃ (s : State) (m : Cmd) (c : Cohort), s.cmd? m.id = some m ∧ m.stopped = false ∧ m.done = true ∧ m.co = some c.id ∧ s.cohort? c.id = some c ∧ c.status = .resident ∧
      m.node = none ∧ s.waits = [] ∧ s.canonical = true ∧ m.root = .hf ∧ m.eng = .copy ∧ m.crec = p.1 ∧ m.p0 = p.2 := by
  intro p hp
  have hm : p = (0, 0) ∨ p = (0x10400, 0) ∨ p = (0, BitVec.ofNat 32 (2 ^ 18 + 1023 * 2 ^ 20)) := by simpa using hp
  refine ⟨completing p.1 p.2, doneCmd p.1 p.2, (tctx (completing p.1 p.2)).co, ?_, rfl, rfl, ?_, ?_, ?_, rfl, ?_, ?_, rfl, rfl, rfl, rfl⟩ <;>
    rcases hm with rfl | rfl | rfl <;> decide +kernel

theorem witness_CompletionAndGrant_record : ∃ (s : State) (k : Nat), s.agentXlate .hf 0x10400 .write = .ok k := ⟨s0, 0x10400, okIs_of (by decide +kernel)⟩

theorem witness_CompletionAndGrant_arrive : ∃ (s : State) (m : Cmd) (c : Cohort), bit m.p0 18 = true ∧ m.crec = 0 ∧ (∀ k, s.clusterOf c = some k → (s.cluster k).lines = []) ∧
    Sparse.rises 0 c.scratch = true ∧ (arriveSpec (barWord c (4 * bits m.p0 20 12)) (bits m.p0 19 1)).isSome = true :=
  ⟨completing 0 (BitVec.ofNat 32 (2 ^ 18 + 1023 * 2 ^ 20)), doneCmd 0 (BitVec.ofNat 32 (2 ^ 18 + 1023 * 2 ^ 20)),
    (tctx (completing 0 (BitVec.ofNat 32 (2 ^ 18 + 1023 * 2 ^ 20)))).co, by decide +kernel, rfl, fun k hk => by
      have h : (match (completing 0 (BitVec.ofNat 32 (2 ^ 18 + 1023 * 2 ^ 20))).clusterOf (tctx (completing 0 (BitVec.ofNat 32 (2 ^ 18 + 1023 * 2 ^ 20)))).co with
        | none => true
        | some k => ((completing 0 (BitVec.ofNat 32 (2 ^ 18 + 1023 * 2 ^ 20))).cluster k).lines.isEmpty) = true := by decide +kernel
      rw [hk] at h; simpa using h, by decide +kernel, by decide +kernel⟩

/-- The cohort holds a0; the split asks for the other 31. -/
def granting : State := tstate (fun c => { c with aheld := 1 }) (onSplit fun x => { x with wait := .aalloc 1 31 })

theorem witness_CompletionAndGrant_grant : ∃ (s : State) (c : Ctx), Here s c ∧ c.co.status = .resident ∧ s.cohorts.filter (fun d => s.engCell d == s.engCell c.co) = [c.co] ∧
    c.gr.tidy = true ∧ c.sp.wait = .aalloc 1 31 ∧ (∀ i, i < 32 → 1 ≤ i → c.co.aheld.getLsbD i = false) ∧ (ones c.co.aheld).length + 31 ≤ 32 ∧ c.co.groups = [c.gr] ∧
    c.who.gi = 0 ∧ c.who.si = 0 ∧ ∀ si x, si ≠ 0 → c.gr.splits[si]? = some x → x.live = false := by
  refine ⟨granting, tctx granting, by unfold Here; decide +kernel, by decide +kernel, by decide +kernel, by decide +kernel, by decide +kernel, by decide +kernel, (by decide +kernel),
    by decide +kernel, rfl, rfl, fun si x hs hx => ?_⟩
  have h : (tctx granting).gr.splits.drop 1 = [{}, {}, {}] := by decide +kernel
  obtain ⟨k, rfl⟩ : ∃ k, si = k + 1 := ⟨si - 1, by omega⟩
  have h2 : ((tctx granting).gr.splits.drop 1)[k]? = some x := by rw [List.getElem?_drop, Nat.add_comm]; exact hx
  rw [h] at h2
  rcases k with _ | _ | _ | k
  · cases h2; rfl
  · cases h2; rfl
  · cases h2; rfl
  · cases h2

/-- A chain whose control block is at 0x10400 and whose WALK is w; an entry of NOP at 0x10480, of LAUNCH at 0x10500 with its header at 0x10600. -/
def walking (w : Nat) (slot : Nat) : State :=
  let s := (s0.homeWrite 0x10420 (bytesOf 8 w) 0).homeWrite 0x10500 (bytesOf 64 (1 + 0x10600 * 2 ^ 192)) 0
  let s := s.homeWrite 0x10600 (bytesOf 128 (loadCohort 0 65536 false).hdr.toNat) 0
  let s := s.setReg (0x1_0100 + 16 * slot) 0x8000000000010400
  { s with chains := [{ ccb := 0x10400, root := .hf, slot := none }], waits := [], nodes := [{ chain := 0, addr := 0x10480, entry := 0 }, { chain := 0, addr := 0x10500, entry := BitVec.ofNat 512 (1 + 0x10600 * 2 ^ 192) }] }

theorem witness_ChainsGoOn_read : ∃ (s u : State) (c : Chain), s.canonical = true ∧ ChainAt s 0 c ∧ s.agentXlate c.root c.ccb.toNat .write = .ok 0x10400 ∧
    s.homeRead (0x10400 + 32) 7 = 0x10500 ∧ s.agentXlate c.root 0x10500 .read = .ok 0x10500 ∧ u.canonical = true ∧ ChainAt u 0 c ∧ u.homeRead (0x10400 + 32) 7 = 0 ∧
    (∃ x : BitVec 512, x = BitVec.ofNat 512 (s.homeRead 0x10500 64) ∧ x.getLsbD 16 = false ∧ bits x 0 4 = 1 ∧ entBad x = false ∧ bits x 192 56 % 128 = 0) :=
  ⟨walking 0x10500 15, walking 0 15, { ccb := 0x10400, root := .hf, slot := none }, by decide +kernel, by unfold ChainAt; decide +kernel, okIs_of (by decide +kernel),
    by decide +kernel, okIs_of (by decide +kernel), by decide +kernel, by unfold ChainAt; decide +kernel, by decide +kernel, ⟨_, rfl, by decide +kernel⟩⟩

/-- No enabled slot names it, or the last of the PF does, and no lower one. -/
theorem witness_ChainsGoOn_hand : ∃ (s u : State) (c : Chain), s.chains[0]? = some c ∧ s.agentXlate c.root c.ccb.toNat .read = .ok 0x10400 ∧
    s.homeRead (0x10400 + 32) 7 = 0 ∧ Slotless s ∧ u.chains[0]? = some c ∧ u.agentXlate c.root c.ccb.toNat .read = .ok 0x10400 ∧
    u.homeRead (0x10400 + 32) 7 = 0 ∧ SlotNames u 0 15 0x10400 ∧ ∀ g i, i < 16 → 16 * g + i < 15 → ¬ SlotNames u g i 0x10400 := by
  refine ⟨walking 0 16, walking 0 15, { ccb := 0x10400, root := .hf, slot := none }, by decide +kernel, okIs_of (by decide +kernel), by decide +kernel,
    slotless_of (by decide +kernel), by decide +kernel, okIs_of (by decide +kernel), by decide +kernel, ⟨by decide +kernel, okIs_of (by decide +kernel)⟩, fun g i hi hl hn => ?_⟩
  have h : ∀ i, i < 15 → ((walking 0 15).reg (fnReg 0 (0x100 + 16 * i))).getLsbD 63 = false := by decide +kernel
  obtain rfl : g = 0 := by omega
  have h2 := h i (by omega)
  rw [hn.1] at h2
  cases h2

theorem witness_ChainsGoOn_start : ∃ (s : State) (x y : Node) (c : Chain) (h : BitVec 1024), s.canonical = true ∧ NodeAt s 0 x c ∧ NodeAt s 1 y c ∧ x.started = false ∧ x.result = none ∧
    y.started = false ∧ y.result = none ∧ s.agentXlate c.root x.addr.toNat .write = .ok 0x10480 ∧ s.agentXlate c.root y.addr.toNat .write = .ok 0x10500 ∧
    s.homeRead (0x10480 + 1) 1 = 0 ∧ bits x.entry 0 4 = 0 ∧ s.homeRead (0x10500 + 1) 1 = 0 ∧ bits y.entry 0 4 = 1 ∧ bits y.entry 192 56 % 128 = 0 ∧
    s.header c.root (bits y.entry 192 56) = .ok h ∧ headerOk h = true ∧ bit h 11 = false ∧ bit h 6 = false ∧ bit h 5 = false ∧
    ∀ i, i < 4 → (s.reg (0x0610 + 32 * i)).getLsbD 0 = false := by
  have h : (match (walking 0 16).header .hf 0x10600 with | .ok h => headerOk h && !bit h 11 && !bit h 6 && !bit h 5 | .error _ => false) = true := by decide +kernel
  split at h
  · rename_i h0 hh
    simp only [Bool.and_eq_true, Bool.not_eq_true'] at h
    refine ⟨walking 0 16, { chain := 0, addr := 0x10480, entry := 0 }, { chain := 0, addr := 0x10500, entry := BitVec.ofNat 512 (1 + 0x10600 * 2 ^ 192) },
      { ccb := 0x10400, root := .hf, slot := none }, h0, by decide +kernel, by unfold NodeAt ChainAt; decide +kernel, by unfold NodeAt ChainAt; decide +kernel,
      rfl, rfl, rfl, rfl, okIs_of (by decide +kernel), okIs_of (by decide +kernel), by decide +kernel, by decide +kernel, by decide +kernel, by decide +kernel, by decide +kernel, ?_,
      h.1.1.1, h.1.1.2, h.1.2, h.2, by decide +kernel⟩
    rw [show bits (BitVec.ofNat 512 (1 + 0x10600 * 2 ^ 192)) 192 56 = 0x10600 by decide +kernel]; exact hh
  · cases h

/-- A node whose predecessors are not done. -/
theorem witness_ChainsGoOn_wait : ∃ (s : State) (x : Node) (c : Chain), s.canonical = true ∧ NodeAt s 0 x c ∧ x.started = false ∧ x.result = none ∧
    s.agentXlate c.root x.addr.toNat .write = .ok 0x10480 ∧ s.homeRead (0x10480 + 1) 1 ≠ 0 :=
  ⟨(walking 0 16).homeWrite 0x10481 [1] 0, { chain := 0, addr := 0x10480, entry := 0 }, { ccb := 0x10400, root := .hf, slot := none }, by decide +kernel,
    by unfold NodeAt ChainAt; decide +kernel, rfl, rfl, okIs_of (by decide +kernel), by decide +kernel⟩

/-- The launch of node 0 has ended with CODE 5. -/
def ended : State :=
  { walking 0 16 with cohorts := [], launches := s0.launches.map fun l => { l with node := some 0, result := some (2, 5, 0) } }

theorem witness_ChainsGoOn_complete : ∃ (s : State) (x : Node) (l : Launch) (r : Nat × Code × BitVec 48), s.nodes[0]? = some x ∧ x.result = none ∧
    (s.launches.find? fun l => l.node == some 0) = some l ∧ l.result = some r ∧ bit l.hdr 6 = false ∧ s.cohorts = [] ∧ s.cradle = [] ∧ s.ords = [] ∧ s.sc = [] ∧ s.cmds = [] :=
  ⟨ended, { chain := 0, addr := 0x10480, entry := 0 }, { loadLaunch 65536 false with node := some 0, result := some (2, 5, 0) }, (2, 5, 0), by decide +kernel, rfl, by decide +kernel, rfl, by decide +kernel, rfl,
    by decide +kernel, by decide +kernel, by decide +kernel, by decide +kernel⟩

def publishing : State := { walking 0 16 with nodes := [{ chain := 0, addr := 0x10480, entry := 0, started := true, result := some (2, 5, 7) }], launches := [] }

theorem witness_ChainsGoOn_publish : ∃ (s : State) (x : Node) (c : Chain) (r : Nat × Code × BitVec 48), s.canonical = true ∧ NodeAt s 0 x c ∧ x.published = false ∧ x.recorded = false ∧
    x.result = some r ∧ s.launches = [] ∧ (∀ j, (s.cluster j).lines = []) ∧ s.agentRead c.root (c.ccb.toNat + 32) 7 = .ok 0 ∧ s.nodes = [x] ∧ bits x.entry 4 3 = 0 ∧ x.entry.getLsbD 7 = false ∧ r.1 < 16 ∧ r.2.1 < 256 ∧
    s.agentXlate c.root (c.ccb + 16).toNat .write = .ok 0x10410 :=
  ⟨publishing, { chain := 0, addr := 0x10480, entry := 0, started := true, result := some (2, 5, 7) }, { ccb := 0x10400, root := .hf, slot := none }, (2, 5, 7), by decide +kernel,
    by unfold NodeAt ChainAt; decide +kernel, rfl, rfl, rfl, rfl, fun _ => rfl, okIs_of (by decide +kernel), rfl, by decide +kernel, by decide +kernel, by decide, by decide,
    okIs_of (by decide +kernel)⟩

def offered : State := { s0 with offers := [{ loadLaunch 65536 false with cid := some 0, crec := 0x10400 }] }

theorem witness_ChainsGoOn_offer : ∃ (s : State) (l : Launch), s.offers = [l] ∧ l.root = .hf ∧ bit l.hdr 11 = false ∧ bit l.hdr 6 = false ∧ bit l.hdr 5 = false ∧
    ∀ i, i < 4 → (s.reg (0x0610 + 32 * i)).getLsbD 0 = false :=
  ⟨offered, { loadLaunch 65536 false with cid := some 0, crec := 0x10400 }, by decide +kernel, rfl, by decide +kernel, by decide +kernel, by decide +kernel, by decide +kernel⟩

/-! ### Witnesses: Faceters, cells, contexts, traps by events (07, 19, 21, 23) -/

/-- A module of one cell whose cluster's banks are scratch, whose pools are not empty, with one launch and no cohort. -/
def dispatching (f : Launch → Launch) : State :=
  let s := s0.setReg (cluReg 0 0) 0x5555555555555555
  let s := (List.range 6).foldl (fun (s : State) k => s.setReg (dieReg 0 (0x0300 + 8 * k)) 0x100000) s
  { s with lmap := [0], cohorts := [], launches := s0.launches.map f, focus := none }

/-- The share of die 0: all 32 iterations are one tile, or it has dispatched them. -/
def shared (sh : Share) (l : Launch) : Launch := { l with shares := [sh] }
def oneTile : Share := { die := 0, base := 0, len := 32, shape := [32], order := 1, tiles := [⟨[0], [32]⟩], open_ := true }
def oneLaunch : Launch := shared oneTile (loadLaunch 65536 false)

theorem chosen_zero {s : State} {n : Needs} (hl : s.lmap.length = 1) (h : s.eligible n 0 = true) : Chosen s n 0 := by
  refine ⟨by omega, h, fun y hy _ => .inr ?_⟩
  obtain rfl : y = 0 := by omega
  exact ⟨rfl, Nat.le_refl _⟩

theorem witness_FaceterDispatches_cut : ∃ (s : State) (l : Launch) (sh : Share) (b : Box) (rest : List Box) (x : Nat), Served s l sh ∧ sh.tiles = b :: rest ∧
    s.canonical = true ∧ Chosen s ((mkCut s.nextCohort l sh b sh.cseq sh.shape.prod 1).needs true) x ∧
    s.poolHead sh.die (mkCut s.nextCohort l sh b sh.cseq sh.shape.prod 1).cls ≠ 0 :=
  ⟨dispatching (shared oneTile), oneLaunch, oneTile, ⟨[0], [32]⟩, [], 0,
    ⟨by decide +kernel, by decide +kernel, by decide +kernel, by decide +kernel, by decide +kernel, (fun c hc => (List.not_mem_nil (show c ∈ [] from hc)).elim),
      fun c hc => (List.not_mem_nil (show c ∈ [] from hc)).elim⟩,
    rfl, by decide +kernel, chosen_zero rfl (by decide +kernel), by decide +kernel⟩

/-- A window of one cohort has ended. -/
def windowed : Share :=
  { oneTile with tiles := [⟨[0], [32]⟩], cseq := 1, hm := List.replicate (hWin (loadLaunch 65536 false).hdr) (1, 2) }

theorem witness_FaceterDispatches_window : ∃ (s : State) (l : Launch) (sh : Share), s.launch? l.num = some l ∧ l.share? sh.die = some sh ∧ l.rerun = none ∧ bit l.hdr 6 = false ∧
    bit l.hdr 3 = false ∧ hWin l.hdr ≤ sh.hm.length ∧ s.kindOn sh.die 0 = false ∧ (s.reg (dieReg sh.die 0x0428)).getLsbD 0 = false ∧ sh.tiles ≠ [] ∧ envelope l.hdr ≠ [] ∧ hOrders l.hdr ≠ [] ∧
    ∀ e ∈ envelope l.hdr, ∀ o ∈ hOrders l.hdr, cost l sh sh.shape sh.order ≤ cost l sh e o :=
  ⟨dispatching (shared windowed), shared windowed (loadLaunch 65536 false), windowed, by decide +kernel, by decide +kernel, by decide +kernel, by decide +kernel⟩

/-- Tiles that are not whole cost 1; eight iterations are dispatched, so shape 32 no longer covers the others whole, and shape 8 does. -/
def recutLaunch (sh : Share) : Launch :=
  shared sh { loadLaunch 65536 false with hdr := (loadLaunch 65536 false).hdr ||| BitVec.ofNat 1024 (2 ^ 48 + 5 * 2 ^ 260) }
def recutShare : Share := { windowed with cuts := [⟨[0], [8]⟩], tiles := [⟨[8], [24]⟩] }

theorem witness_FaceterDispatches_recut : ∃ (s : State) (l : Launch) (sh : Share) (i j : Nat) (e : List Nat) (o : Nat), s.launch? l.num = some l ∧
    l.share? sh.die = some sh ∧ l.rerun = none ∧ bit l.hdr 6 = false ∧ bit l.hdr 3 = false ∧ hWin l.hdr ≤ sh.hm.length ∧ s.kindOn sh.die 0 = false ∧
    (s.reg (dieReg sh.die 0x0428)).getLsbD 0 = false ∧ sh.tiles ≠ [] ∧ (envelope l.hdr)[i]? = some e ∧ (hOrders l.hdr)[j]? = some o ∧
    cost l sh e o < cost l sh sh.shape sh.order ∧ (∀ e' ∈ envelope l.hdr, e'.prod < 2 ^ 20) ∧
    ∀ (i' j' : Nat) (e' : List Nat) (o' : Nat), (envelope l.hdr)[i']? = some e' → (hOrders l.hdr)[j']? = some o' →
      cost l sh e o < cost l sh e' o' ∨ (cost l sh e o = cost l sh e' o' ∧ (e'.prod < e.prod ∨ (e'.prod = e.prod ∧ (j < j' ∨ (j = j' ∧ i ≤ i'))))) := by
  refine ⟨dispatching fun _ => recutLaunch recutShare, recutLaunch recutShare, recutShare, 3, 0, [8], 1, by decide +kernel, by decide +kernel, rfl, by decide +kernel,
    by decide +kernel, by decide +kernel, by decide +kernel, by decide +kernel, (by decide +kernel), by decide +kernel, by decide +kernel, by decide +kernel,
    by decide +kernel, fun i' j' e' o' hi hj => ?_⟩
  have h : ((envelope (recutLaunch recutShare).hdr).zipIdx.all fun p => (hOrders (recutLaunch recutShare).hdr).zipIdx.all fun q =>
      let c := cost (recutLaunch recutShare) recutShare
      decide (c [8] 1 < c p.1 q.1 ∨ (c [8] 1 = c p.1 q.1 ∧ (p.1.prod < 8 ∨ (p.1.prod = 8 ∧ (0 < q.2 ∨ (0 = q.2 ∧ 3 ≤ p.2))))))) = true := by decide +kernel
  exact of_decide_eq_true (List.all_eq_true.mp (List.all_eq_true.mp h (e', i') (List.mem_zipIdx_iff_getElem?.mpr hi)) (o', j') (List.mem_zipIdx_iff_getElem?.mpr hj))

/-- An item of the launch with entry 32. -/
def cradleItem : CradleItem :=
  { launch := 0, entry := 32, arg0 := 1, arg1 := 2, depth := 1, iid := 5, cseq := 0, org := [0], ext := [32], vol := 32, wave := 1, rb := 16, scr := 4096, lcell := 0 }
def packing (n : Nat) (aged : Bool) : State :=
  { dispatching (shared windowed) with cradle := [(0, List.replicate n cradleItem)], aged := if aged then [(0, 0, 32)] else [] }

/-- 33 items, or one that has waited. -/
theorem witness_FaceterDispatches_task : ∀ p : Nat × Bool, p ∈ [(33, false), (1, true)] → ∃ (s : State) (l : Launch) (c : Cohort), s.launch? l.num = some l ∧ l.root = .hf ∧ l.rerun = none ∧
    s.recovery = false ∧ s.canonical = true ∧ Sparse.rises 0 s.cradle = true ∧
    (32 ≤ (s.packable 0 l.num 32).length ∨ (s.packable 0 l.num 32 ≠ [] ∧ (0, l.num, 32) ∈ s.aged)) ∧
    mkTask s.nextCohort l 0 32 ((s.packable 0 l.num 32).take 32) = some c ∧ Chosen s (c.needs true) 0 ∧ s.poolHead 0 c.cls ≠ 0 := by
  intro p hp
  have hm : p = (33, false) ∨ p = (1, true) := by simpa using hp
  rcases hm with rfl | rfl
  · exact ⟨packing 33 false, shared windowed (loadLaunch 65536 false), _, by decide +kernel, rfl, rfl, rfl, by decide +kernel, by decide +kernel, by decide +kernel, rfl,
      chosen_zero rfl (by decide +kernel), by decide +kernel⟩
  · exact ⟨packing 1 true, shared windowed (loadLaunch 65536 false), _, by decide +kernel, rfl, rfl, rfl, by decide +kernel, by decide +kernel, by decide +kernel, rfl,
      chosen_zero rfl (by decide +kernel), by decide +kernel⟩

theorem witness_FaceterDispatches_age : ∃ (s : State), s.packable 0 0 32 ≠ [] ∧ (0, 0, 32) ∉ s.aged := ⟨packing 1 false, by decide +kernel, by decide +kernel⟩

/-- A numbered cut waits, and no bank is scratch. -/
def orderedShare : Share := { oneTile with tiles := [], waiting := [(0, ⟨[0], [32]⟩, 32)] }
def ordered (l : Launch) : Launch := { shared orderedShare l with hdr := l.hdr ||| 32 }
def orderedWaits : State := (dispatching ordered).setReg (cluReg 0 0) 0 |>.setReg (cluReg 0 8) 0

theorem witness_FaceterDispatches_ordered : ∃ (s : State) (l : Launch) (sh : Share) (w : Nat × Box × Nat), s.launch? l.num = some l ∧ l.share? sh.die = some sh ∧ w ∈ sh.waiting ∧
    bit l.hdr 5 = true ∧ sh.stopped = false ∧ s.orderedCells l sh.die ≠ [] ∧ s.occupied (s.pcell ((s.orderedCells l sh.die).getD (w.1 % (s.orderedCells l sh.die).length) 0)) = false ∧
    s.granFree (s.pcell ((s.orderedCells l sh.die).getD (w.1 % (s.orderedCells l sh.die).length) 0) / 8) < (hFootprint l.hdr + 4095) / 4096 :=
  ⟨orderedWaits, ordered (loadLaunch 65536 false), orderedShare, (0, ⟨[0], [32]⟩, 32), by decide +kernel, by decide +kernel, by decide +kernel, by decide +kernel,
    by decide +kernel, by decide +kernel, by decide +kernel, by decide +kernel⟩

theorem witness_FaceterDispatches_log : ∃ (s : State), s.canonical = true ∧ (s.reg (dieReg 3 0x0428)).getLsbD 0 = true ∧ 0 < s.logFree 3 :=
  ⟨(s0.setReg (dieReg 3 0x0428) 1).setReg (dieReg 3 0x0408) 1, by decide +kernel, by decide +kernel, by decide +kernel⟩

/-- Headframe core 0 runs the Winze; its frame 0 is to be divided. -/
def startRun : WinzeRun := { winzeRun 64 5 with frames := [(0, some { parent := none, cidx := 0, depth := 0, stage := .divide })] }
def starting : State := tstate (fun c => { c with kind := .headframe 0, launch := none, run := some startRun }) id

/-- The same on a cell; and with a finished Winze group, whose place is free again. -/
def startingOn (gs : List Group) : State := tstate (fun c => { c with run := some startRun, groups := c.groups ++ gs }) id

theorem witness_FaceterDispatches_winze : ∀ s ∈ [starting, startingOn [], startingOn [{ (tctx starting).gr with index := 1, slot := 1, fin := true }]],
    ∃ (c : Cohort) (w : WinzeRun), s.cohort? c.id = some c ∧ c.run = some w ∧ (w.ready 0).take 32 ≠ [] ∧ c.status = .resident ∧
    s.stopped c = false ∧ (∀ g ∈ c.groups, g.halt = false) ∧ ((c.groups.drop c.ngroups).filter fun g => !g.fin).length < w.gw ∧
    (c.isHF = true ∨ ((s.cellGroups (s.pcell c.lcell)).length < 48 ∧ ((s.cellGroups (s.pcell c.lcell)).map fun g => g.budget).sum + c.rb ≤ 512)) := by
  intro s hs
  refine ⟨(tctx s).co, startRun, ?_⟩
  have hm : s = starting ∨ s = startingOn [] ∨ s = startingOn [{ (tctx starting).gr with index := 1, slot := 1, fin := true }] := by simpa using hs
  rcases hm with rfl | rfl | rfl <;>
    exact ⟨by decide +kernel, by decide +kernel, by decide +kernel, by decide +kernel, by decide +kernel, by decide +kernel, by decide, by decide +kernel⟩

theorem witness_CellsAdapt_temperatures : ∃ (s : State) (temps : List Nat), s.canonical = true ∧ temps.length = 128 ∧ ∀ x ∈ temps, x < 4096 :=
  ⟨s0, List.range 127 ++ [4095], by decide +kernel, by decide, by decide +kernel⟩

/-- The cohort has its cell's quantum; a launch with a role map waits for a cell. -/
def quantumed : State :=
  let s := tstate id id
  let l : Launch := { loadLaunch 65536 false with num := 1, hdr := (loadLaunch 65536 false).hdr ||| BitVec.ofNat 1024 (2 ^ 645), shares := [oneTile] }
  { s with launches := s.launches ++ [l], cells := [(0, { cfg := some (configOf .hf (loadLaunch 65536 false).hdr), qlen := 1 })] }

theorem light_of {s : State} {c : Cohort} (h : (decide (s.cohort? c.id = some c) && decide (s.cohorts = [c]) && !bit c.hdr 3 && decide (c.fifos = []) && decide (c.run = .none) &&
    decide (c.sets = []) && decide (s.cmds = []) && decide (s.sc = []) && decide (s.ords = []) && decide (s.clusters = []) && c.groups.all (fun g => decide (g.dg = []) && decide (g.dgIter = [])) && !s.kindOn c.die 2 && !s.kindOn c.die 5 && !c.isHF) = true) :
    Light s c := by
  simp only [Bool.and_eq_true, decide_eq_true_eq, Bool.not_eq_true', List.all_eq_true] at h
  obtain ⟨⟨⟨⟨⟨⟨⟨⟨⟨⟨⟨⟨⟨h1, h2⟩, h3⟩, h4⟩, h5⟩, h6⟩, h7⟩, hs⟩, ho⟩, hk⟩, h8⟩, h9⟩, h10⟩, h11⟩ := h
  refine ⟨h1, fun d hd _ => ?_, .inr h3, ⟨h4, h5, h6, fun m hm => ?_, by simp [hs], by simp [ho], h8⟩, ⟨h9, h10, h11⟩, fun k _ => ?_⟩
  · rw [h2] at hd; exact List.mem_singleton.mp hd
  · rw [h7] at hm; cases hm
  · unfold State.unbacked State.cluster; rw [hk]; rfl

/-- The launch that waits. -/
def waitsFor : Launch := { loadLaunch 65536 false with num := 1, hdr := (loadLaunch 65536 false).hdr ||| BitVec.ofNat 1024 (2 ^ 645), shares := [oneTile] }

theorem witness_CellsAdapt_quantum : ∃ (s : State) (l : Launch) (c : Cohort), s.canonical = true ∧ Light s c ∧ s.residents 0 = [c] ∧ c.status = .resident ∧ (s.cell 0).qlen ≠ 0 ∧
    (s.cell 0).switch = none ∧ s.launch? l.num = some l ∧ l.result = none ∧
    (s.reg (cluReg (0 / 8) 0x0488)).getLsbD 0 = false ∧ s.successor 0 = some l ∧ s.kindOn (0 / 128) 2 = false ∧ (s.cell 0).cfg ≠ none ∧
    ((s.cell 0).cfg.any fun g => g.same (configOf l.root l.hdr)) = false :=
  ⟨quantumed, waitsFor, (tctx quantumed).co, by decide +kernel, light_of (by decide +kernel), by decide +kernel, by decide +kernel, by decide +kernel,
    by decide +kernel, by decide +kernel, rfl, by decide +kernel, by decide +kernel, (by decide +kernel), by decide +kernel, by decide +kernel⟩

/-- The cell is being switched to launch 1, with its cohort still there or gone. -/
def switching (gone : Bool) : State :=
  { quantumed with cells := [(0, { switch := some 1 })], cohorts := if gone then [] else quantumed.cohorts }

theorem witness_CellsAdapt_switch : (∃ (s : State), s.canonical = true ∧ (s.cell 0).switch = some 1 ∧ s.residents 0 ≠ []) ∧
    ∃ (s : State) (l : Launch), s.canonical = true ∧ (s.cell 0).switch = some l.num ∧ s.residents 0 = [] ∧ s.launch? l.num = some l ∧ l.result = none :=
  ⟨⟨switching false, by decide +kernel, by decide +kernel, by decide +kernel⟩,
    ⟨switching true, waitsFor, by decide +kernel, by decide +kernel, by decide +kernel, by decide +kernel, rfl⟩⟩

theorem witness_CellsAdapt_lls : (∃ (s : State), s.canonical = true ∧ (s.cell 0).m = 0 ∧ (s.cell 0).h = 0 ∧ (s.cell 0).lls = 0 ∧ ∀ p ∈ (s.cell 0).hist, p = (0, 0)) ∧
    ∃ (s : State), s.canonical = true ∧ (s.cell 0).m ≠ 0 :=
  ⟨⟨s0, by decide +kernel, by decide +kernel, by decide +kernel, by decide +kernel, by decide +kernel⟩,
    ⟨{ s0 with cells := [(0, { m := 3 })] }, by decide +kernel, by decide +kernel⟩⟩

theorem witness_CellsAdapt_move : ∃ (s : State), s.lmap.Nodup ∧ s.kindOn (0 / 128) 2 = false ∧ (∀ c ∈ s.cohorts, c.status ≠ .held) ∧ 0 ∈ s.hot ∧ 0 ∈ s.lmap ∧ s.residents 0 = [] ∧ s.coolest 0 = some 1 ∧
    s.residents (s.pcell 1) = [] :=
  ⟨{ dispatching id with lmap := [0, 7], hot := [0] }, by decide +kernel, by decide +kernel, by decide +kernel, by decide +kernel, by decide +kernel, (by decide +kernel), by decide +kernel,
    by decide +kernel⟩

theorem witness_SaveAndRestore_request : ∃ (s : State) (v : BitVec 64), s.canonical = true ∧ (s.reg (dieReg 3 0x0338)).getLsbD 63 = false ∧ v.getLsbD 63 = true ∧ bits v 56 2 = 2 :=
  ⟨s0, 0x8200000000000000, by decide +kernel, by decide +kernel, by decide, by decide⟩

/-- The cohort is to be saved in the block at 1 MiB, or has been; its group has 8 registers and one lane, and s1 holds 7. -/
def blocked (st : Status) : State :=
  let s := tstate (fun c => { c with status := st, ctx := 0x100000 }) fun g =>
    onSplit (fun x => { x with mask := 1 }) { g with s := [(1, 7)], budget := 1, iids := [], valid := 1 }
  s.setReg (cluReg 0 0) 0x5555555555555555
/-- A block: its header (VER 1, VALID and STOP 1, CLASS, section addresses) and its one group's record and s1. -/
def savedOne : State :=
  let s := blocked (.saved 1 none)
  let cells : List (Nat × Nat) := [(0, 1), (1, 17), (2, 32), (33, 1), (37, 129), (41, 129), (42, 1), (45, 129), (46, 10), (49, 129), (50, 18), (53, 145), (54, 18),
    (57, 209), (58, 26), (61, 19), (62, 27), (64, 128), (65, 51), (66, 27), (256, 1), (257, 33), (320, 1), (324, 1), (329, 1), (580, 7)]
  { s with mem := s.mem ++ cells.map fun p => (0x100000 + p.1, BitVec.ofNat 8 p.2) }

def savedCohort : Cohort := (tctx savedOne).co

theorem witness_SaveAndRestore_save : ∃ (s : State) (c : Cohort) (stop : Nat) (esc : Option Nat), s.canonical = true ∧ Light s c ∧ c.status = .saving stop esc ∧ stop < 16 :=
  ⟨blocked (.saving 1 none), (tctx (blocked (.saving 1 none))).co, 1, none, by decide +kernel, light_of (by decide +kernel), by decide +kernel, by decide⟩

theorem witness_SaveAndRestore_refused : ∃ (s : State) (c : Cohort) (n : Nat), s.canonical = true ∧ Light s c ∧ c.status = .saved n none ∧ n ≠ 5 ∧ s.homeRead c.ctx.toNat 1 ≠ 1 ∧ s.outcomeOf c ≠ 3 ∧ c.die < 4 :=
  ⟨blocked (.saved 1 none), (tctx (blocked (.saved 1 none))).co, 1, by decide +kernel, light_of (by decide +kernel), by decide +kernel, by decide, by decide +kernel, by decide +kernel, by decide +kernel⟩

theorem saved_canonical : savedOne.canonical = true := by decide +kernel
theorem saved_light : Light savedOne savedCohort := light_of (by decide +kernel)
theorem saved_may : savedOne.mayRestore savedCohort = true := by decide +kernel

theorem saved_ctx : savedCohort.ctx.toNat = 0x100000 := by decide +kernel

theorem saved_sections : savedCohort.sect 1 = 256 ∧ 581 ≤ savedCohort.sect 3 ∧ 581 ≤ savedCohort.sect 2 ∧ 581 ≤ savedCohort.sect 8 ∧ savedCohort.ng = 32 := by decide +kernel

/-- Memory above its last byte reads 0. -/
theorem read_above (m : Mem) (k : Nat) (h : ∀ p ∈ m, p.1 < k) : Memory.read m k = 0 := by
  unfold Memory.read
  induction m with
  | nil => rfl
  | cons p t ih =>
    have hp := h p List.mem_cons_self
    unfold Sparse.get
    rw [if_neg (by omega), if_neg (by omega)]
    exact ih fun q hq => h q (List.mem_cons_of_mem _ hq)

theorem ofBytes_zeros (n : Nat) : ofBytes (List.replicate n 0) = 0 := by
  induction n with
  | zero => rfl
  | succ n ih => rw [List.replicate_succ, ofBytes, ih]; rfl

theorem ofBytes_append_zeros (l : List Byte) (n : Nat) : ofBytes (l ++ List.replicate n 0) = ofBytes l := by
  induction l with
  | nil => exact ofBytes_zeros n
  | cons b t ih => rw [List.cons_append, ofBytes, ih, ofBytes]

theorem saved_zeros (k n : Nat) (h : 0x100245 ≤ k) : savedOne.homeBytes k n = List.replicate n 0 := by
  have hm : ∀ p ∈ savedOne.mem, p.1 < 0x100245 := by decide +kernel
  unfold State.homeBytes
  rw [List.eq_replicate_iff]
  refine ⟨by simp, fun b hb => ?_⟩
  obtain ⟨j, _, rfl⟩ := List.mem_map.mp hb
  exact read_above _ _ fun p hp => by have := hm p hp; omega

theorem saved_above (off n : Nat) (h : 581 ≤ off) : savedOne.block savedCohort off n = 0 := by
  unfold State.block State.homeRead
  rw [saved_ctx, saved_zeros _ _ (by omega), ofBytes_zeros]

/-- The bytes of the header and of the group's record that can be other than 0. -/
theorem saved_bytes (k m n : Nat) (h : 0x100245 ≤ k + m) : savedOne.homeRead k (m + n) = savedOne.homeRead k m := by
  have hb : savedOne.homeBytes k (m + n) = savedOne.homeBytes k m ++ savedOne.homeBytes (k + m) n := by
    unfold State.homeBytes
    rw [List.range_add, List.map_append, List.map_map]
    congr 1
    exact List.map_congr_left fun j _ => by rw [Function.comp_apply, Nat.add_assoc]
  unfold State.homeRead
  rw [hb, saved_zeros _ _ h, ofBytes_append_zeros]

theorem saved_header : savedOne.header21 savedCohort = 0x1b3380001b1300001ad1000012910000128100000a81000001810000008100000001000000000000000000000000000000000000000000000000000000000000201101 := by
  unfold State.header21 State.block
  rw [saved_ctx]
  decide +kernel

theorem saved_record : savedOne.block savedCohort (savedCohort.sect 1 + 1024 * 0) 1024 = 0x7000000000000000000000000000000000000000000000000000000000000000000000000000000000000000000000000000000000000000000000000000000000000000000000000000000000000000000000000000000000000000000000000000000000000000000000000000000000000000000000000000000000000000000000000000000000000000000000000000000000000000000000000000000000000000000000000000000000000000000000000000000000000000000000000000000000000000000000000000000000000000000000000000000000000000000000000000000000000000000000000000000000000000000000100000000010000000100000000000000000000000000000000000000000000000000000000000000000000000000000000000000000000000000000000000000000000000000002101 := by
  unfold State.block
  rw [saved_ctx, saved_sections.1]
  refine (saved_bytes 0x100100 325 699 (by decide)).trans ?_
  decide +kernel

theorem saved_win (i j : Nat) : savedOne.block savedCohort (savedCohort.sect 3 + 18432 * i + 288 * j) 32 = 0 :=
  saved_above _ _ (by have := saved_sections.2.1; omega)

theorem saved_stack (i j : Nat) : savedOne.block savedCohort (savedCohort.sect 2 + 2048 * i + 32 * j) 32 = 0 :=
  saved_above _ _ (by have := saved_sections.2.2.1; omega)

theorem saved_group (i : Nat) : savedOne.groupRefused savedCohort i = false := by
  unfold State.groupRefused
  have h1 := saved_sections.1
  by_cases hi : i = 0
  · subst hi
    rw [saved_record]
    simp only [saved_win, saved_stack]
    decide +kernel
  · rw [saved_above _ _ (by omega)]
    simp only [saved_win, saved_stack]
    have h : (fget 0 0 1 == 1) = false := by decide
    rw [h, Bool.false_and, Bool.or_false, List.any_eq_false.mpr fun _ _ => by decide]
    decide +kernel

theorem saved_refused : savedOne.refused savedCohort = false := by
  unfold State.refused
  rw [List.any_eq_false.mpr fun i _ => by rw [saved_group]; decide, saved_header, saved_above _ _ saved_sections.2.2.2.1]
  decide +kernel

theorem saved_windows (si : Nat) (old : Split) : savedOne.windowsAt savedCohort 0 si old = old.windows.filter fun w => !w.saved := by
  unfold State.windowsAt
  have h : ¬ fget 0 0 1 = 1 := by decide
  simp only [saved_win, h, false_and, if_false]
  rfl

theorem saved_groups : ∀ g ∈ (savedOne.cohortAt savedCohort).groups, g.trap = none ∧ g.pend = none ∧ g.queued = [] ∧ ∀ x ∈ g.splits, x.windows = [] := by
  have hd : (savedCohort.readDigests (savedOne.elements 5 48 (fget (savedOne.header21 savedCohort) 736 56))).groups.zipIdx =
      [(savedCohort.groups.headD c0.gr, 0)] := by rw [saved_header]; decide +kernel
  have h : (savedOne.cohortAt savedCohort).groups = [savedOne.groupAt savedCohort 0 (savedCohort.groups.headD c0.gr)] := by
    unfold State.cohortAt
    show List.map _ _ = _
    rw [hd]
    rfl
  intro g hg
  rw [h, List.mem_singleton] at hg
  subst hg
  have hs : savedCohort.slotOf 0 (savedCohort.groups.headD c0.gr) = 0 := by decide +kernel
  have hb : (let g := savedOne.groupAt savedCohort 0 (savedCohort.groups.headD c0.gr)
      g.trap.isNone && g.pend.isNone && g.queued.isEmpty && g.splits.all fun x => x.windows.isEmpty) = true := by
    unfold State.groupAt State.splitAt
    simp only [hs, saved_record, saved_windows]
    decide +kernel
  simp only [Bool.and_eq_true, Option.isNone_iff_eq_none, List.all_eq_true, List.isEmpty_iff] at hb
  exact ⟨hb.1.1.1, hb.1.1.2, hb.1.2, hb.2⟩

theorem witness_SaveAndRestore_restore : ∃ (s : State) (c : Cohort) (n : Nat), s.canonical = true ∧ Light s c ∧ c.status = .saved n none ∧ n ≠ 5 ∧ s.refused c = false ∧
    s.outcomeOf c ≠ 3 ∧ s.mayRestore c = true ∧ (s.reg (dieReg c.die 0x0428)).getLsbD 0 = false ∧ c.alog = [] ∧
    (∀ g ∈ (s.cohortAt c).groups, g.trap = none ∧ g.pend = none ∧ g.queued = [] ∧ ∀ x ∈ g.splits, x.windows = []) ∧
    bits (BitVec.ofNat 8 (s.homeRead (c.ctx.toNat + c.sect 1 + 1024 * c.slotOf 0 (c.groups.headD c0.gr)) 1)) 0 1 = 1 :=
  ⟨savedOne, savedCohort, 1, saved_canonical, saved_light, by decide +kernel, by decide, saved_refused, by decide +kernel, saved_may, by decide +kernel, by decide +kernel, saved_groups,
    by decide +kernel⟩

theorem witness_SaveAndRestore_push : ∃ (s : State) (v w : BitVec 64), s.canonical = true ∧ (0 < bits v 0 56 ∧ bits v 0 56 < 0x59_682F_0000 ∧ bits v 0 56 % 4096 = 0) ∧
    0x59_682F_0000 ≤ bits w 0 56 := ⟨s0, 0x59682EF000, 0x59682F0000, by decide +kernel, by decide, by decide⟩

/-- The split stands where no page is. -/
def astray : State := tstate id (onSplit fun x => { x with pc := 0x40000000 })

theorem witness_TrapsByEvents_fetch : ∃ (s : State) (c : Ctx), Here s c ∧ c.sp.codes = [] ∧ s.fetch c.co c.sp.pc = .error 3 :=
  ⟨astray, tctx astray, by unfold Here; decide +kernel, by decide +kernel, rfl⟩

theorem lowest_zero {c : Ctx} (hg : c.who.gi = 0) (hs : c.who.si = 0) : LowestSplit c :=
  ⟨fun gi _ _ h => by rw [hg] at h; omega, fun si _ h => by rw [hs] at h; omega⟩

theorem witness_TrapsByEvents_ordered : ∃ (s : State) (c : Ctx) (o : OrdOp), Here s c ∧ LowestSplit c ∧ s.ords = [o] ∧ o.launch = 0 ∧
    s.cohorts.filter (fun d => d.launch == some 0 && d.kind == .cut && d.status != .held) = [c.co] ∧ c.co.status = .resident ∧ s.stopped c.co = false ∧
    ∃ d, s.cohort? o.who.co = some d ∧ d.epoch ≤ o.e ∧ d.status ≠ .held :=
  ⟨ordWaiting, tctx ordWaiting, ordOp 0 0, by unfold Here; decide +kernel, lowest_zero rfl rfl, rfl, rfl, by decide +kernel, by decide +kernel, by decide +kernel,
    (tctx ordWaiting).co, by decide +kernel, by decide +kernel, by decide +kernel⟩

/-- A replayed launch whose log gives the first ticket to lane 1. -/
def replaying : State :=
  let s := scWaiting
  let s := ((s.homeWrite 0x100000 (bytesOf 32 (3 * 2 ^ 64 + 2 ^ 160)) 0).setReg (dieReg 0 0x0438) 0x100000).setReg (dieReg 0 0x0440) 1
  { s with launches := s.launches.map fun l => { l with hdr := l.hdr ||| BitVec.ofNat 1024 (2 ^ 6) } }

theorem witness_TrapsByEvents_replayed : ∃ (s : State) (c : Ctx) (o : ScOp) (l : Launch), Here s c ∧ LowestSplit c ∧ s.sc = [o] ∧ s.ords = [] ∧ o.launch = some l.num ∧ s.launch? l.num = some l ∧
    bit l.hdr 6 = true ∧ s.mayGrant o = false ∧ o.who.co = c.who.co ∧ c.co.status = .resident ∧ s.stopped c.co = false :=
  ⟨replaying, tctx replaying, scOp, { loadLaunch 65536 false with hdr := (loadLaunch 65536 false).hdr ||| BitVec.ofNat 1024 (2 ^ 6) }, by unfold Here; decide +kernel,
    lowest_zero rfl rfl, by decide +kernel, rfl, rfl, by decide +kernel, by decide +kernel, by decide +kernel, by decide +kernel, by decide +kernel, by decide +kernel⟩

/-- Lane 0 of the split, which is stalled, loads from another module; no port is up. -/
def remote : State :=
  let x : ML := ⟨7, 124, 0, 2, 1, 0⟩
  let s := State.reset.withFetchWord 32 (wordOf (.ldg x))
  let g (g : Group) : Group := onSplit (fun y => { y with mask := 1, landed := false }) { g with s := [(3, 0x100)] }
  let s : State := { s with cohorts := s.cohorts.map fun c => { c with groups := c.groups.map g } }
  let e : TlbEntry := { root := .hf, base := 2 ^ 40, size := 2 ^ 30, entry := BitVec.ofNat 64 (1 + 2 + 32 + 64 + 2 ^ 40) }
  { s with stalled := [⟨0, 0, 0⟩], focus := some ⟨0, 0, 0⟩, clusters := [(0, { tlb := [e] })] }

theorem witness_TrapsByEvents_remote : ∃ (s : State) (c : Ctx) (x : ML), Here s c ∧ s.free? c.co c.gr c.sp = true ∧ s.nextWord c = .word (wordOf (.ldg x)) ∧ dispFits c ∧
    Only (c.part x.g.toNat) 0 ∧ NoLines s c ∧ (∀ o ∈ s.sc, o.who ≠ c.who) ∧ (∀ o ∈ s.ords, o.who ≠ c.who) ∧ c.who ∈ s.stalled ∧
    ∃ p, s.laneAccess c.co .read (sizeBytes x.sz.toNat c.h.b8) (gAddr c x.bp.toNat x.o.toNat 0) = .ok p ∧ s.noRoute p.key = true := by
  obtain ⟨p, hp⟩ := ok_of (e := remote.laneAccess (tctx remote).co .read (sizeBytes 2 (tctx remote).h.b8) (gAddr (tctx remote) 1 0 0)) (by decide +kernel)
  refine ⟨remote, tctx remote, ⟨7, 124, 0, 2, 1, 0⟩, by unfold Here; decide +kernel, by decide +kernel, ?_, by unfold dispFits immFits; decide +kernel,
    only_of_one (by decide +kernel) (by decide), noLines_of (by decide +kernel), by decide +kernel, by decide +kernel, by decide +kernel, p, hp, ?_⟩
  · have h : (match remote.nextWord (tctx remote) with | .word w => w == wordOf (.ldg ⟨7, 124, 0, 2, 1, 0⟩) | _ => false) = true := by decide +kernel
    split at h
    · rename_i w hw; rw [hw]; exact congrArg _ (by simpa using h)
    · cases h
  · have h : (match remote.laneAccess (tctx remote).co .read (sizeBytes 2 (tctx remote).h.b8) (gAddr (tctx remote) 1 0 0) with
      | .ok p => remote.noRoute p.key
      | .error _ => false) = true := by decide +kernel
    rw [hp] at h; exact h

theorem witness_TrapsByEvents_budget : ∃ (s : State) (c : Cohort) (g : Group) (r : TrapRec), s.cohort? c.id = some c ∧ c.groups[0]? = some g ∧ g.trap = some r ∧
    (∃ x ∈ g.splits, x.live = true ∧ x.handler = true) ∧ c.status = .resident ∧ s.stopped c = false ∧ c.isHF = false ∧ bits (s.reg (dieReg c.die 0x0330)) 0 32 ≠ 0 ∧
    g.hcyc ≤ bits (s.reg (dieReg c.die 0x0330)) 0 32 :=
  ⟨handling, (tctx handling).co, (tctx handling).gr, _, by decide +kernel, by decide +kernel, rfl, by decide +kernel, by decide +kernel, by decide +kernel, by decide +kernel,
    by decide +kernel, by decide +kernel⟩

theorem witness_TrapsByEvents_ecc : ∃ (s : State) (c : Cohort) (g : Group), s.canonical = true ∧ s.cohort? c.id = some c ∧ c.groups[0]? = some g ∧ g.trap = none ∧ c.status = .resident ∧
    c.isHF = false := ⟨s0, c0.co, c0.gr, by decide +kernel, by decide +kernel, by decide +kernel, by decide +kernel, by decide +kernel, by decide +kernel⟩

/-- A decrement waits for a Headframe core: its page is there now, or is not. -/
theorem witness_TrapsByEvents_agent : ∃ (s u : State) (w x : AgentWait), s.canonical = true ∧ s.waits[0]? = some w ∧ w.root = .hf ∧ (∀ k, w.act ≠ .walker k) ∧ w.act = .decr 0x10400 ∧
    s.agentXlate .hf 0x10400 .write = .ok 0x10400 ∧ u.canonical = true ∧ u.waits[0]? = some x ∧ x.root = .hf ∧ x.act = .decr 0x40000000 ∧
    u.agentXlate .hf 0x40000000 .write = .error 3 :=
  ⟨{ s0 with waits := [{ act := .decr 0x10400, root := .hf, va := 0x10400, code := 3 }] }, { s0 with waits := [{ act := .decr 0x40000000, root := .hf, va := 0x40000000, code := 3 }] },
    { act := .decr 0x10400, root := .hf, va := 0x10400, code := 3 }, { act := .decr 0x40000000, root := .hf, va := 0x40000000, code := 3 }, by decide +kernel, rfl, rfl,
    (fun k h => by cases h), rfl, okIs_of (by decide +kernel), by decide +kernel, rfl, rfl, rfl, rfl⟩

/-! ### Witnesses: registers, the Loupe, the host, links, power (07, 13, 23, 25) -/

/-- A write that changes bank 63 alone, from CACHE or SCRATCH, as the cluster's banks are after reset. -/
theorem witness_ConfigurationRegisters_bank : ∃ (s : State) (v w : BitVec 64), s.canonical = true ∧ (s.cluster 63).change = [] ∧ bits v (2 * 31) 2 ≠ s.bankMode 63 (32 + 31) ∧
    (∀ j, j < 32 → j ≠ 31 → bits v (2 * j) 2 = s.bankMode 63 (32 + j)) ∧ BankRefuses s 63 (32 + 31) (bits v (2 * 31) 2) ∧
    bits w (2 * 31) 2 ≠ s.bankMode 63 (32 + 31) ∧ (∀ j, j < 32 → j ≠ 31 → bits w (2 * j) 2 = s.bankMode 63 (32 + j)) ∧ ¬ BankRefuses s 63 (32 + 31) (bits w (2 * 31) 2) :=
  ⟨s0, 0xD555555555555555, 0x9555555555555555, by decide +kernel, by decide +kernel, by decide +kernel, by decide +kernel, by unfold BankRefuses; decide +kernel, by decide +kernel,
    by decide +kernel, by unfold BankRefuses; decide +kernel⟩

/-- A last range of 16 ways that is allowed, and one whose end is below its base. -/
theorem witness_ConfigurationRegisters_ranges : ∃ (s : State), s.canonical = true ∧
    ((0x000000FFFFFFF085#64 &&& 0x000000FFFFFFFFFF#64).getLsbD 0 = true ∧ ∀ i, i < 16 → i ≠ 15 → (s.reg (dieReg 3 (0x0108 + 16 * i))).getLsbD 0 = false) ∧
    bits (0xFFF081#64) 3 5 = 16 ∧ RangesRefuse s 3 15 0x89#64 := by
  refine ⟨s0.setReg (dieReg 3 0x01F0) 0x1000, by decide +kernel, by decide +kernel, by decide +kernel, .inl ⟨15, ⟨by decide, by decide⟩, .inl (by decide +kernel)⟩⟩

/-- Queue bounds: 512 in all, and one more; a bound above its limit. -/
theorem witness_ConfigurationRegisters_queues : ∃ (s : State) (v w u : BitVec 64), s.canonical = true ∧
    ((List.range 5).map fun i => bits (if i = 4 then v &&& 0x0000000001FF01FF#64 else s.reg (cellReg 511 (8 * i))) 0 9).sum = 512 ∧ ¬ bits v 16 9 < bits v 0 9 ∧
    ((List.range 5).map fun i => bits (if i = 4 then w &&& 0x0000000001FF01FF#64 else s.reg (cellReg 511 (8 * i))) 0 9).sum = 513 ∧ bits u 16 9 < bits u 0 9 :=
  ⟨s0, 0x1400140, 0x1410141, 0x20003, by decide +kernel, by decide +kernel, by decide, by decide +kernel, by decide⟩

/-- A watchpoint of 2^20 bytes that is aligned, and one that is not. -/
theorem witness_ConfigurationRegisters_watch : ∃ (s : State) (a b c : BitVec 64), s.canonical = true ∧ ¬ WatchRefuses a c ∧ c.getLsbD 0 = true ∧ WatchRefuses b c :=
  ⟨s0, 0x100000, 0x180000, 0x511, by decide +kernel, by unfold WatchRefuses; decide, by decide, by unfold WatchRefuses; decide⟩

theorem witness_ConfigurationRegisters_logs : ∃ (s u : State), s.canonical = true ∧ LogsFit s 3 ∧ u.canonical = true ∧ bits (u.reg (dieReg 3 0x0420)) 0 8 ≠ 0 ∧
    0x1000#64 ≠ u.reg (dieReg 3 0x0400) ∧ bits (0x1001#64) 0 56 % 4096 ≠ 0 ∧ bits (127#64) 0 32 < 128 ∧ (2#64).getLsbD 1 = true :=
  ⟨s0, s0.setReg (dieReg 3 0x0420) 1, by decide +kernel, by unfold LogsFit; decide +kernel, by decide +kernel, by decide +kernel, by decide +kernel, by decide, by decide, by decide⟩

/-- Of the registers that keep what is written, the PF's BAR0 reaches those below 64 MiB; a device's BAR0 only its page. -/
theorem witness_ConfigurationRegisters_plain : ∃ (s u : State), s.canonical = true ∧ s.power = true ∧ (∀ e ∈ plainRegs, Reaches .adit e.1) ∧ Reaches (.host 0) 0x0F00 ∧
    (bits (2600#64) 0 12 = 2600 ∧ bits (2601#64) 0 12 = 2601) ∧ (u.canonical = true ∧ u.power = true ∧ (u.reg 0x0008).getLsbD 63 = true) ∧
    (0 < 16 ∧ (0x1_0FFC < 0x1_0000 + 0x1000 * 16)) :=
  ⟨s0, s0.setReg 0x0008 0x8000000000000000, by decide +kernel, by decide +kernel, fun _ _ => .inr (.inl rfl), .inr (.inr ⟨rfl, by decide⟩), by decide, by decide +kernel, by decide⟩

/-- A Loupe that has stopped its cluster, or enabled its traps; the group's HALT and trap, and its splits' wait. -/
def louped (ctl : BitVec 64) (tr : Option TrapRec) (w : Wait) : State :=
  ((tstate id fun g => onSplit (fun x => { x with wait := w }) { g with halt := true, trap := tr }).setReg (cluReg 0 0x0488) 1).setReg (cluReg 0 0x0480) ctl

theorem onCluster_of {s : State} {k : Nat} {c : Cohort} (h : (decide (s.cohorts = [c]) && decide (s.clusterOf c = some k) && decide (c.status = .resident)) = true) :
    OnCluster s k c := by
  simp only [Bool.and_eq_true, decide_eq_true_eq] at h
  obtain ⟨⟨h1, h2⟩, h3⟩ := h
  exact ⟨by rw [h1]; exact List.mem_singleton.mpr rfl, fun d hd _ => by rw [h1] at hd; exact List.mem_singleton.mp hd, h2, h3⟩

theorem notHandles_of {c : Cohort} (h : (c.groups.all fun g => g.splits.all fun x => !(x.live && x.handler)) = true) : ¬ Handles c := by
  rintro ⟨g, hg, x, hx, h1, h2⟩
  have := List.all_eq_true.mp (List.all_eq_true.mp h g hg) x hx
  rw [h1, h2] at this
  cases this

theorem witness_LoupeControl_stop : ∃ (s : State) (c : Cohort), s.canonical = true ∧ OnCluster s 0 c := ⟨s0, c0.co, by decide +kernel, onCluster_of (by decide +kernel)⟩

def breakRec : TrapRec := { code := 18, split := 0, pc := 65536, pos := 0, rpc := 65540, rpos := 0 }

theorem witness_LoupeControl_go : ∃ (s : State) (c : Cohort), s.canonical = true ∧ s.cohorts = [c] ∧ OnCluster s 0 c ∧ ¬ Handles c ∧
    (c.groups.all fun g => g.pend.isNone && g.queued.isEmpty && g.trap.elim true fun r => r.code == 18 || r.code == 19 || r.code == 20) = true ∧ c.groups.any (fun g => g.trap.isSome) = true :=
  ⟨louped 1 (some breakRec) .none, (tctx (louped 1 (some breakRec) .none)).co, by decide +kernel, by decide +kernel, onCluster_of (by decide +kernel), notHandles_of (by decide +kernel),
    by decide +kernel, by decide +kernel⟩

theorem witness_LoupeControl_save : ∃ (s u : State) (c : Cohort), (s.reg (cluReg 0 0x0488)).getLsbD 0 = true ∧ OnCluster s 0 c ∧ bit c.hdr 3 = false ∧
    (u.reg (cluReg 0 0x0488)).getLsbD 0 = false :=
  ⟨louped 0 none .none, s0, (tctx (louped 0 none .none)).co, by decide +kernel, onCluster_of (by decide +kernel), by decide +kernel, by decide +kernel⟩

/-- The value that steps slot 0 of cell 0, with a ready split, and with none. -/
theorem witness_LoupeControl_step : ∀ w : Wait, w ∈ [.none, .join] → ∃ (s : State) (c : Cohort) (g : Group) (x : Split) (rest : List Split), s.canonical = true ∧
    (0x200#64).getLsbD 9 = true ∧ (s.reg (cluReg 0 0x0488)).getLsbD 0 = true ∧ (s.reg (cluReg 0 0x0480)).getLsbD 0 = true ∧ s.cohorts = [c] ∧ OnCluster s 0 c ∧
    s.pcell c.lcell = 8 * 0 + bits (0x200#64) 0 3 ∧ c.groups = [g] ∧ g.slot = bits (0x200#64) 3 6 ∧ g.fin = false ∧ ¬ Handles c ∧ g.pend = none ∧ g.trap = none ∧
    g.splits = x :: rest ∧ x.live = true ∧ x.wait = w ∧ x.pauseEnd ≤ max (s.cluster 0).stopAt c.since ∧ (s.cell (s.pcell c.lcell)).lls = 0 ∧ ∀ y ∈ rest, y.live = false := by
  intro w hw
  have hm : w = .none ∨ w = .join := by simpa using hw
  refine ⟨louped 1 none w, (tctx (louped 1 none w)).co, (tctx (louped 1 none w)).gr, (tctx (louped 1 none w)).sp, [{}, {}, {}], ?_, by decide, ?_, ?_, ?_, onCluster_of ?_, ?_, ?_, ?_, ?_,
    notHandles_of ?_, ?_, ?_, ?_, ?_, ?_, ?_, ?_, ?_⟩ <;> rcases hm with rfl | rfl <;> decide +kernel

/-- Slot 15 of the device 15's page names an empty chain; its window starts at 2^30 − 64; device 15 is under the PF's root. -/
def hosted (en : Bool) : State :=
  let s := ((s0.setReg (page 16 0x1F0) (if en then 0x8000000000010400 else 0x10400)).setReg (page 0 0x1F0) (if en then 0x8000000000010400 else 0x10400)).setReg (page 0 0x30) 0x3FFFFFC0
  { s with waits := [] }

theorem witness_HostAndMigration_append : ∃ (s u : State) (kc ke : Nat), s.canonical = true ∧ s.power = true ∧ (s.reg (page 0 (0x100 + 16 * 15))).getLsbD 63 = false ∧
    u.canonical = true ∧ u.power = true ∧ (u.reg (page 0 (0x100 + 16 * 15))).getLsbD 63 = true ∧ bits (u.reg (page 0 (0x100 + 16 * 15))) 0 56 % 64 = 0 ∧ u.waits = [] ∧
    fnXlate u 0 (bits (u.reg (page 0 (0x100 + 16 * 15))) 0 56) .write = .ok kc ∧ fnXlate u 0 0x10440 .write = .ok ke ∧ kc + 64 ≤ ke ∧ TrackOff u (u.vdTag .hf) ∧ isRemoteKey kc = false ∧ u.homeRead kc 7 = 0 ∧
    u.homeRead (kc + 32) 7 = 0 ∧ u.chains = [] ∧ SlotNames u 0 15 kc ∧ ∀ g i, i < 16 → 16 * g + i < 16 * 0 + 15 → ¬ SlotNames u g i kc :=
  ⟨hosted false, hosted true, 0x10400, 0x10440, by decide +kernel, by decide +kernel, by decide +kernel, by decide +kernel, by decide +kernel, (by decide +kernel), by decide +kernel,
    rfl, okIs_of (by decide +kernel), okIs_of (by decide +kernel), by decide, .inl (by decide +kernel), by decide, by decide +kernel, by decide +kernel, rfl, ⟨by decide +kernel, okIs_of (by decide +kernel)⟩,
    fun g i hi h hn => by
      obtain rfl : g = 0 := by omega
      have hb : (((hosted true).reg (fnReg 0 (0x100 + 16 * i))).getLsbD 63) = false :=
        (by decide +kernel : ∀ i, i < 15 → ((hosted true).reg (fnReg 0 (0x100 + 16 * i))).getLsbD 63 = false) i (by omega)
      exact absurd hn.1 (by rw [hb]; decide)⟩

theorem witness_HostAndMigration_window : ∃ (s : State), s.canonical = true ∧ s.power = true ∧ (∀ i, i < 64 → ∃ key, fnXlate s 0 ((s.reg (page 0 0x30)).toNat + 0 + i) .read = .ok key) ∧
    fnXlate s 0 ((s.reg (page 0 0x30)).toNat + 64) .read = .error 3 ∧ ((s.reg (page 0 0x30)).toNat + 0) % 128 + 64 ≤ 128 ∧ TrackOff s (s.vdTag .hf) ∧
    (∃ key, fnXlate s 0 ((s.reg (page 0 0x30)).toNat + 0) .write = .ok key) ∧ fnXlate s 0 ((s.reg (page 0 0x30)).toNat + 64) .write = .error 3 :=
  ⟨hosted true, by decide +kernel, by decide +kernel, fun i hi => ok_of ((by decide +kernel : ∀ i, i < 64 → okB (fnXlate (hosted true) 0 (((hosted true).reg (page 0 0x30)).toNat + 0 + i) .read) = true) i hi),
    rfl, by decide +kernel, .inl (by decide +kernel), ok_of (by decide +kernel), rfl⟩

/-- Device 15's cohort, resident or saved; its stop is asked for or not; the record's page is at 1 MiB. -/
def migrating (busy : Bool) (st : Status) : State :=
  let s := tstate (fun c => { c with root := .vd 15, status := st }) id
  (s.setReg 0x0C40 (if busy then 0x800000000000000F else 0)).setReg 0x0C48 0x100000

theorem witness_HostAndMigration_stop : ∃ (s u : State) (c : Cohort), s.canonical = true ∧ (s.reg 0x0C40).getLsbD 63 = true ∧ u.canonical = true ∧ (u.reg 0x0C40).getLsbD 63 = false ∧
    c ∈ u.cohorts ∧ c.root = .vd 15 ∧ c.isHF = false ∧ c.status = .resident ∧ bit c.hdr 3 = false :=
  ⟨migrating true .resident, migrating false .resident, (tctx (migrating false .resident)).co, by decide +kernel, by decide +kernel, by decide +kernel, by decide +kernel, by decide +kernel,
    (by decide +kernel), by decide +kernel, by decide +kernel, by decide +kernel⟩

theorem witness_HostAndMigration_done : ∃ (s u : State), s.canonical = true ∧ (s.reg 0x0C40).getLsbD 63 = true ∧ bits (s.reg 0x0C40) 0 4 = 15 ∧
    (s.cohorts.any fun c => decide (c.root = .vd 15) && !c.isHF && decide (c.status = .resident)) = true ∧ u.canonical = true ∧ (u.reg 0x0C40).getLsbD 63 = true ∧
    bits (u.reg 0x0C40) 0 4 = 15 ∧ (u.cohorts.all fun c => decide (c.status = .saved 6 none)) = true ∧ ∀ k, k < 64 → (u.cluster k).lines = [] :=
  ⟨migrating true .resident, migrating true (.saved 6 none), by decide +kernel, by decide +kernel, by decide +kernel, by decide +kernel, by decide +kernel, (by decide +kernel),
    by decide +kernel, by decide +kernel, by decide +kernel⟩

/-- A record of device 15 with no command and no cohort; and none. -/
theorem witness_HostAndMigration_resume : ∃ (s u : State), s.canonical = true ∧ (s.reg 0x0C40).getLsbD 63 = false ∧ s.homeRead (migBase s + 8) 8 = 0 ∧ s.homeRead (migBase s + 16) 8 = 0 ∧
    s.homeRead (migBase s) 1 = 1 ∧ s.homeRead (migBase s + 1) 1 % 16 = 15 ∧ s.homeRead (migBase s) 8 / 2 ^ 12 = 0 ∧
    s.homeRead (migBase s + 0x18) 8 = 0 ∧ (∀ j, j < 16 → s.homeRead (migBase s + 0x20 + 32 * j) 8 / 2 ^ 62 = 0 ∧ s.homeRead (migBase s + 0x38 + 32 * j) 8 = 0) ∧ u.canonical = true ∧ (u.reg 0x0C40).getLsbD 63 = false ∧ u.homeRead (migBase u + 8) 8 = 0 ∧ u.homeRead (migBase u + 16) 8 = 0 ∧ u.homeRead (migBase u) 1 ≠ 1 :=
  ⟨(migrating false (.saved 6 none)).homeWrite 0x100000 [1, 15] 0, migrating false (.saved 6 none), by decide +kernel, by decide +kernel, by decide +kernel, by decide +kernel⟩

/-- Port 17 is down; it is up; it is up with its spare lane used. -/
theorem witness_LinksAndRepair_ports : ∀ v : BitVec 64, v ∈ [0, 1, 3] → ∃ (s : State), s.canonical = true ∧ s.reg (port 17) = v := by
  intro v hv
  have hm : v = 0 ∨ v = 1 ∨ v = 3 := by simpa using hv
  refine ⟨s0.setReg (port 17) v, ?_, ?_⟩ <;> rcases hm with rfl | rfl | rfl <;> decide +kernel

/-- Cell 511 is fenced. -/
def fencedOne : State := { s0 with lmap := List.range 511, fenced := [511] }

theorem noRepair (k n : Nat) : NoRepair s0 k n := fun r hr _ => (List.not_mem_nil (show r ∈ [] from hr)).elim

theorem witness_LinksAndRepair_repairs : ∃ (s u : State), s.canonical = true ∧ u.canonical = true ∧ Repairable s (.cellFence 511) 0 511 ∧ Repairable s (.sliceSpare 2047) 1 2047 ∧
    Repairable u (.cellFenceLift 511) 3 511 ∧ Repairable s (.linkLaneRepair (16 * 17 + 8)) 4 (16 * 17 + 8) := by
  refine ⟨s0, fencedOne, by decide +kernel, by decide +kernel, ⟨⟨by decide, .inl ⟨rfl, rfl, by decide +kernel, noRepair 0 511⟩⟩, .inr (by decide +kernel)⟩,
    ⟨⟨by decide, .inr (.inl ⟨rfl, rfl, by decide⟩)⟩, .inr (by decide +kernel)⟩,
    ⟨⟨by decide, .inr (.inr (.inr (.inl ⟨rfl, rfl, by decide +kernel, fun r h => noRepair 3 511 r h⟩)))⟩, .inl rfl⟩,
    ⟨⟨by decide, .inr (.inr (.inr (.inr ⟨rfl, rfl, by decide, by decide⟩)))⟩, .inr (by decide +kernel)⟩⟩

/-- A channel is taken over while the reserved capacity, whose size is free, lasts. -/
theorem witness_LinksAndRepair_channel : ∃ (s : State), s.canonical = true ∧ (0 < Config.channelSpares → Repairable s (.hbmChannelSpare 127) 2 127) :=
  ⟨s0, by decide +kernel, fun h => ⟨⟨by decide, .inr (.inr (.inl ⟨rfl, rfl, by decide⟩))⟩, .inr (Nat.lt_of_le_of_lt (Nat.le_of_eq (by decide +kernel)) h)⟩⟩

/-- Every logical cell but one is about to be fenced; the 16 slice spares of die 3 are used; port 17 has used its spare lane. -/
def spent : State := { s0.setReg (port 17) 2 with spares := (List.range 16).map fun i => 1536 + i, lmap := [511, 510], repairs := [{ kind := 0, index := 510 }] }

theorem witness_LinksAndRepair_spent : ∃ (s : State), s.canonical = true ∧ Spent s (.cellFence 511) 0 511 ∧ Spent s (.sliceSpare 2047) 1 2047 ∧
    Spent s (.linkLaneRepair (16 * 17 + 8)) 4 (16 * 17 + 8) :=
  ⟨spent, by decide +kernel,
    ⟨⟨by decide, .inl ⟨rfl, rfl, by decide, fun r hr _ => by
      obtain rfl : r = { kind := 0, index := 510 } := List.mem_singleton.mp hr
      decide⟩⟩, by decide +kernel⟩,
    ⟨⟨by decide, .inr (.inl ⟨rfl, rfl, by decide⟩)⟩, by decide +kernel⟩, ⟨⟨by decide, .inr (.inr (.inr (.inr ⟨rfl, rfl, by decide, by decide⟩)))⟩, by decide +kernel⟩⟩

theorem witness_LinksAndRepair_channels_spent : ∃ (s : State), s.canonical = true ∧ Spent s (.hbmChannelSpare 127) 2 127 :=
  ⟨{ s0 with channels := List.replicate Config.channelSpares 0 }, (by decide +kernel : s0.canonical = true), ⟨by decide, .inr (.inr (.inl ⟨rfl, rfl, by decide⟩))⟩, by decide,
    Nat.le_add_right_of_le (Nat.le_of_eq List.length_replicate.symm)⟩

theorem witness_LinksAndRepair_done : ∀ k : Nat, k < 5 → ∃ (s : State) (r : Repair), s.canonical = true ∧ s.repairs = [r] ∧ r.index < 4096 ∧ s.launches = [] ∧ s.cohorts = [] ∧ r.kind = k ∧
    r.index < 288 := by
  intro k hk
  refine ⟨{ fencedOne with repairs := [{ kind := k, index := 287 }], launches := [], cohorts := [] }, { kind := k, index := 287 }, ?_, rfl, (by decide : 287 < 4096), rfl, rfl, rfl, (by decide : 287 < 288)⟩
  have : fencedOne.canonical = true := by decide +kernel
  simp only [State.canonical] at this ⊢
  simp only [Bool.and_eq_true] at this ⊢
  exact ⟨this.1, by decide⟩

theorem witness_BootAndAdit_power : ∀ p : Bool, ∃ (s : State), s.canonical = true ∧ s.power = p ∧ s.chunks = none := by
  intro p
  refine ⟨{ s0 with power := p }, ?_, rfl, (by decide +kernel : s0.chunks = none)⟩
  cases p <;> decide +kernel

theorem witness_BootAndAdit_chunks : ∃ (s : State) (bs : List (BitVec 8)), s.canonical = true ∧ s.power = true ∧ s.chunks = some (bs, 1, 0) :=
  ⟨{ s0 with chunks := some ([1, 2], 1, 0) }, [1, 2], by decide +kernel, by decide +kernel, rfl⟩

theorem witness_BootAndAdit_recovery : ∃ (s u : State), s.canonical = true ∧ s.power = true ∧ bits (s.reg 0x0E00) 0 4 = 3 ∧ u.canonical = true ∧ bits (u.reg 0x0E00) 0 4 ≠ 3 :=
  ⟨s0.setReg 0x0E00 3, s0.setReg 0x0E00 2, by decide +kernel, by decide +kernel, by decide +kernel, by decide +kernel, by decide +kernel⟩

/-- The last page at which a report ends in the HBM region. -/
theorem witness_BootAndAdit_report : ∃ (s u : State) (v w : BitVec 64), (u.reg 0x0E10).getLsbD 63 = true ∧ s.canonical = true ∧ (s.reg 0x0E10).getLsbD 63 = false ∧ v.getLsbD 63 = true ∧ bits v 12 44 * 4096 + 8 * 4096 = 0x59_682F_0000 ∧ w.getLsbD 63 = false :=
  ⟨s0, s0.setReg 0x0E10 0x8000000000000000, 0x80000059682E8000, 0, by decide +kernel, by decide +kernel, by decide +kernel, by decide, by decide, by decide⟩

/-! ### Witnesses: traps, steps, words -/

/-- A cohort with a handler, or none; its group halted or not; a full stack, or an empty one. -/
def trapping (tvec : Word) (halt full : Bool) : State :=
  let e : StackEntry := { kind := .join, owner := none, mask := 0xFFFFFFFF, pos := 0, pc := 70000 }
  tstate (fun c => { c with tvec := tvec }) fun g => { g with halt := halt, stack := if full then List.replicate 64 e else [] }

theorem witness_TrapsAreTaken_taken : ∃ (s : State) (c : Ctx) (tr : Trap), s.ctx? = some c ∧ c.sp.windows = [] ∧ tr.after = false ∧ c.sp.handler = false ∧ c.gr.halt = false ∧
    tr.code ∉ [3, 4, 17, 18, 19, 20, 21] ∧ c.co.tvec ≠ 0 ∧ c.gr.stack.length < 64 :=
  ⟨trapping 4 false false, tctx (trapping 4 false false), { code := 1 }, by decide +kernel, by decide +kernel, rfl, by decide +kernel, by decide +kernel, by decide, by decide +kernel,
    by decide +kernel⟩

theorem witness_TrapsAreTaken_pending : ∃ (s : State) (c : Ctx) (tr : Trap), s.ctx? = some c ∧ tr.after = false ∧ c.sp.handler = false ∧ c.gr.halt = true ∧
    c.gr.stepped = false ∧ c.gr.pend = none ∧ tr.code ∉ [18, 19, 20] ∧ s.stopped c.co = false :=
  ⟨trapping 4 true false, tctx (trapping 4 true false), { code := 3 }, by decide +kernel, rfl, by decide +kernel⟩

theorem witness_TrapsEscalate_causes : ∃ (s u v : State) (c d e : Ctx), s.ctx? = some c ∧ c.sp.handler = false ∧ c.gr.halt = false ∧ (3 ∈ [3, 4, 17, 21]) ∧
    (u.ctx? = some d ∧ d.sp.handler = false ∧ d.gr.halt = false ∧ 1 ∉ [3, 4, 17, 21] ∧ d.co.tvec = 0) ∧
    v.ctx? = some e ∧ e.sp.handler = false ∧ e.gr.halt = false ∧ e.co.tvec ≠ 0 ∧ 64 ≤ e.gr.stack.length :=
  ⟨trapping 4 false false, trapping 0 false false, trapping 4 false true, tctx (trapping 4 false false), tctx (trapping 0 false false), tctx (trapping 4 false true), by decide +kernel,
    by decide +kernel, by decide +kernel, by decide, by decide +kernel, (by decide +kernel), by decide +kernel, by decide +kernel, by decide +kernel, by decide +kernel⟩

theorem witness_TrapsEscalate_handler : ∃ (s : State) (c : Ctx) (r : TrapRec), s.ctx? = some c ∧ c.sp.handler = true ∧ c.gr.trap = some r :=
  ⟨handling, tctx handling, _, by decide +kernel, by decide +kernel, rfl⟩

/-- What a fetch gives, as a check. -/
def fetchedB (f : Fetched) (w : Option Nat) : Bool := match f, w with
  | .word x, some w => x == w
  | .fault _, none => true
  | _, _ => false

theorem fetched_word {f : Fetched} {w : Nat} (h : fetchedB f (some w) = true) : f = .word w := by
  cases f <;> simp [fetchedB] at h
  rw [h]

theorem fetched_fault {f : Fetched} (h : fetchedB f none = true) : ∃ e, f = .fault e := by
  cases f <;> simp [fetchedB] at h
  exact ⟨_, rfl⟩

def c1 (s : State) : Ctx := (s.ctxOf ⟨0, 0, 0⟩).getD c0
def loaded (w : Nat) : State := State.reset.withFetchWord 32 w

theorem witness_StepRunsDecodedWord_word : ∃ (s u : State) (c d : Ctx) (i : Instr) (e : DecodeError), s.agenda = [] ∧ s.pick = some ⟨0, 0, 0⟩ ∧ s.ready ⟨0, 0, 0⟩ = true ∧ s.ctxOf ⟨0, 0, 0⟩ = some c ∧
    s.nextWord c = .word 0 ∧ decode 0 = .ok i ∧ u.agenda = [] ∧ u.pick = some ⟨0, 0, 0⟩ ∧ u.ready ⟨0, 0, 0⟩ = true ∧ u.ctxOf ⟨0, 0, 0⟩ = some d ∧
    u.nextWord d = .word 0x7FFFFFFF ∧ decode 0x7FFFFFFF = .error e := by
  have h1 : okB (decode 0) = true := by decide +kernel
  have h2 : okB (decode 0x7FFFFFFF) = false := by decide +kernel
  obtain ⟨i, hi⟩ := ok_of h1
  cases he : decode 0x7FFFFFFF with
  | ok x => rw [he] at h2; cases h2
  | error e =>
    exact ⟨loaded 0, loaded 0x7FFFFFFF, c1 (loaded 0), c1 (loaded 0x7FFFFFFF), i, e, by decide +kernel, by decide +kernel, by decide +kernel, by decide +kernel,
      fetched_word (by decide +kernel), hi, by decide +kernel, by decide +kernel, by decide +kernel, by decide +kernel, fetched_word (by decide +kernel), rfl⟩

/-- The split that is picked stands where no page is. -/
def lost : State := { astray with pick := some ⟨0, 0, 0⟩, focus := none }

theorem witness_StepRunsDecodedWord_fault : ∃ (s : State) (c : Ctx) (e : Code), s.agenda = [] ∧ s.pick = some ⟨0, 0, 0⟩ ∧ s.ready ⟨0, 0, 0⟩ = true ∧ s.ctxOf ⟨0, 0, 0⟩ = some c ∧ s.nextWord c = .fault e := by
  obtain ⟨e, he⟩ := fetched_fault (f := lost.nextWord (c1 lost)) (by decide +kernel)
  exact ⟨lost, c1 lost, e, by decide +kernel, by decide +kernel, by decide +kernel, by decide +kernel, he⟩

/-- The split that is picked stands at a code that may not issue. -/
def coded : State := { tstate id (onSplit fun x => { x with codes := [0x80000000] }) with agenda := [], pick := some ⟨0, 0, 0⟩, focus := none }

theorem witness_StepRunsDecodedWord_trap : ∃ (s : State) (c : Ctx) (x : Nat) (tr : Trap), s.agenda = [] ∧ s.pick = some ⟨0, 0, 0⟩ ∧ s.ready ⟨0, 0, 0⟩ = true ∧
    s.ctxOf ⟨0, 0, 0⟩ = some c ∧ s.nextWord c = .trap x tr :=
  ⟨coded, c1 coded, 0x80000000, { code := 1 }, rfl, rfl, by decide +kernel⟩

theorem witness_StepRunsDecodedWord_fetch : ∃ (s : State) (c : Ctx) (p : Phys), c.sp.codes = [] ∧ c.h.rep = none ∧ c.sp.landed = false ∧ s.bad = [] ∧
    s.laneXlate c.co c.sp.pc.toNat .fetch = .ok p := by
  obtain ⟨p, hp⟩ := ok_of (e := remote.laneXlate (tctx remote).co (tctx remote).sp.pc.toNat .fetch) (by decide +kernel)
  exact ⟨remote, tctx remote, p, by decide +kernel, by decide +kernel, by decide +kernel, rfl, hp⟩

theorem witness_StepRunsDecodedWord_event : ∃ (s : State) (e : Instr) (rest : List Instr), s.agenda = e :: rest ∧ e.isWord = false :=
  ⟨{ s0 with agenda := [.llsUpdate 0] }, .llsUpdate 0, [], rfl, by decide⟩

/-- No dirty line is overdue and no cell is: nothing is dirty and every cell is quiet. -/
theorem witness_StepRunsDecodedWord_inTime : ∃ (s t : State), s.canonical = true ∧
    (∀ k, ∀ l ∈ (s.cluster k).lines, l.isDirty = true → t.time ≤ s.lineDue l) ∧ ∀ n, (s.cell n).quiet = true ∨ t.time ≤ (s.cell n).llsAt + 256 :=
  ⟨s0, s0, by decide +kernel, fun _ _ hl _ => (List.not_mem_nil hl).elim, fun _ => .inl rfl⟩

/-- The Loupe stepped the cohort's one group, and it has gone. -/
def steppedOne : State := tstate id fun g => { g with stepped := true }
def steppedGone : State := { steppedOne with cohorts := [] }

theorem witness_StepRunsDecodedWord_gone : ∃ (u t : State) (c : Cohort) (k : Nat) (g : Group), t.canonical = true ∧ t.group? 0 0 = none ∧ u.cohort? 0 = some c ∧
    u.clusterOf c = some k ∧ u.group? 0 0 = some g ∧ g.stepped = true :=
  ⟨steppedOne, steppedGone, (tctx steppedOne).co, 0, (tctx steppedOne).gr, by decide +kernel, by decide +kernel, by decide +kernel, by decide +kernel, by decide +kernel, by decide +kernel⟩

theorem witness_StepRunsDecodedWord_unstepped : ∃ (t : State), ∀ g, t.group? 0 0 = some g → g.stepped = false :=
  ⟨s0, fun g hg => by
    have h : (s0.group? 0 0).map (fun g => g.stepped) = some false := by decide +kernel
    rw [hg] at h; exact Option.some.inj h⟩

theorem witness_DecodeOfEncode : ∃ i : Instr, i.isWord = true ∧ i.wf = true := ⟨.iadd ⟨7, 127, 127, 127⟩, by decide, by decide⟩

theorem witness_EncodeOfDecode : ∃ (w : Nat) (i : Instr), w < 2 ^ 32 ∧ decode w = .ok i := by
  obtain ⟨i, hi⟩ := ok_of (e := decode 0xFFFFFFFF) (by decide +kernel)
  exact ⟨0xFFFFFFFF, i, by decide, hi⟩

/-- A step answers a next state. -/
theorem witness_StepKeepsCanonical : ∃ (s t : State), s.canonical = true ∧ step s = .next t := by
  have h : (match step (loaded 0) with | .next _ => true | _ => false) = true := by decide +kernel
  split at h
  · rename_i t ht; exact ⟨loaded 0, t, by decide +kernel, ht⟩
  · cases h

theorem witness_FloatRoundTrip : ∃ x y : Nat, F32.value x ≠ .nan ∧ F32.value y = .nan := ⟨0x7F7FFFFF, 0x7F800001, by decide +kernel, by decide +kernel⟩

/-- Device 15's root is enabled, and device 0's is not; a page of the PF's table. -/
theorem witness_TranslationWalk : ∃ (s : State) (p : Phys), BitVec.getLsbD (Sparse.get 0 s.roots 15) 0 = true ∧ BitVec.getLsbD (Sparse.get 0 s.roots 0) 0 = false ∧
    s.xlate [] .hf 0x3FFFFFFF .fetch false = .ok p := by
  obtain ⟨p, hp⟩ := ok_of (e := ({ s0 with roots := [(15, 1)] } : State).xlate [] .hf 0x3FFFFFFF .fetch false) (by decide +kernel)
  exact ⟨{ s0 with roots := [(15, 1)] }, p, by decide +kernel, by decide +kernel, hp⟩

/-- Each word decodes to the instruction beside it. -/
noncomputable def decodesB (l : List (Nat × Instr)) : Bool := l.all fun p => match decode p.1 with
  | .ok i => i == p.2
  | .error _ => false

theorem test_decode_three_operand_1 : decodesB [
  (0x015C14C8, .iadd ⟨0x5, 0x38, 0x14, 0x64⟩), (0x015C14C9, .isub ⟨0x5, 0x38, 0x14, 0x64⟩),
  (0x035C14C8, .imulLo ⟨0x5, 0x38, 0x14, 0x64⟩), (0x035C14C9, .imulHiS ⟨0x5, 0x38, 0x14, 0x64⟩),
  (0x055C14C8, .imac ⟨0x5, 0x38, 0x14, 0x64⟩), (0x055C14C9, .iabd ⟨0x5, 0x38, 0x14, 0x64⟩),
  (0x075C14C8, .iminS ⟨0x5, 0x38, 0x14, 0x64⟩), (0x075C14C9, .imaxS ⟨0x5, 0x38, 0x14, 0x64⟩),
  (0x095C14C8, .iminN ⟨0x5, 0x38, 0x14, 0x64⟩), (0x095C14C9, .imaxN ⟨0x5, 0x38, 0x14, 0x64⟩),
  (0x0B5C14C8, .and ⟨0x5, 0x38, 0x14, 0x64⟩), (0x0B5C14C9, .or ⟨0x5, 0x38, 0x14, 0x64⟩),
  (0x0D5C14C8, .xor ⟨0x5, 0x38, 0x14, 0x64⟩), (0x0D5C14C9, .andn ⟨0x5, 0x38, 0x14, 0x64⟩),
  (0x0F5C14C8, .shl ⟨0x5, 0x38, 0x14, 0x64⟩), (0x0F5C14C9, .shr ⟨0x5, 0x38, 0x14, 0x64⟩)] = true := by decide +kernel

theorem test_decode_three_operand_2 : decodesB [
  (0x115C14C8, .sar ⟨0x5, 0x38, 0x14, 0x64⟩), (0x115C14C9, .rot ⟨0x5, 0x38, 0x14, 0x64⟩),
  (0x135C14C8, .fadd ⟨0x5, 0x38, 0x14, 0x64⟩), (0x135C14C9, .fsub ⟨0x5, 0x38, 0x14, 0x64⟩),
  (0x155C14C8, .fmul ⟨0x5, 0x38, 0x14, 0x64⟩), (0x155C14C9, .ffma ⟨0x5, 0x38, 0x14, 0x64⟩),
  (0x175C14C8, .fmin ⟨0x5, 0x38, 0x14, 0x64⟩), (0x175C14C9, .fmax ⟨0x5, 0x38, 0x14, 0x64⟩),
  (0x195C14C8, .haddBf16x2 ⟨0x5, 0x38, 0x14, 0x64⟩), (0x195C14C9, .hmulBf16x2 ⟨0x5, 0x38, 0x14, 0x64⟩),
  (0x1B5C14C8, .hfmaBf16x2 ⟨0x5, 0x38, 0x14, 0x64⟩), (0x1B5C14C9, .hfmaF16x2 ⟨0x5, 0x38, 0x14, 0x64⟩),
  (0x1D5C14C8, .sel ⟨0x5, 0x38, 0x14, 0x64⟩), (0x1D5C14C9, .permB8 ⟨0x5, 0x38, 0x14, 0x64⟩),
  (0x1F5C14C8, .dot4S8 ⟨0x5, 0x38, 0x14, 0x64⟩), (0x1F5C14C9, .dot8S4 ⟨0x5, 0x38, 0x14, 0x64⟩)] = true := by decide +kernel

theorem test_decode_vector_1 : decodesB [
  (0x2153C8E1, .icmpS32 ⟨0x5, 0x2, 0x3, 0x64, 0x38, 0x1⟩), (0x2353C8E1, .icmpN32 ⟨0x5, 0x2, 0x3, 0x64, 0x38, 0x1⟩),
  (0x2553C8E1, .fcmpF32 ⟨0x5, 0x2, 0x3, 0x64, 0x38, 0x1⟩), (0x27530806, .plog 0x5 0x2 0x3 0x4 0x1 0x2),
  (0x295C143D, .iaddi ⟨0x5, 0x38, 0x14, 0x3d⟩), (0x2B5C140B, .shli ⟨0x5, 0x38, 0x14, 0xb⟩),
  (0x2B5C144B, .shri ⟨0x5, 0x38, 0x14, 0xb⟩), (0x2B5C148B, .sari ⟨0x5, 0x38, 0x14, 0xb⟩),
  (0x2B5C14CB, .roti ⟨0x5, 0x38, 0x14, 0xb⟩), (0x2D5C00F1, .movi 0x5 0x38 0xf1),
  (0x2F5C143D, .andi ⟨0x5, 0x38, 0x14, 0x3d⟩), (0x31723884, .cvt 0x5 0x64 0x38 0x8 0x4),
  (0x335C1400, .movB32 ⟨0x5, 0x38, 0x14⟩), (0x335C1401, .notB32 ⟨0x5, 0x38, 0x14⟩),
  (0x335C1402, .inegS32 ⟨0x5, 0x38, 0x14⟩), (0x335C1403, .iabsS32 ⟨0x5, 0x38, 0x14⟩)] = true := by decide +kernel

theorem test_decode_vector_2 : decodesB [
  (0x335C1404, .popcB32 ⟨0x5, 0x38, 0x14⟩), (0x335C1405, .clzB32 ⟨0x5, 0x38, 0x14⟩),
  (0x335C1406, .ctzB32 ⟨0x5, 0x38, 0x14⟩), (0x335C1407, .brevB32 ⟨0x5, 0x38, 0x14⟩),
  (0x335C1408, .fnegF32 ⟨0x5, 0x38, 0x14⟩), (0x335C1409, .fabsF32 ⟨0x5, 0x38, 0x14⟩),
  (0x335C140A, .fintF32 ⟨0x5, 0x38, 0x14⟩), (0x335C1410, .exp2 ⟨0x5, 0x38, 0x14⟩),
  (0x335C1411, .log2 ⟨0x5, 0x38, 0x14⟩), (0x335C1412, .rcp ⟨0x5, 0x38, 0x14⟩),
  (0x335C1413, .rsqrt ⟨0x5, 0x38, 0x14⟩), (0x335C1414, .sqrt ⟨0x5, 0x38, 0x14⟩),
  (0x335C1415, .sinpi ⟨0x5, 0x38, 0x14⟩), (0x335C1416, .cospi ⟨0x5, 0x38, 0x14⟩),
  (0x335C1417, .tanh ⟨0x5, 0x38, 0x14⟩), (0x335C1420, .rngB32 ⟨0x5, 0x38, 0x14⟩)] = true := by decide +kernel

theorem test_decode_vector_3 : decodesB [
  (0x335C1421, .rnguF32 ⟨0x5, 0x38, 0x14⟩), (0x335C1430, .packhBf16x2 ⟨0x5, 0x38, 0x14⟩),
  (0x335C1431, .packhF16x2 ⟨0x5, 0x38, 0x14⟩), (0x335C1432, .unpackhBf16x2 ⟨0x5, 0x38, 0x14⟩),
  (0x335C1433, .unpackhF16x2 ⟨0x5, 0x38, 0x14⟩), (0x355C1430, .iaddVs ⟨0x5, 0x38, 0x14, 0xc⟩),
  (0x355C1431, .imulLoVs ⟨0x5, 0x38, 0x14, 0xc⟩), (0x355C1432, .imulHiN32Vs ⟨0x5, 0x38, 0x14, 0xc⟩),
  (0x355C1433, .iaddwS64 ⟨0x5, 0x38, 0x14, 0xc⟩), (0x375C1430, .faddVs ⟨0x5, 0x38, 0x14, 0xc⟩),
  (0x375C1431, .fsubVs ⟨0x5, 0x38, 0x14, 0xc⟩), (0x375C1432, .fmulVs ⟨0x5, 0x38, 0x14, 0xc⟩),
  (0x375C1433, .ffmaVs ⟨0x5, 0x38, 0x14, 0xc⟩), (0x395C14A2, .lpick ⟨0x5, 0x38, 0x14, 0x5, 0x2⟩),
  (0x395C14A6, .lrot ⟨0x5, 0x38, 0x14, 0x5, 0x2⟩), (0x395C14AA, .lslide ⟨0x5, 0x38, 0x14, 0x5, 0x2⟩)] = true := by decide +kernel

theorem test_decode_vector_4 : decodesB [
  (0x395C14AE, .lflip ⟨0x5, 0x38, 0x14, 0x5, 0x2⟩), (0x395C14B2, .lrev ⟨0x5, 0x38, 0x14, 0x5, 0x2⟩),
  (0x3B5C14A0, .lfoldIaddS32 ⟨0x5, 0x38, 0x14, 0x5⟩), (0x3B5C14A1, .lfoldIminS32 ⟨0x5, 0x38, 0x14, 0x5⟩),
  (0x3B5C14A2, .lfoldImaxS32 ⟨0x5, 0x38, 0x14, 0x5⟩), (0x3B5C14A3, .lfoldFaddF32 ⟨0x5, 0x38, 0x14, 0x5⟩),
  (0x3B5C14A4, .lfoldIminN32 ⟨0x5, 0x38, 0x14, 0x5⟩), (0x3B5C14A5, .lfoldImaxN32 ⟨0x5, 0x38, 0x14, 0x5⟩),
  (0x3B5C14A6, .lfoldFminF32 ⟨0x5, 0x38, 0x14, 0x5⟩), (0x3B5C14A7, .lfoldFmaxF32 ⟨0x5, 0x38, 0x14, 0x5⟩),
  (0x3B5C14A8, .lfoldAndB32 ⟨0x5, 0x38, 0x14, 0x5⟩), (0x3B5C14A9, .lfoldOrB32 ⟨0x5, 0x38, 0x14, 0x5⟩),
  (0x3B5C14AA, .lfoldXorB32 ⟨0x5, 0x38, 0x14, 0x5⟩), (0x3B5C14AC, .lpreIaddS32 ⟨0x5, 0x38, 0x14, 0x5⟩),
  (0x3B5C14AD, .lpreIminS32 ⟨0x5, 0x38, 0x14, 0x5⟩), (0x3B5C14AE, .lpreImaxS32 ⟨0x5, 0x38, 0x14, 0x5⟩)] = true := by decide +kernel

theorem test_decode_vector_5 : decodesB [
  (0x3B5C14AF, .lpreFaddF32 ⟨0x5, 0x38, 0x14, 0x5⟩), (0x3B5C14B0, .lprexIaddS32 ⟨0x5, 0x38, 0x14, 0x5⟩),
  (0x3B5C14B1, .lprexIminS32 ⟨0x5, 0x38, 0x14, 0x5⟩), (0x3B5C14B2, .lprexImaxS32 ⟨0x5, 0x38, 0x14, 0x5⟩),
  (0x3B5C14B3, .lprexFaddF32 ⟨0x5, 0x38, 0x14, 0x5⟩), (0x3B5C03B4, .pmask ⟨0x5, 0x38, 0x3, 0x5⟩),
  (0x3B5C03B5, .pcount ⟨0x5, 0x38, 0x3, 0x5⟩), (0x3B5C03B6, .pfirst ⟨0x5, 0x38, 0x3, 0x5⟩),
  (0x3B5C03B7, .pparity ⟨0x5, 0x38, 0x3, 0x5⟩), (0x3B5C14B8, .lpeersB32 ⟨0x5, 0x38, 0x14, 0x5⟩),
  (0x3B5C14B9, .lpeersB64 ⟨0x5, 0x38, 0x14, 0x5⟩), (0x3B5C14BA, .lrankB32 ⟨0x5, 0x38, 0x14, 0x5⟩),
  (0x3B5C14BB, .lrankB64 ⟨0x5, 0x38, 0x14, 0x5⟩), (0x3B5C14BC, .lsameB32 ⟨0x5, 0x38, 0x14, 0x5⟩),
  (0x3B5C14BD, .lsameB64 ⟨0x5, 0x38, 0x14, 0x5⟩), (0x3D720015, .movsRead 0x5 0x64 0x0 0x15)] = true := by decide +kernel

theorem test_decode_vector_6 : decodesB [
  (0x3F720098, .movsWrite 0x5 0x64 0x0 0x98), (0x3F5C1038, .bcastB32 0x5 0x38 0x38),
  (0x3F5C270B, .rdlaneB32 0x5 0x38 0x38 0xb), (0x3F5C2F00, .rdlaneFirstB32 0x5 0x38 0x38)] = true := by decide +kernel

theorem test_decode_scalar_1 : decodesB [
  (0x402C5380, .sIadd ⟨0x2c, 0x14, 0x38⟩), (0x402C5381, .sIsub ⟨0x2c, 0x14, 0x38⟩),
  (0x402C5382, .sImulLo ⟨0x2c, 0x14, 0x38⟩), (0x402C5383, .sImulHiS ⟨0x2c, 0x14, 0x38⟩),
  (0x402C5384, .sImulHiN ⟨0x2c, 0x14, 0x38⟩), (0x402C5385, .sIminS ⟨0x2c, 0x14, 0x38⟩),
  (0x402C5386, .sImaxS ⟨0x2c, 0x14, 0x38⟩), (0x402C5387, .sIminN ⟨0x2c, 0x14, 0x38⟩),
  (0x402C5388, .sImaxN ⟨0x2c, 0x14, 0x38⟩), (0x402C5389, .sAnd ⟨0x2c, 0x14, 0x38⟩),
  (0x402C538A, .sOr ⟨0x2c, 0x14, 0x38⟩), (0x402C538B, .sXor ⟨0x2c, 0x14, 0x38⟩),
  (0x402C538C, .sAndn ⟨0x2c, 0x14, 0x38⟩), (0x402C538D, .sShl ⟨0x2c, 0x14, 0x38⟩),
  (0x402C538E, .sShr ⟨0x2c, 0x14, 0x38⟩), (0x402C538F, .sSar ⟨0x2c, 0x14, 0x38⟩)] = true := by decide +kernel

theorem test_decode_scalar_2 : decodesB [
  (0x406C5380, .sRot ⟨0x2c, 0x14, 0x38⟩), (0x406C5001, .sPopc ⟨0x2c, 0x14⟩),
  (0x406C5002, .sClz ⟨0x2c, 0x14⟩), (0x406C5003, .sCtz ⟨0x2c, 0x14⟩),
  (0x406C5004, .sBrev ⟨0x2c, 0x14⟩), (0x406C5005, .sNot ⟨0x2c, 0x14⟩),
  (0x406C5388, .sIaddS64 ⟨0x2c, 0x14, 0x38⟩), (0x406C5389, .sIsubS64 ⟨0x2c, 0x14, 0x38⟩),
  (0x40AC5380, .sFadd ⟨0x2c, 0x14, 0x38⟩), (0x40AC5381, .sFsub ⟨0x2c, 0x14, 0x38⟩),
  (0x40AC5382, .sFmul ⟨0x2c, 0x14, 0x38⟩), (0x40AC5383, .sFfma ⟨0x2c, 0x14, 0x38⟩),
  (0x40AC5384, .sFmin ⟨0x2c, 0x14, 0x38⟩), (0x40AC5385, .sFmax ⟨0x2c, 0x14, 0x38⟩),
  (0x40AC5008, .sCvtF32S32 ⟨0x2c, 0x14⟩), (0x40AC5009, .sCvtF32N32 ⟨0x2c, 0x14⟩)] = true := by decide +kernel

theorem test_decode_scalar_3 : decodesB [
  (0x40AC500A, .sCvtS32F32 ⟨0x2c, 0x14⟩), (0x40AC500B, .sCvtN32F32 ⟨0x2c, 0x14⟩),
  (0x462C5385, .sIcmpS32 ⟨0x2c, 0x14, 0x38, 0x5⟩), (0x462C538D, .sIcmpN32 ⟨0x2c, 0x14, 0x38, 0x5⟩),
  (0x466C5385, .sFcmpF32 ⟨0x2c, 0x14, 0x38, 0x5⟩), (0x46AC5380, .csel ⟨0x2c, 0x14, 0x38⟩),
  (0x422C51F1, .sIaddi ⟨0x2c, 0x14, 0x1f1⟩), (0x426C51F1, .sAndi ⟨0x2c, 0x14, 0x1f1⟩),
  (0x42AC51F1, .sOri ⟨0x2c, 0x14, 0x1f1⟩), (0x42EC51F1, .sXori ⟨0x2c, 0x14, 0x1f1⟩),
  (0x432C5013, .sShli ⟨0x2c, 0x14, 0x13⟩), (0x436C5013, .sShri ⟨0x2c, 0x14, 0x13⟩),
  (0x43AC5013, .sSari ⟨0x2c, 0x14, 0x13⟩), (0x43EC0117, .sMovi 0x2c 0x117),
  (0x442C9117, .movwZ ⟨0x2c, 0x9117⟩), (0x446C9117, .movwS ⟨0x2c, 0x9117⟩)] = true := by decide +kernel

theorem test_decode_scalar_4 : decodesB [
  (0x44AC9117, .movwHi ⟨0x2c, 0x9117⟩), (0x44EC9117, .movwLo ⟨0x2c, 0x9117⟩),
  (0x514C9117, .brAny ⟨0x5, 0xc9117⟩), (0x515C9117, .brAll ⟨0x5, 0xc9117⟩),
  (0x516C9117, .brNone ⟨0x5, 0xc9117⟩), (0x517C9117, .brUni ⟨0x5, 0xc9117⟩),
  (0x535499F1, .brs 0x5 0x14 0x99f1), (0x53C09564, .jmp 0x9564),
  (0x54320000, .brx 0x64), (0x54562800, .call 0x2c 0x14),
  (0x54805800, .ret 0x2c)] = true := by decide +kernel

theorem test_decode_control_and_work_1 : decodesB [
  (0x56000000, .join), (0x566DA5A5, .waitj 0x5 0x5a5a5),
  (0x568C9564, .push 0xc9564), (0x56C00000, .pop),
  (0x57000164, .yield 0x164), (0x57400000, .exit),
  (0x58000000, .barc), (0x586C5000, .barpArrive 0x2c 0x14),
  (0x586C5100, .barpSync 0x2c 0x14), (0x586C5200, .barpWait 0x2c 0x14),
  (0x5A2C5000, .spawn 0x2c 0x14), (0x5A2C5010, .spawnU 0x2c 0x14),
  (0x5A2C5020, .launch 0x2c 0x14), (0x5C940C00, .xpand 0x2 0x14 0x3),
  (0x5D400010, .xnext 0x5), (0x5C2C0020, .sred 0x2c)] = true := by decide +kernel

theorem test_decode_control_and_work_2 : decodesB [
  (0x5C2C0036, .sredGet 0x2c 0x6), (0x5E2C0000, .recurse 0x2c),
  (0x5E2C5013, .wkids 0x2c 0x14 0x3), (0x5E000020, .wret),
  (0x615C1463, .ldg ⟨0x5, 0x38, 0x14, 0x1, 0x2, 0x3⟩), (0x635C1460, .stg ⟨0x5, 0x38, 0x14, 0x1, 0x2⟩),
  (0x655C1463, .lds ⟨0x5, 0x38, 0x14, 0x1, 0x2, 0x3⟩), (0x675C1460, .sts ⟨0x5, 0x38, 0x14, 0x1, 0x2⟩)] = true := by decide +kernel

theorem test_decode_memory_1 : decodesB [
  (0x695C1446, .ldc 0x5 0x38 0x14 0x1 0x6), (0x694038E0, .prefClu 0x5 0x38 0x2),
  (0x6940B8E0, .prefHome 0x5 0x38 0x2), (0x6AB23803, .atomAddS32 ⟨0x2, 0x64, 0x38, 0x3⟩),
  (0x6AB23813, .atomFaddF32 ⟨0x2, 0x64, 0x38, 0x3⟩), (0x6AB23823, .atomMinS32 ⟨0x2, 0x64, 0x38, 0x3⟩),
  (0x6AB23833, .atomMaxS32 ⟨0x2, 0x64, 0x38, 0x3⟩), (0x6AB23843, .atomAndB32 ⟨0x2, 0x64, 0x38, 0x3⟩),
  (0x6AB23853, .atomOrB32 ⟨0x2, 0x64, 0x38, 0x3⟩), (0x6AB23863, .atomXchgB32 ⟨0x2, 0x64, 0x38, 0x3⟩),
  (0x6AB23873, .atomCasB32 ⟨0x2, 0x64, 0x38, 0x3⟩), (0x6AB23883, .atomAddN64 ⟨0x2, 0x64, 0x38, 0x3⟩),
  (0x6AB23890, .redAddS32 ⟨0x2, 0x64, 0x38⟩), (0x6AB238A0, .redFaddF32 ⟨0x2, 0x64, 0x38⟩),
  (0x6AB238B0, .redAddN64 ⟨0x2, 0x64, 0x38⟩), (0x6AB238C3, .ldAcqB32 ⟨0x2, 0x64, 0x38, 0x3⟩)] = true := by decide +kernel

theorem test_decode_memory_2 : decodesB [
  (0x6AB238D0, .stRelB32 ⟨0x2, 0x64, 0x38⟩), (0x6AB238E3, .scAddS32 ⟨0x2, 0x64, 0x38, 0x3⟩),
  (0x6AB238F3, .scCasB32 ⟨0x2, 0x64, 0x38, 0x3⟩), (0x6C323803, .atomAddS32Scr ⟨0x64, 0x38, 0x3⟩),
  (0x6C323813, .atomFaddF32Scr ⟨0x64, 0x38, 0x3⟩), (0x6C323823, .atomMinS32Scr ⟨0x64, 0x38, 0x3⟩),
  (0x6C323833, .atomMaxS32Scr ⟨0x64, 0x38, 0x3⟩), (0x6C323843, .atomAndB32Scr ⟨0x64, 0x38, 0x3⟩),
  (0x6C323853, .atomOrB32Scr ⟨0x64, 0x38, 0x3⟩), (0x6C323863, .atomXchgB32Scr ⟨0x64, 0x38, 0x3⟩),
  (0x6C323873, .atomCasB32Scr ⟨0x64, 0x38, 0x3⟩), (0x6C323883, .atomAddN64Scr ⟨0x64, 0x38, 0x3⟩),
  (0x6C323890, .redAddS32Scr ⟨0x64, 0x38⟩), (0x6C3238A0, .redFaddF32Scr ⟨0x64, 0x38⟩),
  (0x6C3238B0, .redAddN64Scr ⟨0x64, 0x38⟩), (0x6C3238C3, .ldAcqB32Scr ⟨0x64, 0x38, 0x3⟩)] = true := by decide +kernel

theorem test_decode_memory_3 : decodesB [
  (0x6C3238D0, .stRelB32Scr ⟨0x64, 0x38⟩), (0x6E800000, .fence 0x2),
  (0x6E864410, .xfence 0x2 0x6 0x11), (0x6F54E020, .watchB32 0x5 0x14 0x38),
  (0x6F54E030, .watchB64 0x5 0x14 0x38), (0x6E000040, .watchCancel),
  (0x6EAC5050, .waitc 0x2 0x2c 0x14)] = true := by decide +kernel

theorem test_decode_engine_and_system_1 : decodesB [
  (0x702C0000, .copy 0x2c), (0x702C0010, .copyZero 0x2c),
  (0x722C0000, .gather 0x2c), (0x722C0010, .scatter 0x2c),
  (0x722C0020, .scatterAdd 0x2c), (0x742C526B, .mloop ⟨0x2c, 0x14, 0x13, 0xb⟩),
  (0x7440B173, .mloopSm 0x2c 0xb 0x13), (0x74AC526B, .mloopPro ⟨0x2c, 0x14, 0x13, 0xb⟩),
  (0x74EC526B, .mloopGrp ⟨0x2c, 0x14, 0x13, 0xb⟩), (0x762C5000, .tidset 0x2c 0x14),
  (0x7754E010, .tidget 0x5 0x14 0x38), (0x76093420, .aalloc 0x9 0xd),
  (0x76093430, .afree 0x9 0xd), (0x766C5043, .agetAcc ⟨0x1, 0x2c, 0x14, 0x3⟩),
  (0x76EC5043, .agetM ⟨0x1, 0x2c, 0x14, 0x3⟩), (0x776C5043, .agetL ⟨0x1, 0x2c, 0x14, 0x3⟩)] = true := by decide +kernel

theorem test_decode_engine_and_system_2 : decodesB [
  (0x762C0050, .fclaim 0x2c), (0x782C5000, .chain 0x2c 0x14),
  (0x78AC5010, .chwait 0x2 0x2c 0x14), (0x7A2C5000, .collAllred 0x2c 0x14),
  (0x7A2C5010, .collRedsc 0x2c 0x14), (0x7A2C5020, .collAllgat 0x2c 0x14),
  (0x7A2C5030, .collBcast 0x2c 0x14), (0x7C2C51F1, .svc 0x2c 0x14 0x1f1),
  (0x7C400064, .escal 0x64), (0x7D009564, .brk 0x9564),
  (0x7D720000, .dfold 0x64), (0x7DAC9117, .lmark 0x2c 0x9117)] = true := by decide +kernel

theorem test_decode_hint_and_pair : decodesB [
  (0x7E1C9564, .hintImm 0x1c9564), (0x7E757200, .hintMod 0x1 0x2 0x1 0x0 0x1 0x3 0x9),
  (0x7EA80000, .hintGuard 0x5), (0x7EE00000, .hintSched 0x1 0x0),
  (0x7F2C6390, .hintRep 0x2c 0x6 0x3 0x9), (0x7F5C9564, .hintNop 0x1c9564),
  (0xAC8BBE2B, .dpair 0x164 0xb 0x1f1 0xb), (0xAC8B0000, .dpairSingle 0x164 0xb)] = true := by decide +kernel


/-! ### Ill-formed terms: one or more for each check of Instr.wf -/

/-- Terms that no word stands for. -/
noncomputable def ills : List Instr := [
 .icmpS32 ⟨7,7,0,1,2,0⟩, .icmpS32 ⟨7,1,6,1,2,0⟩, .icmpN32 ⟨7,1,7,1,2,0⟩, .fcmpF32 ⟨7,7,0,1,2,0⟩, .plog 7 7 0 0 0 0, .cvt 7 1 2 15 0, .cvt 7 1 2 0 15, .cvt 7 1 2 8 12, .cvt 7 1 2 6 4, .cvt 7 2 3 4 6,
 .packhBf16x2 ⟨7,1,3⟩, .packhF16x2 ⟨7,1,3⟩, .unpackhBf16x2 ⟨7,1,3⟩, .unpackhF16x2 ⟨7,1,3⟩, .iaddwS64 ⟨7,1,2,3⟩, .iaddwS64 ⟨7,2,3,3⟩,
 .lpeersB64 ⟨7,2,3,1⟩, .lrankB64 ⟨7,2,3,1⟩, .lsameB64 ⟨7,2,3,1⟩, .movsRead 7 64 1 0, .movsRead 7 1 0 0x3FFF, .movsWrite 7 64 1 0x98, .movsWrite 7 1 0 0, .sIaddS64 ⟨1,2,4⟩, .sIsubS64 ⟨2,2,5⟩, .sIcmpS32 ⟨0,0,0,6⟩, .sIcmpN32 ⟨0,0,0,7⟩,
 .brs 6 0 0, .spawn 1 3, .spawnU 1 3, .launch 1 2, .launch 2 1, .xpand 3 2 1, .xpand 0 3 1, .xpand 0 2 6, .xnext 7, .recurse 1,
 .ldg ⟨7,1,2,1,0,0⟩, .stg ⟨7,1,2,2,0⟩, .lds ⟨7,1,2,1,0,0⟩, .sts ⟨7,2,2,2,0⟩, .ldc 7 2 2 3 0, .ldc 7 1 2 1 0,
 .atomAddS32 ⟨4,1,2,0⟩, .atomAddS32 ⟨2,1,3,0⟩, .atomFaddF32 ⟨4,1,2,0⟩, .atomMinS32 ⟨4,1,2,0⟩, .atomMaxS32 ⟨4,1,2,0⟩, .atomAndB32 ⟨4,1,2,0⟩, .atomOrB32 ⟨4,1,2,0⟩, .atomXchgB32 ⟨4,1,2,0⟩, .atomCasB32 ⟨2,1,2,0⟩, .atomAddN64 ⟨2,1,2,0⟩, .redAddS32 ⟨4,1,2⟩, .redFaddF32 ⟨4,1,2⟩, .redAddN64 ⟨2,1,2⟩, .ldAcqB32 ⟨4,1,2,0⟩, .stRelB32 ⟨4,1,2⟩, .scAddS32 ⟨1,1,2,0⟩, .scCasB32 ⟨4,2,2,0⟩, .scCasB32 ⟨2,1,2,0⟩,
 .atomAddS32Scr ⟨1,3,0⟩, .atomCasB32Scr ⟨1,2,0⟩, .atomAddN64Scr ⟨1,2,0⟩, .redAddN64Scr ⟨1,2⟩, .redAddS32Scr ⟨1,3⟩, .ldAcqB32Scr ⟨1,3,0⟩, .stRelB32Scr ⟨1,3⟩, .atomFaddF32Scr ⟨1,3,0⟩, .atomMinS32Scr ⟨1,3,0⟩, .atomMaxS32Scr ⟨1,3,0⟩, .atomAndB32Scr ⟨1,3,0⟩, .atomOrB32Scr ⟨1,3,0⟩, .atomXchgB32Scr ⟨1,3,0⟩, .redFaddF32Scr ⟨1,3⟩,
 .fence 4, .xfence 4 1 1, .xfence 0 0 1, .xfence 0 1 0, .xfence 0 32 1, .xfence 0 1 32, .watchB32 7 0 0, .watchB32 0 1 0, .watchB64 0 0 1, .waitc 4 0 0, .copy 1, .copyZero 2, .gather 1, .scatter 3, .scatterAdd 1, .tidset 1 0, .tidget 0 1 0, .aalloc 32 1, .aalloc 0 0, .aalloc 31 2, .afree 32 1, .afree 0 0,
 .chain 1 0, .chain 0 1, .chwait 0 0 0, .chwait 2 1 0, .chwait 2 0 1, .collAllred 1 0, .collAllred 0 1, .collRedsc 1 0, .collAllgat 1 0, .collBcast 0 1, .svc 0 1 0, .lmark 1 0,
 .hintMod 0 1 0 0 0 0 0, .hintMod 1 0 0 0 0 4 0, .hintGuard 7, .hintSched 0 0]

/-- Each is ill-formed, and its fields packed into a word do not decode. -/
theorem test_ill_formed : (ills.all fun i => !i.wf && !okB (decode (encode i))) = true := by decide +kernel

/-! ### Single steps against the spec's figures -/

/-- Lane 0 of v3 after an instruction, with v1 and v2 and what else the state needs; none where it does not go on. -/
def v3After (hs : List Word) (x y d : Word) (f : State → Host.Outcome State Fault Refusal) : Option Word :=
  match f (tstate id fun g => onSplit (chained hs) { g with v := [(32, x), (64, y), (96, d)].filter fun p => p.2 != 0 }) with
  | .next t => (t.group? 0 0).map fun g => g.getV 3 0
  | _ => none

/-- The code of the trap that an instruction raises on the state. -/
def trapCode (s : State) (f : State → Host.Outcome State Fault Refusal) : Option Nat :=
  match f s with
  | .next t => (t.group? 0 0).bind fun g => g.trap.map fun r => r.code
  | _ => none

/-- `hint.mod sat` (10 Table 10.1). -/
def hSat : List Word := [0x7E440000]

/-- 10 Table 10.1. -/
theorem test_overflow_wrap : v3After [] 0x7FFFFFFF 1 0 (execIadd ⟨7, 3, 1, 2⟩) = some 0x80000000 := by decide +kernel
theorem test_overflow_sat : v3After hSat 0x7FFFFFFF 1 0 (execIadd ⟨7, 3, 1, 2⟩) = some 0x7FFFFFFF := by decide +kernel
theorem test_sat_is_signed : v3After hSat 0xFFFFFFFF 1 7 (execIadd ⟨7, 3, 1, 2⟩) = some 0 := by decide +kernel
theorem test_iabs_wrap : v3After [] 0x80000000 0 0 (execIabsS32 ⟨7, 3, 1⟩) = some 0x80000000 := by decide +kernel
theorem test_iabs_sat : v3After hSat 0x80000000 0 0 (execIabsS32 ⟨7, 3, 1⟩) = some 0x7FFFFFFF := by decide +kernel
theorem test_cvt_low_byte : v3After [] 300 0 0 (execCvt 7 3 1 0 4) = some 0x2C := by decide +kernel
theorem test_cvt_low_byte_sat : v3After hSat 300 0 0 (execCvt 7 3 1 0 4) = some 0x7F := by decide +kernel
theorem test_cvt_float_clamps : v3After [] 0x4F32D05E 0 0 (execCvt 7 3 1 4 8) = some 0x7FFFFFFF := by decide +kernel

/-- 10 Table 10.2: a NaN with a payload. -/
theorem test_nan_fadd : v3After [] 0x7FA00001 0x40000000 0 (execFadd ⟨7, 3, 1, 2⟩) = some 0x7FC00000 := by decide +kernel
theorem test_nan_mov : v3After [] 0x7FA00001 0 0 (execMovB32 ⟨7, 3, 1⟩) = some 0x7FA00001 := by decide +kernel
theorem test_nan_cvt_same : v3After [] 0x7FA00001 0 0 (execCvt 7 3 1 8 8) = some 0x7FA00001 := by decide +kernel
theorem test_nan_fneg : v3After [] 0x7FA00001 0 0 (execFnegF32 ⟨7, 3, 1⟩) = some 0x7FC00000 := by decide +kernel
theorem test_nan_fmin : v3After [] 0x7FA00001 0x40000000 0 (execFmin ⟨7, 3, 1, 2⟩) = some 0x40000000 := by decide +kernel
theorem test_nan_xor : v3After [] 0x7FA00001 0x80000000 0 (execXor ⟨7, 3, 1, 2⟩) = some 0xFFA00001 := by decide +kernel

/-- 09 Table 9.1: operand order, and a destination that is also a source. -/
theorem test_isub_order : v3After [] 5 7 0 (execIsub ⟨7, 3, 1, 2⟩) = some 0xFFFFFFFE := by decide +kernel
theorem test_imac_old : v3After [] 6 7 100 (execImac ⟨7, 3, 1, 2⟩) = some 142 := by decide +kernel
theorem test_sel_bits : v3After [] 0xAAAA5555 0x12345678 0xFFFF0000 (execSel ⟨7, 3, 1, 2⟩) = some 0xAAAA5678 := by decide +kernel

/-- 10, D8 at the instruction, and 04 Table 4.2: D8 to integer rounds to nearest, and takes no rounding mode. -/
theorem test_d8_to_int : v3After [] 0x70 0 0 (execCvt 7 3 1 4 11) = some 6 := by decide +kernel
theorem test_d8_to_int_rm : trapCode (tstate id (onSplit (chained [0x7E680000]))) (execCvt 7 3 1 4 11) = some 1 := by decide +kernel
theorem test_d8_narrow : v3After [] 0xC0400000 0 0 (execCvt 7 3 1 11 8) = some 0xE7 := by decide +kernel

/-- 22 Table 22.1: Rng(4, 5), and three more points of Table 22.2. -/
theorem test_rng : (rng 4 5, rng 0 5, rng 1 5, rng 15 5) = (0x5DFAE3E4, 0xFC2E664B, 0xB7707065, 0xD0DBCAD6) := by decide +kernel

/-! ### Numbers (04) -/

/-- 04 Table 4.2. -/
theorem test_d8_out : convert 8 11 0 false false 0x61 = 0x3FA40000 ∧ convert 8 11 0 false false 0x41 = 0x3E033333 ∧
    convert 8 11 2 false false 0x41 = 0x3E033334 ∧ convert 8 11 0 false false 3 = 0x4E6E6B28 ∧
    convert 9 11 0 false false 3 = 0x7C00 ∧ convert 9 11 0 true false 3 = 0x7BFF ∧ convert 4 11 0 false false 0x7F = 10 ∧
    convert 4 11 0 false false 2 = 0 ∧ convert 8 11 0 false false 0x80 = 0x7FC00000 ∧ convert 8 11 0 false false 0x81 = 0xFF800000 := by
  decide +kernel

/-- 04 Table 4.3. -/
theorem test_d8_in : [0x40400000, 0xC0400000, 0x3CF5C28F, 0x3F920000, 0xAE2FEBFF, 0x80000000, 0x7FA00001].map (convert 11 8 0 false false) =
      [0x67, 0xE7, 0x2A, 0x60, 0, 0, 0x80] ∧
    [6625, 8875, 550000000, 990000000, 2000000000].map (convert 11 4 0 false false) = [0x1A, 0x1C, 0x07, 0x03, 0x03] ∧
    convert 11 4 0 false true 2000000000 = 1 := by decide +kernel

/-- 04 Tables 4.4 and 4.5: four chunks, one of them a tie. -/
theorem test_mixed_chunks : accumulate 0 ((FVal.ofInt (-128)).mul (BF16.value 0xC800) :: List.replicate 7 ((FVal.ofInt 1).mul (BF16.value 0x3F80)) ++
    (FVal.ofInt (-128)).mul (BF16.value 0x4800) :: List.replicate 23 ((FVal.ofInt 0).mul (BF16.value 0x3F80))) = 0x41000000 := by decide +kernel

/-- 04, a D8 chunk. -/
theorem test_d8_chunk : accumulate 0 [(d8Value 0x61).mul (d8Value 0x61), (d8Value 0x41).mul (d8Value 0x61), zeroVal, zeroVal, zeroVal, zeroVal, zeroVal, zeroVal] =
    0x3FE72333 := by decide +kernel

/-- FIPS 202: SHAKE256 of the empty message begins 46 B9 DD 2B. -/
theorem test_shake256 : shake256 4 [] = [0x46, 0xB9, 0xDD, 0x2B] := by decide +kernel

/-! ### Cells and home slices -/

/-- 08 Table 8.3 and the LLS of its example. -/
theorem test_throttle : [0, 1, 2, 3, 4].map throttle = [48, 37, 26, 15, 4] := by decide

theorem test_lls : (match execLlsUpdate 0 (State.reset.updCell 0 fun x => { x with h := 600, m := 2048 }) with
    | .next t => (t.cell 0).lls
    | _ => 9) = 2 := by decide +kernel

/-- 16 Table 16.2: two requests of one source, the first sent twice. -/
def twice : List (Option (BitVec 64)) × Nat :=
  let s := ((State.reset.homeWrite 4096 (bytesOf 4 100) 0).setSliceRec { slice := sliceOf 4096, src := 0, last := 40 })
  let r1 := s.request { src := 0, seq := 41, key := 4096, op := .atom 0 5 0 }
  let r2 := r1.2.request { src := 0, seq := 42, key := 4096, op := .atom 0 1 0 }
  let r3 := r2.2.request { src := 0, seq := 41, key := 4096, op := .atom 0 5 0 }
  ([r1.1, r2.1, r3.1], r3.2.homeRead 4096 4)

theorem test_exactly_once : twice = ([some 100, some 105, some 100], 106) := by decide +kernel

/-! ### Control and memory -/

/-- 18 Table 18.3, and the trap of the text below it. -/
theorem test_barrier_word : [(0x00200000, 0), (0x00200001, 1), (0x00200401, 0), (0x80200400, 1), (0x00200401, 1), (0x00200801, 1)].map
      (fun p => (barpArrive p.1 p.2).map fun r => r.2.2) =
    [some 0x00200001, some 0x00200401, some 0x80200400, some 0x00200000, some 0x00200801, none] := by decide +kernel

/-- The splits of the group after an instruction: mask, address, waiting or not. -/
def splitsAfter (s : State) (f : State → Host.Outcome State Fault Refusal) : List (Bool × Word × Nat) :=
  match f s with
  | .next t => (t.group? 0 0).elim [] fun g => (g.splits.filter fun x => x.live).map fun x => (x.wait == .none, x.mask, x.pc.toNat)
  | _ => []

/-- 12, cut 0, steps 15 to 21: `push done`, `br.uni p0, done`, and the last `join`; addresses from 65536. -/
def traced (st : List StackEntry) (sp : List Split) : State := tstate id fun g =>
  { g with valid := 15, p := [(0, 0xA)], stack := st, splits := sp ++ List.replicate (4 - sp.length) {} }
def doneJoin (arr : Word) : StackEntry := { kind := .join, owner := none, arr := arr, mask := 15, pos := 0, pc := 65608 }

theorem test_push : (match execPush 5 (traced [] [{ live := true, pc := 65588, mask := 15 }]) with
    | .next t => (t.group? 0 0).map fun g => g.stack
    | _ => none) = some [doneJoin 0] := by decide +kernel

theorem test_br_uni : splitsAfter (traced [doneJoin 0] [{ live := true, pc := 65592, mask := 15 }]) (execBrUni ⟨0, 4⟩) =
    [(true, 0xA, 65608), (true, 0x5, 65596)] := by decide +kernel

theorem test_join_waits : splitsAfter (traced [doneJoin 0] [{ live := true, pc := 65608, mask := 0xA }, { live := true, pc := 65596, mask := 5 }]) execJoin =
    [(false, 0xA, 65608), (true, 5, 65596)] := by decide +kernel

theorem test_join_merges : splitsAfter (traced [doneJoin 5] [{ live := true, pc := 65608, mask := 0xA },
    { live := true, pc := 65608, mask := 5, wait := .join }]) execJoin = [(true, 15, 65612)] := by decide +kernel

/-- 01 R3 and 15 R219: the least significant byte lies lowest. -/
theorem test_store_order : (match execStg ⟨7, 4, 0, 1, 1⟩ ((memState true 1 []).updGr ⟨0, 0, 0⟩ fun g => (g.setV 4 0 0x44332211).setV 5 0 0x88776655) with
    | .next t => t.laneBytes (some 0) 0x10400 8
    | _ => []) = [0x11, 0x22, 0x33, 0x44, 0x55, 0x66, 0x77, 0x88] := by decide +kernel

theorem witness_ZeroWord : ∃ (s : State) (c : Ctx), Ready s c false false true { s := true } [0] := ⟨s0, c0, ready_of (by decide +kernel)⟩

theorem witness_SampleWords : ∃ e : Nat × Instr, e ∈ sampleWords := ⟨(0x1283050A, .fadd ⟨2, 6, 5, 5⟩), List.mem_append_left _ (List.mem_append_left _ (List.mem_append_left _ (.head _)))⟩

end Sys2Proof.Tests
end

section
/-! Words that write one vector register lane by lane (09 R126), V3 words among them (09 R132): ready, they trap nothing and
write that register alone. -/
namespace Sys2Proof.VectorWords
open Sys2Proof.Machine Sys2Proof.Claims

/-! ### Saturation -/

/-- The model's clamp is Sat of 09 R131. -/
theorem satS_eq_clamp (w : Nat) (y : Int) : satS w y = clamp w y := by
  have hpos : (0 : Int) < 2 ^ (w - 1) := Int.pow_pos (by decide)
  unfold satS clamp
  push_cast
  generalize (2 : Int) ^ (w - 1) = m at hpos
  split
  · omega
  · split <;> omega

theorem narrow_eq_wrapSat (sat : Bool) (y : Int) : narrow sat y = wrapSat sat y := by
  rw [narrow, wrapSat, satS_eq_clamp]

/-! ### Words that write one vector register -/

/-- A word whose effect depends on no wait, no access and no place in a handler, and which leaves going on to the driver. -/
structure Plain (q : Req) : Prop where
  wf : q.wf = true
  noMod : q.noMod = false
  noHandler : q.noHandler = false
  mem : q.mem = false
  reads : q.reads = false
  rel : q.rel = false
  hold : q.hold = false

/-- Being ready depends on the set of the registers named alone. -/
theorem ready_of_subset {s : State} {c : Ctx} {imm guard rep : Bool} {m : Mods} {rs rs' : List Nat}
    (h : Ready s c imm guard rep m rs) (hsub : rs' ⊆ rs) : Ready s c imm guard rep m rs' :=
  { h with regs := fun r hr => h.regs r (hsub hr) }

/-- The driver `vlanes` writes its register in the participating lanes and touches nothing but vector registers (09 R126). -/
theorem vlanes_regs {c : Ctx} (g d : Nat) (f : Ctx → Group → Nat → Word) (val : Nat → Word) (gr : Group)
    (htidy : gr.tidy = true) (hv : gr.v = c.gr.v) (hs : gr.s = c.gr.s) (hp : gr.p = c.gr.p) (hf : ∀ l, f c gr l = val l) :
    Regs (vlanes g d f c gr) (vecTo c g d val) (sameS c) (sameP c) ∧
      { vlanes g d f c gr with v := gr.v, s := gr.s, p := gr.p } = gr := by
  obtain ⟨hget, -, hframe⟩ := Group.writeV_spec (lanesOf (c.part g)) d (f c gr) gr
    (fun l hl => ((mem_lanesOf _ l).mp hl).1) htidy
  have hsvals : (vlanes g d f c gr).s = c.gr.s := (congrArg Group.s hframe).trans hs
  have hpvals : (vlanes g d f c gr).p = c.gr.p := (congrArg Group.p hframe).trans hp
  refine ⟨⟨fun r l hl => ?_, fun r => ?_, fun p => ?_⟩, ?_⟩
  · rw [vlanes, hget r l hl, hf]
    simp only [vecTo, mem_lanesOf, hl, true_and, Group.getV, hv]
  · simp only [Group.getS, hsvals]
  · simp only [Group.getP, hpvals]
  · rw [hs, hp, ← hsvals, ← hpvals]
    exact hframe

/-- A ready plain word that writes one vector register by `vlanes`, from registers of its group, traps nothing and writes it. -/
theorem issueReg_vlanes_writes {s : State} {c : Ctx} {q : Req} (g d : Nat) (f : Ctx → Group → Nat → Word) (val : Nat → Word)
    (hr : Ready s c q.imm q.guard q.rep q.mods q.vr) (hq : Plain q)
    (hf : ∀ gr : Group, gr.v = c.gr.v → gr.s = c.gr.s → ∀ l, f c gr l = val l) :
    ∃ t, issueReg q (vlanes g d f) s = .next t ∧ Writes s c t (vecTo c g d val) (sameS c) (sameP c) := by
  refine issue_writes _ _ (vlanes g d f c) _ _ _ hr hq.wf (fun h => ?_) (fun h => ?_) hq.mem hq.reads hq.rel hq.hold rfl
    (fun _ _ _ => rfl) fun gr hv hs hp => ?_
  · simp [hq.noMod] at h
  · simp [hq.noHandler] at h
  · have htidy : gr.tidy = true := by rw [Group.tidy, hv, hs, hp]; exact hr.tidy
    exact vlanes_regs g d f val gr htidy hv hs hp (hf gr hv hs)

/-- 09 R132: a ready V3 word writes Op of A, B and Dold. -/
theorem v3op_writes {s : State} {c : Ctx} {x : V3} {mods : Mods} (word : Nat) (op : Hints → Word → Word → Word → Word)
    (hr : Ready s c false false true mods [x.d.toNat, x.a.toNat, x.b.toNat]) :
    ∃ t, v3op word x mods op s = .next t ∧ Writes s c t
      (vecTo c x.g.toNat x.d.toNat fun l => op c.h (c.gr.getV x.a.toNat l) (c.gr.getV x.b.toNat l) (c.gr.getV x.d.toNat l))
      (sameS c) (sameP c) :=
  issueReg_vlanes_writes _ _ _ _ hr ⟨rfl, rfl, rfl, rfl, rfl, rfl, rfl⟩ fun gr hv _ l => by simp only [Group.getV, hv]

theorem exec_iadd (x : V3) (s : State) : exec (.iadd x) s = execIadd x s := by rfl

/-- 09 Table 9.1: a ready `iadd` writes Wrap or Sat of S(A) + S(B). -/
theorem exec_iadd_writes {s : State} {c : Ctx} {x : V3}
    (hr : Ready s c false false true modS [x.d.toNat, x.a.toNat, x.b.toNat]) :
    ∃ t, exec (.iadd x) s = .next t ∧ Writes s c t
      (vecTo c x.g.toNat x.d.toNat fun l => wrapSat c.h.sat ((c.gr.getV x.a.toNat l).toInt + (c.gr.getV x.b.toNat l).toInt))
      (sameS c) (sameP c) := by
  simp only [exec_iadd, execIadd, narrow_eq_wrapSat]
  exact v3op_writes _ _ hr

end Sys2Proof.VectorWords

/-! The zero word (05 R60): it decodes by the round trip of `iadd`, and does not trap by the law of `iadd`. -/
namespace Sys2Proof.ZeroWord
open Sys2Proof.Machine Sys2Proof.VectorWords

theorem decode_zero : decode 0 = .ok (.iadd ⟨0, 0, 0, 0⟩) :=
  (Laws.RoundTrip.iadd ⟨0, 0, 0, 0⟩ rfl rfl).2

/-- Settles O52: the word of `iadd` with all fields 0 is 0, so the round trip decodes it, and the law of `iadd` gives its effect. -/
theorem zeroWord : Obligations.ZeroWord := by
  unfold Obligations.ZeroWord
  refine ⟨decode_zero, fun s c hr => ?_⟩
  exact exec_iadd_writes (x := ⟨0, 0, 0, 0⟩) (ready_of_subset hr (by simp))

end Sys2Proof.ZeroWord
end

section
/-! The operations of 09 Table 9.1: the model computes what the table says. -/
namespace Sys2Proof.VectorOps
open Sys2Proof.Machine Sys2Proof.Claims Sys2Proof.VectorWords

/-! ### Fields of a word -/

theorem bits_eq_extractLsb' {n : Nat} (x : BitVec n) (lo len : Nat) : bits x lo len = (x.extractLsb' lo len).toNat := by
  rw [bits, BitVec.extractLsb'_toNat, Nat.shiftRight_eq_div_pow]

theorem toNat_append_eq {m n : Nat} (x : BitVec m) (y : BitVec n) : (x ++ y).toNat = x.toNat * 2 ^ n + y.toNat := by
  rw [BitVec.toNat_append, ← Nat.shiftLeft_add_eq_or_of_lt y.isLt, Nat.shiftLeft_eq]

theorem signedOf_toNat {w : Nat} (x : BitVec w) : signedOf w x.toNat = x.toInt := by
  rw [signedOf, Nat.mod_eq_of_lt x.isLt, BitVec.toInt_eq_toNat_cond]

/-! ### Integers (09 Table 9.1) -/

/-- The upper word of an exact product (09 Table 9.1) is the quotient by 2^32. -/
theorem ofInt_div_eq_extractLsb' (y : Int) : BitVec.ofInt 32 (y / 2 ^ 32) = (BitVec.ofInt 64 y).extractLsb' 32 32 := by
  apply BitVec.eq_of_toNat_eq
  rw [BitVec.extractLsb'_toNat, BitVec.toNat_ofInt, BitVec.toNat_ofInt, Nat.shiftRight_eq_div_pow]
  omega

theorem opMulHiS_eq (a b : Word) : opMulHiS a b = (BitVec.ofInt 64 (a.toInt * b.toInt)).extractLsb' 32 32 :=
  ofInt_div_eq_extractLsb' (a.toInt * b.toInt)

/-- The absolute difference is the greater operand less the other. -/
theorem opAbd_eq (a b : Word) : opAbd a b = BitVec.ofNat 32 (max a.toInt b.toInt - min a.toInt b.toInt).toNat := by
  simp only [opAbd, sv]
  congr 1
  omega

/-- A choice by a condition is the choice by its negation with the branches exchanged. -/
theorem ite_eq_ite_of_iff_not {α : Type} {P Q : Prop} [Decidable P] [Decidable Q] (h : P ↔ ¬ Q) (p q : α) :
    (if P then p else q) = if Q then q else p := by
  by_cases hQ : Q
  · rw [if_neg fun hP => h.mp hP hQ, if_pos hQ]
  · rw [if_pos (h.mpr hQ), if_neg hQ]

theorem opShl_eq (a b : Word) : opShl a (nv b) = if 32 ≤ b.toNat then 0 else BitVec.ofNat 32 (a.toNat * 2 ^ b.toNat) := by
  have h : a <<< b.toNat = BitVec.ofNat 32 (a.toNat * 2 ^ b.toNat) := by
    apply BitVec.eq_of_toNat_eq
    rw [BitVec.toNat_shiftLeft, Nat.shiftLeft_eq, BitVec.toNat_ofNat]
  simp only [opShl, nv, h]

theorem opShr_eq (a b : Word) : opShr a (nv b) = if 32 ≤ b.toNat then 0 else BitVec.ofNat 32 (a.toNat / 2 ^ b.toNat) := by
  have h : a >>> b.toNat = BitVec.ofNat 32 (a.toNat / 2 ^ b.toNat) := by
    rw [← Nat.shiftRight_eq_div_pow, ← BitVec.toNat_ushiftRight, BitVec.ofNat_toNat, BitVec.setWidth_eq]
  simp only [opShr, nv, h]

theorem opSar_eq (a b : Word) : opSar a (nv b) = BitVec.ofInt 32 (a.toInt / 2 ^ min 31 b.toNat) := by
  simp only [opSar, nv, BitVec.sshiftRight, Int.shiftRight_eq_div_pow]
  push_cast
  rfl

theorem opRot_eq (a b : Word) : opRot a (nv b) = (a <<< (b.toNat % 32)) ||| (a >>> (32 - b.toNat % 32)) := by
  rw [opRot, nv, BitVec.rotateLeft_def, Nat.mod_mod]

/-- The dot product over the elements' signed values (03 R24, R50). -/
theorem dotInt_eq_dot (w n : Nat) (a b : Word) : dotInt w n a b = dot w n a b := by
  simp only [dotInt, dot, bits_eq_extractLsb', signedOf_toNat]

/-! ### Permutation of bytes (09 R134) -/

/-- A word of four bytes, the least significant first (00 R3). -/
theorem ofNat_ofBytes_four (p q r t : Byte) : BitVec.ofNat 32 (ofBytes [p, q, r, t]) = t ++ r ++ q ++ p := by
  apply BitVec.eq_of_toNat_eq
  have := p.isLt; have := q.isLt; have := r.isLt; have := t.isLt
  rw [BitVec.toNat_ofNat, toNat_append_eq, toNat_append_eq, toNat_append_eq]
  simp only [ofBytes]
  omega

/-- Byte k of a bit vector (00 R2, R3). -/
theorem ofNat_div_eq_extractLsb' {n : Nat} (x : BitVec n) (k : Nat) :
    BitVec.ofNat 8 (x.toNat / 256 ^ k) = x.extractLsb' (8 * k) 8 := by
  rw [BitVec.extractLsb', Nat.shiftRight_eq_div_pow, Nat.pow_mul]

/-- The byte of B:A that bits [2:0] of the selector name: of A below 4, else of B. -/
theorem byte_of_append (a b : Word) (k : Nat) : (b ++ a).extractLsb' (8 * k) 8 =
    if k < 4 then a.extractLsb' (8 * k) 8 else b.extractLsb' (8 * (k - 4)) 8 := by
  split
  · exact BitVec.extractLsb'_append_eq_of_add_le (by omega)
  · rw [BitVec.extractLsb'_append_eq_of_le (by omega), show 8 * k - 32 = 8 * (k - 4) by omega]

/-- One byte of `perm.b8`: 0 under a selector with bit 7 set, else the byte that it names. -/
theorem permByte_eq (a b d : Word) (j : Nat) :
    (if 128 ≤ bits d (8 * j) 8 then 0 else BitVec.ofNat 8 ((b ++ a).toNat / 256 ^ (bits d (8 * j) 8 % 8))) = permByte a b d j := by
  simp only [permByte, bits_eq_extractLsb']
  generalize d.extractLsb' (8 * j) 8 = c
  have htop : c.getLsbD 7 = decide (128 ≤ c.toNat) := BitVec.getLsbD_last c
  have hlow : (c.extractLsb' 0 3).toNat = c.toNat % 8 := by rw [BitVec.extractLsb'_toNat, Nat.shiftRight_zero]
  rw [htop, hlow, ofNat_div_eq_extractLsb', byte_of_append]
  simp only [decide_eq_true_eq]

theorem opPerm_eq (a b d : Word) :
    opPerm a b d = permByte a b d 3 ++ permByte a b d 2 ++ permByte a b d 1 ++ permByte a b d 0 := by
  simp only [opPerm, permByte_eq]
  exact ofNat_ofBytes_four _ _ _ _

/-! ### Floating point (09 R133; 03 R24) -/

theorem fMin_eq_lesser (a b : Word) : fMin a b = lesser a b := by
  unfold fMin lesser fLess
  cases (f32 a).isNan <;> cases (f32 b).isNan <;> simp [bit, and_assoc]

theorem fMax_eq_greater (a b : Word) : fMax a b = greater a b := by
  unfold fMax greater fLess
  cases (f32 a).isNan <;> cases (f32 b).isNan <;> simp [bit, and_assoc]

theorem half_eq_elem (x : Word) (e : Nat) : half x e = elem x e := bits_eq_extractLsb' x (16 * e) 16

theorem packHalf_eq_packed (f : Nat → Nat) : packHalf (f 0) (f 1) = packed f := by
  apply BitVec.eq_of_toNat_eq
  rw [packHalf, packed, toNat_append_eq]
  simp only [BitVec.toNat_ofNat]
  omega

theorem hAdd_eq (f : Fmt) (rm : Nat) (sat : Bool) (a b : Word) : hAdd f rm sat a b =
    packed fun e => f.round rm sat ((f.value (elem a e)).add rm (f.value (elem b e))) := by
  rw [← packHalf_eq_packed]
  simp only [hAdd, half_eq_elem]

theorem hMul_eq (f : Fmt) (rm : Nat) (sat : Bool) (a b : Word) : hMul f rm sat a b =
    packed fun e => f.round rm sat ((f.value (elem a e)).mul (f.value (elem b e))) := by
  rw [← packHalf_eq_packed]
  simp only [hMul, half_eq_elem]

theorem hFma_eq (f : Fmt) (rm : Nat) (sat : Bool) (a b d : Word) : hFma f rm sat a b d =
    packed fun e => f.round rm sat (((f.value (elem a e)).mul (f.value (elem b e))).add rm (f.value (elem d e))) := by
  rw [← packHalf_eq_packed]
  simp only [hFma, half_eq_elem]

end Sys2Proof.VectorOps
end

section
/-! Three-register vector words (09 R132 to R134, Table 9.1). -/
namespace Sys2Proof.ThreeRegister
open Sys2Proof.Machine Sys2Proof.Claims Sys2Proof.VectorWords Sys2Proof.VectorOps

/-! ### Decoding (05 Table 5.4) -/

/-- The fields of a V3 word (05 R53). -/
def v3Of (w : Nat) : V3 := ⟨bf w 22 3, bf w 15 7, bf w 8 7, bf w 1 7⟩

/-- Of a major that holds two V3 rows, bit 0 of the word chooses one. -/
theorem rawDecode_of_rows {w : Nat} (m : Nat) {e₀ e₁ : (V3 → Instr) × Accepts × Op3}
    (h₀ : table91[2 * m]? = some e₀) (h₁ : table91[2 * m + 1]? = some e₁)
    (h : rawDecode w = if fld w 0 1 = 0 then some (e₀.1 (v3Of w)) else if fld w 0 1 = 1 then some (e₁.1 (v3Of w)) else none) :
    ∃ e ∈ table91, rawDecode w = some (e.1 (v3Of w)) := by
  have hbit : fld w 0 1 = 0 ∨ fld w 0 1 = 1 := by unfold fld; omega
  rcases hbit with hbit | hbit
  · exact ⟨e₀, List.mem_of_getElem? h₀, by rw [h, hbit]; rfl⟩
  · exact ⟨e₁, List.mem_of_getElem? h₁, by rw [h, hbit]; rfl⟩

/-- The rows of 09 Table 9.1 stand in the order of the opcode map, two to a major. -/
theorem rawDecode_v3 {w : Nat} (hw : fld w 25 7 < 16) : ∃ e ∈ table91, rawDecode w = some (e.1 (v3Of w)) := by
  generalize hm : fld w 25 7 = m at hw
  match m, hw, hm with
  | 0, _, hm => exact rawDecode_of_rows 0 rfl rfl (Laws.raw00 hm)
  | 1, _, hm => exact rawDecode_of_rows 1 rfl rfl (Laws.raw01 hm)
  | 2, _, hm => exact rawDecode_of_rows 2 rfl rfl (Laws.raw02 hm)
  | 3, _, hm => exact rawDecode_of_rows 3 rfl rfl (Laws.raw03 hm)
  | 4, _, hm => exact rawDecode_of_rows 4 rfl rfl (Laws.raw04 hm)
  | 5, _, hm => exact rawDecode_of_rows 5 rfl rfl (Laws.raw05 hm)
  | 6, _, hm => exact rawDecode_of_rows 6 rfl rfl (Laws.raw06 hm)
  | 7, _, hm => exact rawDecode_of_rows 7 rfl rfl (Laws.raw07 hm)
  | 8, _, hm => exact rawDecode_of_rows 8 rfl rfl (Laws.raw08 hm)
  | 9, _, hm => exact rawDecode_of_rows 9 rfl rfl (Laws.raw09 hm)
  | 10, _, hm => exact rawDecode_of_rows 10 rfl rfl (Laws.raw0A hm)
  | 11, _, hm => exact rawDecode_of_rows 11 rfl rfl (Laws.raw0B hm)
  | 12, _, hm => exact rawDecode_of_rows 12 rfl rfl (Laws.raw0C hm)
  | 13, _, hm => exact rawDecode_of_rows 13 rfl rfl (Laws.raw0D hm)
  | 14, _, hm => exact rawDecode_of_rows 14 rfl rfl (Laws.raw0E hm)
  | 15, _, hm => exact rawDecode_of_rows 15 rfl rfl (Laws.raw0F hm)
  | _ + 16, hw, _ => omega

/-- No field of a V3 word traps (05 R55). -/
theorem wf_of_mem_table91 {e : (V3 → Instr) × Accepts × Op3} (he : e ∈ table91) (x : V3) : (e.1 x).wf = true := by
  have hrows : table91.map (fun e x => (e.1 x).wf) = List.replicate 32 fun _ => true := rfl
  have hmem := List.mem_map_of_mem (f := fun e x => (e.1 x).wf) he
  rw [hrows] at hmem
  exact congrFun (List.eq_of_mem_replicate hmem) x

/-- Every word of majors 0x00 to 0x0F is an instruction of 09 Table 9.1. -/
theorem decode_v3 {w : Nat} (hw : w < 16 * 2 ^ 25) : ∃ e ∈ table91, ∃ x, decode w = .ok (e.1 x) := by
  obtain ⟨e, he, hraw⟩ := rawDecode_v3 (w := w) (by unfold fld; omega)
  exact ⟨e, he, v3Of w, (Laws.decode_of (by omega) hraw (wf_of_mem_table91 he _)).2⟩

/-! ### Execution -/

/-- A row of 09 Table 9.1 holds: its ready words write Op of A, B and Dold (09 R132). -/
def RowHolds (e : (V3 → Instr) × Accepts × Op3) : Prop :=
  ∀ (s : State) (c : Ctx) (x : V3), Ready s c false false true e.2.1.mods [x.d.toNat, x.a.toNat, x.b.toNat] →
    ∃ t, exec (e.1 x) s = .next t ∧ Writes s c t
      (vecTo c x.g.toNat x.d.toNat fun l => e.2.2 c.h.rm c.h.sat (c.gr.getV x.a.toNat l) (c.gr.getV x.b.toNat l) (c.gr.getV x.d.toNat l))
      (sameS c) (sameP c)

/-- A row holds where its meaning is the driver `v3op` on the operation of the table. -/
theorem rowHolds_of_v3op {i : V3 → Instr} {m : Accepts} {op : Op3} {word : V3 → Nat} {f : Hints → Word → Word → Word → Word}
    (meaning : V3 → State → Host.Outcome State Fault Refusal) (hexec : ∀ x s, exec (i x) s = meaning x s)
    (hdriver : ∀ x s, meaning x s = v3op (word x) x m.mods f s) (hop : ∀ h a b d, f h a b d = op h.rm h.sat a b d) :
    RowHolds (i, m, op) := by
  intro s c x hr
  simp only [hexec, hdriver, ← hop]
  exact v3op_writes _ _ hr

/-- The integer rows. -/
theorem rowHolds_table91a : ∀ e ∈ table91a, RowHolds e := by
  simp only [table91a, List.forall_mem_cons]
  exact ⟨
    rowHolds_of_v3op execIadd (fun _ _ => rfl) (fun _ _ => rfl) fun h a b _ => narrow_eq_wrapSat h.sat (a.toInt + b.toInt),
    rowHolds_of_v3op execIsub (fun _ _ => rfl) (fun _ _ => rfl) fun h a b _ => narrow_eq_wrapSat h.sat (a.toInt - b.toInt),
    rowHolds_of_v3op execImulLo (fun _ _ => rfl) (fun _ _ => rfl) fun h a b _ => narrow_eq_wrapSat h.sat (a.toInt * b.toInt),
    rowHolds_of_v3op execImulHiS (fun _ _ => rfl) (fun _ _ => rfl) fun _ a b _ => opMulHiS_eq a b,
    rowHolds_of_v3op execImac (fun _ _ => rfl) (fun _ _ => rfl) fun h a b d => narrow_eq_wrapSat h.sat (d.toInt + a.toInt * b.toInt),
    rowHolds_of_v3op execIabd (fun _ _ => rfl) (fun _ _ => rfl) fun _ a b _ => opAbd_eq a b,
    rowHolds_of_v3op execIminS (fun _ _ => rfl) (fun _ _ => rfl) fun _ a b _ => ite_eq_ite_of_iff_not Int.not_le.symm b a,
    rowHolds_of_v3op execImaxS (fun _ _ => rfl) (fun _ _ => rfl) fun _ a b _ => ite_eq_ite_of_iff_not Int.not_le.symm b a,
    rowHolds_of_v3op execIminN (fun _ _ => rfl) (fun _ _ => rfl) fun _ a b _ => ite_eq_ite_of_iff_not Nat.not_le.symm b a,
    rowHolds_of_v3op execImaxN (fun _ _ => rfl) (fun _ _ => rfl) fun _ a b _ => ite_eq_ite_of_iff_not Nat.not_le.symm b a,
    rowHolds_of_v3op execAnd (fun _ _ => rfl) (fun _ _ => rfl) fun _ _ _ _ => rfl,
    rowHolds_of_v3op execOr (fun _ _ => rfl) (fun _ _ => rfl) fun _ _ _ _ => rfl,
    rowHolds_of_v3op execXor (fun _ _ => rfl) (fun _ _ => rfl) fun _ _ _ _ => rfl,
    rowHolds_of_v3op execAndn (fun _ _ => rfl) (fun _ _ => rfl) fun _ _ _ _ => rfl,
    rowHolds_of_v3op execShl (fun _ _ => rfl) (fun _ _ => rfl) fun _ a b _ => opShl_eq a b,
    rowHolds_of_v3op execShr (fun _ _ => rfl) (fun _ _ => rfl) fun _ a b _ => opShr_eq a b,
    rowHolds_of_v3op execSar (fun _ _ => rfl) (fun _ _ => rfl) fun _ a b _ => opSar_eq a b,
    rowHolds_of_v3op execRot (fun _ _ => rfl) (fun _ _ => rfl) fun _ a b _ => opRot_eq a b,
    List.forall_mem_nil _⟩

/-- The floating-point rows, and those of packed elements. -/
theorem rowHolds_table91b : ∀ e ∈ table91b, RowHolds e := by
  simp only [table91b, List.forall_mem_cons]
  exact ⟨
    rowHolds_of_v3op execFadd (fun _ _ => rfl) (fun _ _ => rfl) fun _ _ _ _ => rfl,
    rowHolds_of_v3op execFsub (fun _ _ => rfl) (fun _ _ => rfl) fun _ _ _ _ => rfl,
    rowHolds_of_v3op execFmul (fun _ _ => rfl) (fun _ _ => rfl) fun _ _ _ _ => rfl,
    rowHolds_of_v3op execFfma (fun _ _ => rfl) (fun _ _ => rfl) fun _ _ _ _ => rfl,
    rowHolds_of_v3op execFmin (fun _ _ => rfl) (fun _ _ => rfl) fun _ a b _ => fMin_eq_lesser a b,
    rowHolds_of_v3op execFmax (fun _ _ => rfl) (fun _ _ => rfl) fun _ a b _ => fMax_eq_greater a b,
    rowHolds_of_v3op execHaddBf16x2 (fun _ _ => rfl) (fun _ _ => rfl) fun h a b _ => hAdd_eq BF16 h.rm h.sat a b,
    rowHolds_of_v3op execHmulBf16x2 (fun _ _ => rfl) (fun _ _ => rfl) fun h a b _ => hMul_eq BF16 h.rm h.sat a b,
    rowHolds_of_v3op execHfmaBf16x2 (fun _ _ => rfl) (fun _ _ => rfl) fun h a b d => hFma_eq BF16 h.rm h.sat a b d,
    rowHolds_of_v3op execHfmaF16x2 (fun _ _ => rfl) (fun _ _ => rfl) fun h a b d => hFma_eq F16 h.rm h.sat a b d,
    rowHolds_of_v3op execSel (fun _ _ => rfl) (fun _ _ => rfl) fun _ _ _ _ => rfl,
    rowHolds_of_v3op execPermB8 (fun _ _ => rfl) (fun _ _ => rfl) fun _ a b d => opPerm_eq a b d,
    rowHolds_of_v3op execDot4S8 (fun _ _ => rfl) (fun _ _ => rfl) fun h a b d => by rw [dotInt_eq_dot]; exact narrow_eq_wrapSat _ _,
    rowHolds_of_v3op execDot8S4 (fun _ _ => rfl) (fun _ _ => rfl) fun h a b d => by rw [dotInt_eq_dot]; exact narrow_eq_wrapSat _ _,
    List.forall_mem_nil _⟩

/-- Settles O1: every word of majors 0x00 to 0x0F decodes to a row of 09 Table 9.1, and each row holds, since the driver of all
V3 words writes the operation of its table. -/
theorem threeOperandVector : Obligations.ThreeOperandVector := by
  unfold Obligations.ThreeOperandVector
  refine ⟨fun w hw => decode_v3 hw, fun e he => ?_⟩
  rcases List.mem_append.mp he with ha | hb
  · exact rowHolds_table91a e ha
  · exact rowHolds_table91b e hb

end Sys2Proof.ThreeRegister
end

section
/-! Words that write a predicate under the combine field (09 R135, R136). -/
namespace Sys2Proof.PredicateWords
open Sys2Proof.Machine Sys2Proof.Claims Sys2Proof.VectorWords

/-! ### Masks of lanes -/

theorem getLsbD_laneBit (a i : Nat) : ((1 <<< a : Nat) : Word).getLsbD i = (decide (i < 32) && decide (a = i)) := by
  rw [BitVec.natCast_eq_ofNat, BitVec.getLsbD_ofNat, Nat.one_shiftLeft, Nat.testBit_two_pow]

theorem getLsbD_foldl_lanes (ls : List Nat) (m : Word) (i : Nat) :
    (ls.foldl (fun m l => m ||| ((1 <<< l : Nat) : Word)) m).getLsbD i = (m.getLsbD i || (decide (i < 32) && decide (i ∈ ls))) := by
  induction ls generalizing m with
  | nil => simp
  | cons a t ih =>
    rw [List.foldl_cons, ih, BitVec.getLsbD_or, getLsbD_laneBit, Bool.or_assoc, ← Bool.and_or_distrib_left]
    simp only [List.mem_cons, Bool.decide_or, eq_comm]

theorem getLsbD_maskIf (m : Word) (f : Nat → Bool) (i : Nat) : (maskIf m f).getLsbD i = (m.getLsbD i && f i) := by
  rw [maskIf, maskOf, getLsbD_foldl_lanes]
  by_cases hi : i < 32
  · simp [mem_lanesOf, hi]
  · simp [hi, BitVec.getLsbD_of_ge m i (by omega)]

theorem maskIf_and_self (m : Word) (f : Nat → Bool) : maskIf m f &&& m = maskIf m f := by
  apply BitVec.eq_of_getLsbD_eq
  intro i _
  rw [BitVec.getLsbD_and, getLsbD_maskIf, Bool.and_right_comm, Bool.and_self]

/-! ### The combine field (09 R135) -/

theorem combine_eq_combined (cm : Nat) (p t : Bool) : combine cm p t = combined cm p t := rfl

theorem setP_frame (g : Group) (p : Nat) (m x : Word) : { g.setP p m x with p := g.p } = g := by
  unfold Group.setP
  split <;> rfl

/-- A combined write changes its predicate in the lanes of the mask, and nothing but predicates. -/
theorem combineP_regs {c : Ctx} (m : Word) (pd cm : Nat) (t : Nat → Bool) {gr : Group} (htidy : gr.tidy = true)
    (hv : gr.v = c.gr.v) (hs : gr.s = c.gr.s) (hp : gr.p = c.gr.p) :
    Regs (gr.combineP m pd cm t) (sameV c) (sameS c) (prdComb c m pd cm t) ∧
      { gr.combineP m pd cm t with v := gr.v, s := gr.s, p := gr.p } = gr := by
  have hframe : { gr.combineP m pd cm t with p := gr.p } = gr := setP_frame gr pd m _
  have hvvals : (gr.combineP m pd cm t).v = c.gr.v := (congrArg Group.v hframe).trans hv
  have hsvals : (gr.combineP m pd cm t).s = c.gr.s := (congrArg Group.s hframe).trans hs
  have hpsame (p : Nat) : gr.getP p = c.gr.getP p := by simp only [Group.getP, hp]
  simp only [Group.tidy, Bool.and_eq_true] at htidy
  refine ⟨⟨fun r l _ => ?_, fun r => ?_, fun p => ?_⟩, ?_⟩
  · simp only [Group.getV, hvvals]
  · simp only [Group.getS, hsvals]
  · rw [Group.combineP, Group.getP_setP _ _ _ _ _ htidy.2, maskIf_and_self]
    simp only [hpsame, prdComb, prdTo, combine_eq_combined]
  · rw [hv, hs, ← hvvals, ← hsvals]
    exact hframe

/-- A ready plain word that combines a test of its group's registers into a predicate traps nothing and writes it. -/
theorem issueReg_combineP_writes {s : State} {c : Ctx} {q : Req} (g pd cm : Nat) (f : Group → Nat → Bool) (test : Nat → Bool)
    (hr : Ready s c q.imm q.guard q.rep q.mods q.vr) (hq : Plain q)
    (hf : ∀ gr : Group, gr.v = c.gr.v → gr.p = c.gr.p → f gr = test) :
    ∃ t, issueReg q (fun c gr => gr.combineP (c.part g) pd cm (f gr)) s = .next t ∧
      Writes s c t (sameV c) (sameS c) (prdComb c (c.part g) pd cm test) := by
  refine issue_writes _ _ (fun gr => gr.combineP (c.part g) pd cm (f gr)) _ _ _ hr hq.wf (fun h => ?_) (fun h => ?_) hq.mem hq.reads
    hq.rel hq.hold rfl (fun _ _ _ => rfl) fun gr hv hs hp => ?_
  · simp [hq.noMod] at h
  · simp [hq.noHandler] at h
  · have htidy : gr.tidy = true := by rw [Group.tidy, hv, hs, hp]; exact hr.tidy
    rw [hf gr hv hp]
    exact combineP_regs _ _ _ _ htidy hv hs hp

/-- A word whose own fields are not legal traps ILLEGAL_INSTRUCTION before any other check (05 R61). -/
theorem issueReg_illegal {s : State} {c : Ctx} {q : Req} (f : Ctx → Group → Group) (hctx : s.ctx? = some c)
    (hwin : c.sp.windows = []) (hwf : q.wf = false) (hmem : q.mem = false) (hreads : q.reads = false) (hrel : q.rel = false) :
    issueReg q f s = .next (s.raise c q.word { code := ILLEGAL }) := by
  have hwaits : q.waits c = false := by simp [Req.waits, hwin]
  have hsettle : c.settle q = c := by simp [Ctx.settle, hwin]
  have hreject : q.reject c = some { code := ILLEGAL } := by simp [Req.reject, hwf]
  simp [issueReg, issue, issueFull, issueAt, hctx, hwaits, hsettle, hreject, hwin, State.scHeld_plain hmem hreads,
    State.relHeld_plain hrel]

end Sys2Proof.PredicateWords

/-! Compares and predicate logic (09 R135, R136, Table 9.2). -/
namespace Sys2Proof.Compares
open Sys2Proof.Machine Sys2Proof.Claims Sys2Proof.VectorWords Sys2Proof.PredicateWords

/-! ### Conditions (09 Table 9.2) -/

theorem condOf_eq_condInt (cc : Nat) (x y : Int) : condOf cc (x == y) (decide (x < y)) = condInt cc x y := by
  have hle : (decide (x < y) || x == y) = decide (x ≤ y) := by
    rw [Bool.eq_iff_iff, Bool.or_eq_true, decide_eq_true_eq, decide_eq_true_eq, beq_iff_eq]; omega
  have hgt : (!decide (x ≤ y)) = decide (y < x) := by rw [← decide_not, decide_eq_decide, Int.not_le]
  have hge : (!decide (x < y)) = decide (y ≤ x) := by rw [← decide_not, decide_eq_decide, Int.not_lt]
  match cc with
  | 0 | 1 | 2 => rfl
  | 3 => exact hle
  | 4 => exact (congrArg _ hle).trans hgt
  | _ + 5 => exact hge

theorem condS_eq (cc : Nat) (a b : Word) : condS cc a b = condInt cc a.toInt b.toInt := by
  have heq : (a == b) = (a.toInt == b.toInt) := by rw [Bool.eq_iff_iff, beq_iff_eq, beq_iff_eq, BitVec.toInt_inj]
  rw [← condOf_eq_condInt, condS, heq, sv, sv]

theorem condN_eq (cc : Nat) (a b : Word) : condN cc a b = condInt cc a.toNat b.toNat := by
  have heq : (a == b) = ((a.toNat : Int) == b.toNat) := by rw [Bool.eq_iff_iff, beq_iff_eq, beq_iff_eq, Int.ofNat_inj, BitVec.toNat_inj]
  rw [← condOf_eq_condInt, condN, heq, nv, nv]
  simp only [Int.ofNat_lt]

theorem condF_eq (cc : Nat) (a b : Word) : condF cc a b = condFloat cc (f32 a) (f32 b) := by
  match cc with
  | 0 | 1 | 2 | 3 | 4 | 5 => rfl
  | 6 => exact Bool.not_or _ _
  | _ + 7 => rfl

/-- The functions of `plog` (09 R136). -/
theorem plogFn_eq_plogTable (cc : Nat) (a b : Bool) : plogFn cc a b = plogTable cc a b := by
  match cc with
  | 0 | 1 | 2 | 3 | 4 | 5 => rfl
  | 6 => cases a <;> cases b <;> rfl
  | _ + 7 => rfl

/-! ### Compares -/

/-- A row of compares holds: its ready words combine the test of A and B into their predicate, and trap where they name p7 or a
condition code that is not listed (09 R135). -/
def CompareHolds (e : (VC → Instr) × Nat × (Nat → Word → Word → Bool)) : Prop :=
  ∀ (s : State) (c : Ctx) (x : VC), Ready s c false false true {} [x.a.toNat, x.b.toNat] →
    (x.pd ≠ 7 ∧ x.cc.toNat ≤ e.2.1 → ∃ t, exec (e.1 x) s = .next t ∧ Writes s c t (sameV c) (sameS c)
      (prdComb c (c.part x.g.toNat) x.pd.toNat x.cm.toNat fun l => e.2.2 x.cc.toNat (c.gr.getV x.a.toNat l) (c.gr.getV x.b.toNat l))) ∧
    (x.pd = 7 ∨ e.2.1 < x.cc.toNat → exec (e.1 x) s = .next (s.raise c (wordOf (e.1 x)) { code := ILLEGAL }))

theorem vcmp_writes {s : State} {c : Ctx} {x : VC} {top : Nat} (word : Nat) (test : Word → Word → Bool)
    (hr : Ready s c false false true {} [x.a.toNat, x.b.toNat]) (hpd : x.pd ≠ 7) (hcc : x.cc.toNat ≤ top) :
    ∃ t, vcmp word x top test s = .next t ∧ Writes s c t (sameV c) (sameS c)
      (prdComb c (c.part x.g.toNat) x.pd.toNat x.cm.toNat fun l => test (c.gr.getV x.a.toNat l) (c.gr.getV x.b.toNat l)) :=
  have hwf : (x.pd != 7 && decide (x.cc.toNat ≤ top)) = true :=
    Bool.and_eq_true_iff.mpr ⟨bne_iff_ne.mpr hpd, decide_eq_true hcc⟩
  issueReg_combineP_writes _ _ _ _ _ hr ⟨hwf, rfl, rfl, rfl, rfl, rfl, rfl⟩ fun gr hv _ => by simp only [Group.getV, hv]

theorem vcmp_illegal {s : State} {c : Ctx} {x : VC} {top : Nat} (word : Nat) (test : Word → Word → Bool)
    (hctx : s.ctx? = some c) (hwin : c.sp.windows = []) (h : x.pd = 7 ∨ top < x.cc.toNat) :
    vcmp word x top test s = .next (s.raise c word { code := ILLEGAL }) := by
  refine issueReg_illegal _ hctx hwin ?_ rfl rfl rfl
  rcases h with hpd | hcc
  · simp [hpd]
  · simp [Nat.not_le.mpr hcc]

/-- A row holds where its meaning is the driver `vcmp` on the test of the table. -/
theorem compareHolds_of_vcmp {i : VC → Instr} {top : Nat} {test f : Nat → Word → Word → Bool}
    (meaning : VC → State → Host.Outcome State Fault Refusal) (hexec : ∀ x s, exec (i x) s = meaning x s)
    (hdriver : ∀ x s, meaning x s = vcmp (wordOf (i x)) x top (f x.cc.toNat) s) (htest : ∀ cc a b, f cc a b = test cc a b) :
    CompareHolds (i, top, test) := by
  intro s c x hr
  simp only [hexec, hdriver, ← htest]
  exact ⟨fun ⟨hpd, hcc⟩ => vcmp_writes _ _ hr hpd hcc, vcmp_illegal _ _ hr.ctx hr.windows⟩

theorem compareHolds_tableVC : ∀ e ∈ tableVC, CompareHolds e := by
  simp only [tableVC, List.forall_mem_cons]
  exact ⟨
    compareHolds_of_vcmp execIcmpS32 (fun _ _ => rfl) (fun _ _ => rfl) condS_eq,
    compareHolds_of_vcmp execIcmpN32 (fun _ _ => rfl) (fun _ _ => rfl) condN_eq,
    compareHolds_of_vcmp execFcmpF32 (fun _ _ => rfl) (fun _ _ => rfl) condF_eq,
    List.forall_mem_nil _⟩

/-! ### Predicate logic -/

theorem exec_plog (g p f a b : BitVec 3) (m : BitVec 2) (s : State) : exec (.plog g p f a b m) s = execPlog g p f a b m s := by
  rfl

/-- `plog` combines its function of two predicates into a third (09 R136). -/
theorem exec_plog_writes {s : State} {c : Ctx} {g p f a b : BitVec 3} {m : BitVec 2} (hr : Ready s c false false true {} [])
    (hp : p ≠ 7) : ∃ t, exec (.plog g p f a b m) s = .next t ∧ Writes s c t (sameV c) (sameS c)
      (prdComb c (c.part g.toNat) p.toNat m.toNat fun l =>
        plogTable f.toNat ((c.gr.getP a.toNat).getLsbD l) ((c.gr.getP b.toNat).getLsbD l)) := by
  simp only [exec_plog, execPlog, ← plogFn_eq_plogTable]
  exact issueReg_combineP_writes _ _ _ _ _ hr ⟨bne_iff_ne.mpr hp, rfl, rfl, rfl, rfl, rfl, rfl⟩ fun gr _ hgp => by
    simp only [Group.getP, hgp]

theorem exec_plog_illegal {s : State} {c : Ctx} (g f a b : BitVec 3) (m : BitVec 2) (hctx : s.ctx? = some c)
    (hwin : c.sp.windows = []) :
    exec (.plog g 7 f a b m) s = .next (s.raise c (wordOf (.plog g 7 f a b m)) { code := ILLEGAL }) :=
  issueReg_illegal _ hctx hwin rfl rfl rfl rfl

/-- The reserved bits of major 0x13 are zero in every instruction (05 R59). -/
theorem decode_plog_reserved {w : Nat} (hw : w < 2 ^ 32) (hmajor : w / 2 ^ 25 = 0x13)
    (hres : w / 2 ^ 12 % 16 ≠ 0 ∨ w / 2 ^ 5 % 16 ≠ 0) : decode w = .error .noRow := by
  have hfld : fld w 25 7 = 0x13 := by unfold fld; omega
  have hfields : ¬ (fld w 5 4 = 0 ∧ fld w 12 4 = 0) := by unfold fld; omega
  rw [decode, Nat.mod_eq_of_lt hw, Laws.raw13 hfld, decode13, if_neg hfields]

/-- Settles O6: compares go by the driver `vcmp` and `plog` by the same combined write; both trap at their own fields first. -/
theorem comparesAndLogic : Obligations.ComparesAndLogic := by
  unfold Obligations.ComparesAndLogic
  refine ⟨compareHolds_tableVC, fun _ => rfl, fun w hw hmajor hres => ⟨_, decode_plog_reserved hw hmajor hres⟩, ?_⟩
  intro s c g p f a b m hr
  refine ⟨fun hp => exec_plog_writes hr hp, fun hp => ?_⟩
  subst hp
  exact exec_plog_illegal g f a b m hr.ctx hr.windows

end Sys2Proof.Compares
end
